-- ==== Sys2Proof/Word.lean ====
section
/-!
DEFINITION. The widths of the manual's values (00 R2, 04 R64).
-/
namespace Sys2Proof

/-- A byte of memory. -/
abbrev Byte := BitVec 8
/-- A 16-bit value (bounds of 04 R75, half registers of maps). -/
abbrev Half := BitVec 16
/-- A 32-bit register, instruction word or lane mask. -/
abbrev Word := BitVec 32
/-- A 64-bit value or a virtual address (05 R82). -/
abbrev DWord := BitVec 64

end Sys2Proof
end

