-- ==== Sys2Proof/Config.lean ====
section
/-!
DEFINITION. What an implementation fixes and what the manual leaves open. The opaque functions have no body: nothing in Lean can
say what they answer, so a claim holds whatever they are (notes/assumptions/3.md). Each is applied to the counter `State.free`,
which a step reads and advances.
-/
namespace Sys2Proof.Config

/-- UNVERIFIED. A read of a register whose long-latency write is outstanding yields the old value or the new (R53): which of them. -/
opaque freeRead : Nat → Nat → Bool
/-- UNVERIFIED. The order in which G places the lanes of one word that touch the same bytes (R107): the key of a lane. -/
opaque freeOrder : Nat → Nat → Nat
/-- UNVERIFIED. The entry that a full TLB evicts (R93 gives no order). -/
opaque freeVictim : Nat → Nat
/-- UNVERIFIED. The set of a second-level TLB in which an entry stands, by ASID, page and page-size exponent (R93 gives no index function). -/
opaque tlbSet : Nat → Nat → Nat → Nat
/-- UNVERIFIED. A byte the manual leaves undefined: TMPVA after a sort (R297), a save-area byte of no stated meaning. -/
opaque freeByte : Nat → Byte
/-- UNVERIFIED. Whether a host byte read by the device shows a write that is not yet published (R349). -/
opaque freeHost : Nat → Nat → Bool
/-- UNVERIFIED. The energy in µJ that an island's meter reads in an interval, where no reading is given (R355: within 3 per cent of the true energy). -/
opaque freeEnergy : Nat → Nat → Nat

/-- UNVERIFIED. The clocks a shared island counts in a tempo period (Table 18.1); the manual gives its requests no durations. -/
opaque freeCount : Nat → Nat → Nat

/-- UNVERIFIED. By how much more than 1 a core's CTIME rises at the end of a window with loads (R109). -/
opaque freeAdvance : Nat → Nat

/-- UNVERIFIED. A byte of another rank's contribution to a collective (R275), by counter, rank and offset. -/
opaque freeRank : Nat → Nat → Nat → Byte
/-- UNVERIFIED. How the other modules of a collective answer: in full, not at all, or with other parameters (Table 25.5); how the target
of a copy's packet answers (R380). -/
opaque freeOutcome : Nat → Nat

/-- UNVERIFIED. How many fabric clocks beyond one a slice takes to serve a request other than a read that hits (R366), by the half clock it begins in
and the slice. -/
opaque freeService : Nat → Nat → Nat

/-- UNVERIFIED. The clocks from a fill's request to the landing of its reply at the core (R413), by the clock of the request and the line. -/
opaque freeFill : Nat → Nat → Nat

/-- Flits of the messages a collective sends to a rank, by the collective's number of the free values and the rank (R354): the manual gives the messages of a
collective no form. -/
opaque freeFlits : Nat → Nat → Nat

/-- The byte position and value that the syndrome of a line's codeword names where its cells hold errors in more than one byte, none where it names no
position (R415): the manual names no generator of the code. By the line and the errors, position and value of each. -/
opaque freeSyndrome : Nat → List (Nat × Byte) → Option (Nat × Byte)

/-- The modules of a link whose lanes cannot all be repaired at the end of a retrain (R446), by the clock and the link. -/
opaque freeModules : Nat → Nat → BitVec 8

/-- UNVERIFIED. The clocks for which the copy engine, the stream unit and the traversal unit of a core were busy for a team in an interval (R356),
by counter and team. -/
opaque freeBusy : Nat → Nat → Nat

/-- Cores of the module (R12). -/
def numCores : Nat := 768
/-- Lanes of a group (R22). -/
def numLanes : Nat := 32
/-- Lane registers per lane position of a quadrant (R23). -/
def quadRegs : Nat := 2048
/-- Bytes of one core's L1 and scratchpad (R95). -/
def arrayBytes : Nat := 393216
/-- Bytes of one core's operand buffer (R238). -/
def obBytes : Nat := 262144
/-- Bytes of backed memory in a die's window (R85). -/
def backedBytes : Nat := 47249948672
/-- What a byte of device, host or peer memory that nothing has written reads as. DESIGN CHOICE (notes/assumptions/2.md): the
manual gives no contents after power-on. -/
def blankByte : Byte := 0

/-- Whether an access sees a write of another path that nothing orders before it (06 R118), by use and the write's address. -/
opaque freePast : Nat → Nat → Bool

end Sys2Proof.Config
end

