-- ==== Sys2Proof/Syntax.lean ====
section
/-!
DEFINITION. The instructions of the Cyeth instruction set and the machine's own operations: one constructor for each row of
spec/opcode_table.json. A word's constructor carries the fields the table gives its encoding (07 R130, R140); `k` is the B
bit of R129. A constructor of the last part is a step the machine takes on its own (95): its arguments say where.
-/
namespace Sys2Proof

/-- One row of the table of operations and events. -/
inductive Instr where
  /-- R163. Adds two lane registers with wrap, signed or natural saturation, or carry-out to a predicate. -/
  | iadd (k : BitVec 1) (d : BitVec 6) (a : BitVec 6) (b : BitVec 6) (f : BitVec 4) (h : BitVec 2)
  /-- R163. Subtracts two lane registers with wrap, saturation or borrow-out to a predicate. -/
  | isub (k : BitVec 1) (d : BitVec 6) (a : BitVec 6) (b : BitVec 6) (f : BitVec 4) (h : BitVec 2)
  /-- R164. Multiplies two lane registers, giving the low, high or wide product. -/
  | imul (k : BitVec 1) (d : BitVec 6) (a : BitVec 6) (b : BitVec 6) (f : BitVec 4) (h : BitVec 2)
  /-- R165. Multiplies and adds three lane registers modulo 2^32. -/
  | imad (k : BitVec 1) (d : BitVec 6) (a : BitVec 6) (b : BitVec 6) (c : BitVec 6)
  /-- R166. Takes the signed or natural minimum or maximum of two lane registers. -/
  | imnmx (k : BitVec 1) (d : BitVec 6) (a : BitVec 6) (b : BitVec 6) (f : BitVec 4) (h : BitVec 2)
  /-- R166. Applies a bitwise logic operation to two lane registers. -/
  | logic (k : BitVec 1) (d : BitVec 6) (a : BitVec 6) (b : BitVec 6) (f : BitVec 4) (h : BitVec 2)
  /-- R167. Shifts, rotates or funnel-shifts a lane register by a register amount. -/
  | shift (k : BitVec 1) (d : BitVec 6) (a : BitVec 6) (b : BitVec 6) (f : BitVec 4) (h : BitVec 2)
  /-- R168. Extracts a natural or signed bit field. -/
  | bfe (k : BitVec 1) (d : BitVec 6) (a : BitVec 6) (b : BitVec 6) (f : BitVec 4) (h : BitVec 2)
  /-- R168. Inserts a bit field into a base value. -/
  | bfi (k : BitVec 1) (d : BitVec 6) (a : BitVec 6) (b : BitVec 6) (c : BitVec 6)
  /-- R168. Counts bits, leading or trailing zeros, reverses bits or finds the first set bit. -/
  | bitc (k : BitVec 1) (d : BitVec 6) (a : BitVec 6) (f : BitVec 4) (h : BitVec 2)
  /-- R169. Compares two lane registers and writes a predicate. -/
  | isetp (k : BitVec 1) (n : BitVec 3) (p : BitVec 3) (a : BitVec 6) (b : BitVec 6) (s : BitVec 1) (h : BitVec 2)
  /-- R163. Adds a sign-extended 12-bit immediate with wrap. -/
  | iaddi (k : BitVec 1) (d : BitVec 6) (a : BitVec 6) (i : BitVec 12)
  /-- R166. ANDs a lane register with a zero-extended immediate. -/
  | andi (k : BitVec 1) (d : BitVec 6) (a : BitVec 6) (i : BitVec 12)
  /-- R166. ORs a lane register with a zero-extended immediate. -/
  | ori (k : BitVec 1) (d : BitVec 6) (a : BitVec 6) (i : BitVec 12)
  /-- R166. XORs a lane register with a zero-extended immediate. -/
  | xori (k : BitVec 1) (d : BitVec 6) (a : BitVec 6) (i : BitVec 12)
  /-- R167. Shifts or rotates a lane register by an immediate amount. -/
  | shifti (k : BitVec 1) (d : BitVec 6) (a : BitVec 6) (f : BitVec 4) (n : BitVec 5)
  /-- R165. Computes a four-way i8 dot product accumulated into i32. -/
  | dp4 (k : BitVec 1) (d : BitVec 6) (a : BitVec 6) (b : BitVec 6) (c : BitVec 6)
  /-- R165. Adds the absolute difference of two naturals to a third. -/
  | sad (k : BitVec 1) (d : BitVec 6) (a : BitVec 6) (b : BitVec 6) (c : BitVec 6)
  /-- R163. Adds register pairs as 64-bit integers. -/
  | iadd64 (k : BitVec 1) (d : BitVec 6) (a : BitVec 6) (b : BitVec 6) (f : BitVec 4) (h : BitVec 2)
  /-- R170. Adds two floats in the selected type and rounding mode. -/
  | fadd (k : BitVec 1) (d : BitVec 6) (a : BitVec 6) (b : BitVec 6) (f : BitVec 4) (h : BitVec 2)
  /-- R170. Subtracts two floats in the selected type and rounding mode. -/
  | fsub (k : BitVec 1) (d : BitVec 6) (a : BitVec 6) (b : BitVec 6) (f : BitVec 4) (h : BitVec 2)
  /-- R170. Multiplies two floats in the selected type and rounding mode. -/
  | fmul (k : BitVec 1) (d : BitVec 6) (a : BitVec 6) (b : BitVec 6) (f : BitVec 4) (h : BitVec 2)
  /-- R170. Fused f32 multiply-add with one rounding. -/
  | ffma (k : BitVec 1) (d : BitVec 6) (a : BitVec 6) (b : BitVec 6) (c : BitVec 6)
  /-- R170. Fused packed f16 multiply-add. -/
  | hfma2 (k : BitVec 1) (d : BitVec 6) (a : BitVec 6) (b : BitVec 6) (c : BitVec 6)
  /-- R170. Fused f64 multiply-add on register pairs. -/
  | dfma (k : BitVec 1) (d : BitVec 6) (a : BitVec 6) (b : BitVec 6) (c : BitVec 6)
  /-- R170. Fused packed bf16 multiply-add. -/
  | bfma2 (k : BitVec 1) (d : BitVec 6) (a : BitVec 6) (b : BitVec 6) (c : BitVec 6)
  /-- R171. Takes the float minimum or maximum with NaN or number semantics. -/
  | fmnmx (k : BitVec 1) (d : BitVec 6) (a : BitVec 6) (b : BitVec 6) (f : BitVec 4) (h : BitVec 2)
  /-- R173. Compares two floats and writes a predicate. -/
  | fsetp (k : BitVec 1) (n : BitVec 3) (p : BitVec 3) (a : BitVec 6) (b : BitVec 6) (t : BitVec 2) (h : BitVec 2)
  /-- R174. Computes a correctly rounded f32 special function. -/
  | sfu (k : BitVec 1) (d : BitVec 6) (a : BitVec 6) (f : BitVec 4) (h : BitVec 2)
  /-- R175. Rounds a float to an integral value in the same format. -/
  | fround (k : BitVec 1) (d : BitVec 6) (a : BitVec 6) (f : BitVec 4) (h : BitVec 2)
  /-- R176. Converts a lane value between integer and float types. -/
  | cvt (k : BitVec 1) (d : BitVec 6) (a : BitVec 6) (s : BitVec 4) (r : BitVec 2) (t : BitVec 4) (h : BitVec 2)
  /-- R170. Computes a packed f16 dot product plus an f32 addend with one rounding. -/
  | fdot2 (k : BitVec 1) (d : BitVec 6) (a : BitVec 6) (b : BitVec 6) (c : BitVec 6)
  /-- R172. Clamps an f32 value between two bounds. -/
  | fclamp (k : BitVec 1) (d : BitVec 6) (a : BitVec 6) (b : BitVec 6) (c : BitVec 6)
  /-- R179. Moves a register, or converts between predicate and register. -/
  | mov (k : BitVec 1) (d : BitVec 6) (a : BitVec 6) (f : BitVec 4) (h : BitVec 2)
  /-- R179. Writes a sign-extended 18-bit immediate. -/
  | movi (k : BitVec 1) (d : BitVec 6) (i : BitVec 18)
  /-- R179. Writes an immediate into bits above 14 keeping the low 14 bits. -/
  | movhi (k : BitVec 1) (d : BitVec 6) (i : BitVec 18)
  /-- R179. Selects one of two registers by a predicate. -/
  | sel (k : BitVec 1) (d : BitVec 6) (a : BitVec 6) (b : BitVec 6) (p : BitVec 3)
  /-- R180. Takes a value from another lane chosen by pick, back, forward or swap. -/
  | xlane (k : BitVec 1) (d : BitVec 6) (a : BitVec 6) (b : BitVec 6) (f : BitVec 2) (h : BitVec 2)
  /-- R181. Computes any, all, ballot or uniformity of a predicate over the mask. -/
  | vote (k : BitVec 1) (d : BitVec 6) (p : BitVec 3) (f : BitVec 4) (h : BitVec 2)
  /-- R182. Reduces a register over the active lanes into a return-queue slot. -/
  | redux (k : BitVec 1) (a : BitVec 6) (f : BitVec 4) (h : BitVec 2)
  /-- R184. Takes the oldest forward-queue value into a lane register. -/
  | qpop (k : BitVec 1) (d : BitVec 6) (h : BitVec 2)
  /-- R183. Places the lowest active lane's value in a return-queue slot. -/
  | qpush (k : BitVec 1) (a : BitVec 6) (h : BitVec 2)
  /-- R185. Reads a lane register by an index register. -/
  | ldx (k : BitVec 1) (d : BitVec 6) (x : BitVec 2) (i : BitVec 8)
  /-- R185. Writes a lane register by an index register. -/
  | stx (k : BitVec 1) (d : BitVec 6) (x : BitVec 2) (i : BitVec 8)
  /-- R186. Writes an index register or one of its fields. -/
  | xset (k : BitVec 1) (x : BitVec 2) (a : BitVec 6) (f : BitVec 4) (h : BitVec 2)
  /-- R187. Reads a logical-name field or derived value. -/
  | rdid (k : BitVec 1) (d : BitVec 6) (f : BitVec 4) (h : BitVec 2)
  /-- R189. Loads 1 to 32 bytes per lane from memory. -/
  | ld (k : BitVec 1) (d : BitVec 6) (a : BitVec 6) (f : BitVec 4) (o : BitVec 8)
  /-- R190. Stores 1 to 32 bytes per lane to memory. -/
  | st (k : BitVec 1) (d : BitVec 6) (a : BitVec 6) (f : BitVec 4) (o : BitVec 8)
  /-- R191. Performs a 32-bit atomic read-modify-write returning the old value. -/
  | atom (k : BitVec 1) (d : BitVec 6) (a : BitVec 6) (b : BitVec 6) (f : BitVec 4) (h : BitVec 2)
  /-- R192. Compares and swaps a 32-bit memory word. -/
  | cas (k : BitVec 1) (d : BitVec 6) (a : BitVec 6) (b : BitVec 6) (c : BitVec 6)
  /-- R191. Performs a 32-bit atomic reduction discarding the old value. -/
  | red (k : BitVec 1) (a : BitVec 6) (b : BitVec 6) (f : BitVec 4) (h : BitVec 2)
  /-- R196. Loads from the own or a cluster member's scratchpad. -/
  | lds (k : BitVec 1) (d : BitVec 6) (a : BitVec 6) (f : BitVec 4) (o : BitVec 8)
  /-- R196. Stores to the own or a cluster member's scratchpad. -/
  | sts (k : BitVec 1) (d : BitVec 6) (a : BitVec 6) (f : BitVec 4) (o : BitVec 8)
  /-- R196. Performs a scratchpad atomic returning the old value. -/
  | atoms (k : BitVec 1) (d : BitVec 6) (a : BitVec 6) (b : BitVec 6) (f : BitVec 4) (h : BitVec 2)
  /-- R197. Prefetches a line into the L1 or L2 without faulting. -/
  | pref (k : BitVec 1) (a : BitVec 6) (f : BitVec 4) (o : BitVec 8)
  /-- R321. Loads a texel from the finest resident level and returns a status word. -/
  | ldlod (k : BitVec 1) (d : BitVec 6) (c : BitVec 6) (s : BitVec 6) (f : BitVec 4)
  /-- R322. Filters bilinearly within the finest resident level and returns a status word. -/
  | sample (k : BitVec 1) (d : BitVec 6) (c : BitVec 6) (s : BitVec 6) (f : BitVec 4)
  /-- R202. Splits the frontier entry by a predicate and enrols lanes in a rejoin register. -/
  | bdiv (k : BitVec 1) (p : BitVec 3) (j : BitVec 3) (q : BitVec 6) (o : BitVec 12)
  /-- R202. Parks enrolled lanes at a rejoin register until all have arrived. -/
  | join (k : BitVec 1) (j : BitVec 3)
  /-- R202. Removes lanes from a rejoin register's enrolled set. -/
  | strike (k : BitVec 1) (p : BitVec 3) (j : BitVec 3)
  /-- R203. Retires lanes and exits the group when none remain. -/
  | lexit (k : BitVec 1) (p : BitVec 3)
  /-- R203. Calls a lane subroutine, pushing a call frame on a rejoin register. -/
  | callr (k : BitVec 1) (p : BitVec 3) (j : BitVec 3) (q : BitVec 6) (o : BitVec 12)
  /-- R203. Returns lanes from a lane subroutine to their call frame. -/
  | lret (k : BitVec 1)
  /-- R207. Adds two uniform registers with wrap, saturation or carry to a condition. -/
  | sadd (k : BitVec 1) (d : BitVec 6) (a : BitVec 6) (b : BitVec 6) (f : BitVec 6)
  /-- R207. Subtracts two uniform registers. -/
  | ssub (k : BitVec 1) (d : BitVec 6) (a : BitVec 6) (b : BitVec 6) (f : BitVec 6)
  /-- R207. Multiplies two uniform registers. -/
  | smul (k : BitVec 1) (d : BitVec 6) (a : BitVec 6) (b : BitVec 6) (f : BitVec 6)
  /-- R207. Applies a bitwise operation to uniform registers. -/
  | slogic (k : BitVec 1) (d : BitVec 6) (a : BitVec 6) (b : BitVec 6) (f : BitVec 6)
  /-- R207. Shifts or rotates a uniform register. -/
  | sshift (k : BitVec 1) (d : BitVec 6) (a : BitVec 6) (b : BitVec 6) (f : BitVec 6)
  /-- R207. Takes a uniform minimum or maximum. -/
  | smnmx (k : BitVec 1) (d : BitVec 6) (a : BitVec 6) (b : BitVec 6) (f : BitVec 6)
  /-- R207. Counts or reverses bits of a uniform register. -/
  | sbitc (k : BitVec 1) (d : BitVec 6) (a : BitVec 6) (f : BitVec 6)
  /-- R207. Compares uniform registers and writes a condition register. -/
  | scmp (k : BitVec 1) (n : BitVec 3) (p : BitVec 3) (a : BitVec 6) (b : BitVec 6) (s : BitVec 1)
  /-- R207. Adds a signed immediate to a uniform register. -/
  | saddi (k : BitVec 1) (d : BitVec 6) (a : BitVec 6) (i : BitVec 12)
  /-- R207. ANDs a uniform register with an immediate. -/
  | sandi (k : BitVec 1) (d : BitVec 6) (a : BitVec 6) (i : BitVec 12)
  /-- R207. ORs a uniform register with an immediate. -/
  | sori (k : BitVec 1) (d : BitVec 6) (a : BitVec 6) (i : BitVec 12)
  /-- R207. XORs a uniform register with an immediate. -/
  | sxori (k : BitVec 1) (d : BitVec 6) (a : BitVec 6) (i : BitVec 12)
  /-- R207. Shifts a uniform register by an immediate. -/
  | sshifti (k : BitVec 1) (d : BitVec 6) (a : BitVec 6) (f : BitVec 4) (n : BitVec 5)
  /-- R207. Writes a sign-extended immediate to a uniform register. -/
  | smovi (k : BitVec 1) (d : BitVec 6) (i : BitVec 18)
  /-- R207. Writes the high part of a uniform register by immediate. -/
  | smovhi (k : BitVec 1) (d : BitVec 6) (i : BitVec 18)
  /-- R209. Loads a uniform register from memory. -/
  | sld (k : BitVec 1) (d : BitVec 6) (a : BitVec 6) (z : BitVec 2) (o : BitVec 10)
  /-- R210. Stores a uniform register at commit retirement. -/
  | sst (k : BitVec 1) (d : BitVec 6) (a : BitVec 6) (z : BitVec 2) (o : BitVec 10)
  /-- R211. Performs a uniform atomic at commit retirement. -/
  | satom (k : BitVec 1) (d : BitVec 6) (a : BitVec 6) (b : BitVec 6) (f : BitVec 6)
  /-- R207. Selects a uniform register by a condition. -/
  | ssel (k : BitVec 1) (d : BitVec 6) (a : BitVec 6) (b : BitVec 6) (c : BitVec 3)
  /-- R207. Extracts a uniform bit field. -/
  | sbfe (k : BitVec 1) (d : BitVec 6) (a : BitVec 6) (b : BitVec 6) (f : BitVec 6)
  /-- R212. Appends a uniform value to the forward queue. -/
  | spush (k : BitVec 1) (a : BitVec 6)
  /-- R212. Takes the oldest return-queue value into a uniform register. -/
  | spop (k : BitVec 1) (d : BitVec 6)
  /-- R229. Reads a system register into a uniform register. -/
  | rdsys (k : BitVec 1) (d : BitVec 6) (n : BitVec 18)
  /-- R229. Writes a system register at commit retirement. -/
  | wrsys (k : BitVec 1) (d : BitVec 6) (n : BitVec 18)
  /-- R231. Reads a cycle, tempo or energy counter into a uniform pair. -/
  | rdcnt (k : BitVec 1) (d : BitVec 6) (n : BitVec 18)
  /-- R213. Branches by a fixed offset when a condition holds. -/
  | bra (k : BitVec 1) (c : BitVec 3) (o : BitVec 20)
  /-- R213. Branches and writes the return address to s62:s63. -/
  | call (k : BitVec 1) (c : BitVec 3) (o : BitVec 20)
  /-- R213. Jumps to a register-held target when a condition holds. -/
  | jmpr (k : BitVec 1) (a : BitVec 6) (c : BitVec 3)
  /-- R213. Jumps to a register-held target and writes the link. -/
  | jmprL (k : BitVec 1) (a : BitVec 6) (c : BitVec 3)
  /-- R213. Returns to a register-held address. -/
  | ret (k : BitVec 1) (a : BitVec 6) (c : BitVec 3)
  /-- R214. Decrements a counter and branches while it is nonzero. -/
  | loop (k : BitVec 1) (d : BitVec 6) (i : BitVec 12)
  /-- R215. Retires every live lane of the group once older work has settled. -/
  | exit (k : BitVec 1) (c : BitVec 3)
  /-- R218. Creates a general child group in the team. -/
  | spawn (k : BitVec 1) (d : BitVec 6) (a : BitVec 6) (b : BitVec 6)
  /-- R216. Ends the run and defers the group's next run. -/
  | yield (k : BitVec 1)
  /-- R216. Does nothing. -/
  | nop (k : BitVec 1)
  /-- R217. Raises a software trap with an 18-bit code. -/
  | trap (k : BitVec 1) (i : BitVec 18)
  /-- R217. Stops the group when breakpoint words are enabled. -/
  | brk (k : BitVec 1) (i : BitVec 18)
  /-- R219. Records the group's arrival at a team barrier. -/
  | tbarMark (k : BitVec 1) (n : BitVec 4)
  /-- R219. Waits for release of the group's last marked team-barrier phase. -/
  | tbarHold (k : BitVec 1) (n : BitVec 4)
  /-- R219. Marks arrival at a team barrier and waits for release. -/
  | tbarMeet (k : BitVec 1) (n : BitVec 4)
  /-- R219. Adds the group to a team barrier's expected set. -/
  | tbarEnrol (k : BitVec 1) (n : BitVec 4)
  /-- R222. Records the team's arrival at a cluster barrier. -/
  | cbarMark (k : BitVec 1) (n : BitVec 2)
  /-- R222. Waits for a cluster barrier's release. -/
  | cbarHold (k : BitVec 1) (n : BitVec 2)
  /-- R222. Marks arrival at a cluster barrier and waits for release. -/
  | cbarMeet (k : BitVec 1) (n : BitVec 2)
  /-- R122. Holds younger words until older lane stores are performed at the scope. -/
  | fence (k : BitVec 1) (s : BitVec 3)
  /-- R119. Orders accesses of before-mask paths before after-mask paths at a scope. -/
  | xfence (k : BitVec 1) (b : BitVec 9) (m : BitVec 9) (s : BitVec 3)
  /-- R224. Makes covered host writes visible, then raises the publication counter. -/
  | publish (k : BitVec 1) (a : BitVec 6)
  /-- R225. Removes the oldest completion record from the team's event queue. -/
  | evpop (k : BitVec 1) (d : BitVec 6) (c : BitVec 3)
  /-- R226. Stops the helm until the event queue holds a record. -/
  | evwait (k : BitVec 1)
  /-- R227. Waits until a ring slot is full or empty in the item's lap phase. -/
  | ringwait (k : BitVec 1) (a : BitVec 6) (e : BitVec 1) (r : BitVec 4)
  /-- R227. Marks a ring slot full or empty. -/
  | ringpost (k : BitVec 1) (a : BitVec 6) (e : BitVec 1) (r : BitVec 4)
  /-- R234. Sets the group's gang register at retirement. -/
  | gang (k : BitVec 1) (a : BitVec 6)
  /-- R239. Makes an operand-buffer reservation at retirement. -/
  | obres (k : BitVec 1) (o : BitVec 4) (a : BitVec 6) (b : BitVec 6)
  /-- R239. Releases an operand-buffer reservation. -/
  | obrel (k : BitVec 1) (o : BitVec 4)
  /-- R247. Joint word adding an A times B product into a tile. -/
  | mma (k : BitVec 1) (t : BitVec 3) (r : BitVec 4) (v : BitVec 6) (w : BitVec 8) (s : BitVec 3)
  /-- R247. Joint word opening a checkpointed chain and adding a product into a tile. -/
  | mchain (k : BitVec 1) (t : BitVec 3) (r : BitVec 4) (v : BitVec 6) (w : BitVec 8) (s : BitVec 3)
  /-- R248. Joint word clearing a tile and its bounds. -/
  | mclr (k : BitVec 1) (t : BitVec 3) (w : BitVec 8) (s : BitVec 3)
  /-- R250. Joint word loading a bounded tile record. -/
  | mld (k : BitVec 1) (t : BitVec 3) (p : BitVec 1) (y : BitVec 3) (v : BitVec 6) (w : BitVec 8) (s : BitVec 3)
  /-- R250. Joint word storing a tile with optional bound plane. -/
  | mst (k : BitVec 1) (t : BitVec 3) (p : BitVec 1) (y : BitVec 3) (v : BitVec 6) (w : BitVec 8) (s : BitVec 3)
  /-- R253. Joint word converting tile rows into vector receivers' registers. -/
  | mdrain (k : BitVec 1) (t : BitVec 3) (y : BitVec 2) (v : BitVec 6) (w : BitVec 8) (s : BitVec 3)
  /-- R249. Joint word setting a tile's promotion threshold. -/
  | mbound (k : BitVec 1) (t : BitVec 3) (v : BitVec 6) (w : BitVec 8) (s : BitVec 3)
  /-- R244. Stops the helm until masked older joint words have completed. -/
  | mwait (k : BitVec 1) (w : BitVec 8)
  /-- R270. Copies memory to scratchpad, linear. -/
  | copyG2s (k : BitVec 1) (d : BitVec 6) (a : BitVec 5) (b : BitVec 5) (r : BitVec 1)
  /-- R270. Copies scratchpad to memory, linear. -/
  | copyS2g (k : BitVec 1) (d : BitVec 6) (a : BitVec 5) (b : BitVec 5) (r : BitVec 1)
  /-- R270. Copies memory to the operand buffer, linear. -/
  | copyG2ob (k : BitVec 1) (d : BitVec 6) (a : BitVec 5) (b : BitVec 5) (r : BitVec 1)
  /-- R270. Copies scratchpad to the operand buffer. -/
  | copyS2ob (k : BitVec 1) (d : BitVec 6) (a : BitVec 5) (b : BitVec 5) (r : BitVec 1)
  /-- R270. Copies a 2-D tile from memory to scratchpad. -/
  | copyG2st (k : BitVec 1) (d : BitVec 6) (a : BitVec 5) (b : BitVec 5) (r : BitVec 1)
  /-- R270. Copies a 2-D tile from scratchpad to memory. -/
  | copyS2gt (k : BitVec 1) (d : BitVec 6) (a : BitVec 5) (b : BitVec 5) (r : BitVec 1)
  /-- R270. Copies a 2-D tile from memory to the operand buffer. -/
  | copyG2obt (k : BitVec 1) (d : BitVec 6) (a : BitVec 5) (b : BitVec 5) (r : BitVec 1)
  /-- R270. Copies whole K16 records from memory to the operand buffer. -/
  | copyK16 (k : BitVec 1) (d : BitVec 6) (a : BitVec 5) (b : BitVec 5) (r : BitVec 1)
  /-- R270. Copies memory to memory, including to peer pages. -/
  | copyG2g (k : BitVec 1) (d : BitVec 6) (a : BitVec 5) (b : BitVec 5) (r : BitVec 1)
  /-- R271. Gathers 4-byte elements by index into scratchpad. -/
  | gathB32 (k : BitVec 1) (d : BitVec 6) (a : BitVec 5) (b : BitVec 5) (r : BitVec 1)
  /-- R271. Gathers 8-byte elements by index into scratchpad. -/
  | gathB64 (k : BitVec 1) (d : BitVec 6) (a : BitVec 5) (b : BitVec 5) (r : BitVec 1)
  /-- R271. Gathers 16-byte elements by index into scratchpad. -/
  | gathB128 (k : BitVec 1) (d : BitVec 6) (a : BitVec 5) (b : BitVec 5) (r : BitVec 1)
  /-- R306. Casts a batch of rays for closest hits. -/
  | travCast (k : BitVec 1) (d : BitVec 6) (a : BitVec 5) (b : BitVec 5) (r : BitVec 1)
  /-- R306. Casts a batch of occlusion rays. -/
  | travOccl (k : BitVec 1) (d : BitVec 6) (a : BitVec 5) (b : BitVec 5) (r : BitVec 1)
  /-- R309. Casts shadow rays that add their contribution when unoccluded. -/
  | travShadow (k : BitVec 1) (d : BitVec 6) (a : BitVec 5) (b : BitVec 5) (r : BitVec 1)
  /-- R308. Decides a ray's outstanding call-out candidate. -/
  | travResume (k : BitVec 1) (d : BitVec 6) (a : BitVec 5) (b : BitVec 5) (r : BitVec 1)
  /-- R311. Samples the package-wide ray count of a generation tag. -/
  | travQuery (k : BitVec 1) (d : BitVec 6) (a : BitVec 5) (b : BitVec 5) (r : BitVec 1)
  /-- R297. Computes Morton codes of clusters' centroids. -/
  | buildMorton (k : BitVec 1) (d : BitVec 6) (a : BitVec 5) (b : BitVec 5) (r : BitVec 1)
  /-- R297. Stably sorts code and index pairs. -/
  | buildSort (k : BitVec 1) (d : BitVec 6) (a : BitVec 5) (b : BitVec 5) (r : BitVec 1)
  /-- R298. Emits root copies or one octant's subtree of a generation. -/
  | buildEmit (k : BitVec 1) (d : BitVec 6) (a : BitVec 5) (b : BitVec 5) (r : BitVec 1)
  /-- R299. Refits listed subtrees into a new generation. -/
  | buildRefit (k : BitVec 1) (d : BitVec 6) (a : BitVec 5) (b : BitVec 5) (r : BitVec 1)
  /-- R299. Refits listed subtrees and rebuilds those that degrade. -/
  | buildUpdate (k : BitVec 1) (d : BitVec 6) (a : BitVec 5) (b : BitVec 5) (r : BitVec 1)
  /-- R300. Makes the building generation current. -/
  | buildGenpub (k : BitVec 1) (d : BitVec 6) (a : BitVec 5) (b : BitVec 5) (r : BitVec 1)
  /-- R300. Retires the live generation. -/
  | buildGenret (k : BitVec 1) (d : BitVec 6) (a : BitVec 5) (b : BitVec 5) (r : BitVec 1)
  /-- R300. Frees a retired generation's nodes once no ray holds it. -/
  | buildCompact (k : BitVec 1) (d : BitVec 6) (a : BitVec 5) (b : BitVec 5) (r : BitVec 1)
  /-- R273. Writes the multiset intersection of two sorted streams. -/
  | strmIsect (k : BitVec 1) (d : BitVec 6) (a : BitVec 5) (b : BitVec 5) (r : BitVec 1)
  /-- R273. Counts the intersection of two sorted streams. -/
  | strmCisect (k : BitVec 1) (d : BitVec 6) (a : BitVec 5) (b : BitVec 5) (r : BitVec 1)
  /-- R273. Merges two sorted streams. -/
  | strmMerge (k : BitVec 1) (d : BitVec 6) (a : BitVec 5) (b : BitVec 5) (r : BitVec 1)
  /-- R273. Writes the multiset difference of two sorted streams. -/
  | strmDiff (k : BitVec 1) (d : BitVec 6) (a : BitVec 5) (b : BitVec 5) (r : BitVec 1)
  /-- R277. All-reduces elements across ranks in rank order. -/
  | collAllred (k : BitVec 1) (d : BitVec 6) (a : BitVec 5) (b : BitVec 5) (r : BitVec 1)
  /-- R277. Reduces and scatters elements across ranks. -/
  | collRedscat (k : BitVec 1) (d : BitVec 6) (a : BitVec 5) (b : BitVec 5) (r : BitVec 1)
  /-- R276. Gathers every rank's elements to every rank. -/
  | collAllgath (k : BitVec 1) (d : BitVec 6) (a : BitVec 5) (b : BitVec 5) (r : BitVec 1)
  /-- R276. Broadcasts the root rank's elements. -/
  | collBcast (k : BitVec 1) (d : BitVec 6) (a : BitVec 5) (b : BitVec 5) (r : BitVec 1)
  /-- R327. Binds or empties a resource slot and drops its cached entries. -/
  | lodBind (k : BitVec 1) (d : BitVec 6) (a : BitVec 5) (b : BitVec 5) (r : BitVec 1)
  /-- R327. Writes a value into a rectangle of the MRL map. -/
  | lodMrlset (k : BitVec 1) (d : BitVec 6) (a : BitVec 5) (b : BitVec 5) (r : BitVec 1)
  /-- R327. Reads the least and greatest MRL byte of a rectangle. -/
  | lodMrlrd (k : BitVec 1) (d : BitVec 6) (a : BitVec 5) (b : BitVec 5) (r : BitVec 1)
  /-- R327. Moves the oldest feedback entries to memory and frees them. -/
  | lodFbpop (k : BitVec 1) (d : BitVec 6) (a : BitVec 5) (b : BitVec 5) (r : BitVec 1)
  /-- R327. Reads feedback occupancy or overflow count, optionally clearing it. -/
  | lodFbstat (k : BitVec 1) (d : BitVec 6) (a : BitVec 5) (b : BitVec 5) (r : BitVec 1)
  /-- R279. Removes matching TLB entries on every die and flushes their pending bits. -/
  | tlbinv (k : BitVec 1) (d : BitVec 6) (a : BitVec 5) (b : BitVec 5) (r : BitVec 1)
  /-- R279. Flushes pending accessed and dirty bits of matching TLB entries. -/
  | harvest (k : BitVec 1) (d : BitVec 6) (a : BitVec 5) (b : BitVec 5) (r : BitVec 1)
  /-- R280. Removes matching residency-cache entries on every core. -/
  | rmapinv (k : BitVec 1) (d : BitVec 6) (a : BitVec 5) (b : BitVec 5) (r : BitVec 1)
  /-- R281. Loads a traversal, builder or sampler profile for an ASID. -/
  | profload (k : BitVec 1) (d : BitVec 6) (a : BitVec 5) (b : BitVec 5) (r : BitVec 1)
  /-- R282. Saves a named team of a core into its save area. -/
  | ctxsave (k : BitVec 1) (d : BitVec 6) (a : BitVec 5) (b : BitVec 5) (r : BitVec 1)
  /-- R282. Restores a saved team onto a target or any core. -/
  | ctxrestore (k : BitVec 1) (d : BitVec 6) (a : BitVec 5) (b : BitVec 5) (r : BitVec 1)
  /-- R283. Sets the module energy allowance from the next window. -/
  | ensetAllowance (k : BitVec 1) (d : BitVec 6) (a : BitVec 5) (b : BitVec 5) (r : BitVec 1)
  /-- R283. Clears a context's energy count at the next boundary. -/
  | ensetClearContext (k : BitVec 1) (d : BitVec 6) (a : BitVec 5) (b : BitVec 5) (r : BitVec 1)
  /-- R358. Sets the tempo period, the trace ring and sampling enables. -/
  | trcctl (k : BitVec 1) (d : BitVec 6) (a : BitVec 5) (b : BitVec 5) (r : BitVec 1)
  /-- R416. Stops a team, performs older stores and writes its core dump. -/
  | dump (k : BitVec 1) (d : BitVec 6) (a : BitVec 5) (b : BitVec 5) (r : BitVec 1)
  /-- R352. Parks wavelength groups of an optical port. -/
  | linkctlPark (k : BitVec 1) (d : BitVec 6) (a : BitVec 5) (b : BitVec 5) (r : BitVec 1)
  /-- R352. Starts waking wavelength groups of an optical port. -/
  | linkctlWake (k : BitVec 1) (d : BitVec 6) (a : BitVec 5) (b : BitVec 5) (r : BitVec 1)
  /-- R352. Sets a port's self-wake transmit-queue depth. -/
  | linkctlSetWakeDepth (k : BitVec 1) (d : BitVec 6) (a : BitVec 5) (b : BitVec 5) (r : BitVec 1)
  /-- R353. Returns a port's or Slalia's status word in COUNT. -/
  | linkctlReadStatus (k : BitVec 1) (d : BitVec 6) (a : BitVec 5) (b : BitVec 5) (r : BitVec 1)
  /-- R283. Hands a launch record to the launch unit on a named queue. -/
  | launch (k : BitVec 1) (d : BitVec 6) (a : BitVec 5) (b : BitVec 5) (r : BitVec 1)
  /-- R391. Handler return: resumes or retires the handler lanes and clears the fault record. -/
  | fresumeWrite (v : Word)
  /-- R7. Write of a register or field that has no behaviour of its own. -/
  | registerWrite (pa : Nat) (n : Nat) (v : DWord) (byHost : Bool)
  /-- R331. A producer publishes launch records on a queue. -/
  | lqheadWrite (queue : BitVec 8) (v : Word)
  /-- R365. Writing a NAME to RESUME resumes a stopped group, or steps it. -/
  | debugResume (asid : BitVec 12) (name : DWord)
  /-- R419. Setting or clearing DRAIN starts or ends draining of a context. -/
  | pctlDrainWrite (asid : BitVec 12) (on : Bool)
  /-- R421. Writing RESET starts a forced reset of the context. -/
  | pctlReset (asid : BitVec 12)
  /-- R348. A host read through the device-memory aperture. -/
  | hostBar2Read (off : Nat) (n : Nat)
  /-- R348. A host write through the device-memory aperture. -/
  | hostBar2Write (off : Nat) (n : Nat) (v : DWord)
  /-- R19. Power-on or module reset runs bring-up to Ready; `training` is the step that fails, 0 for none, and the parts that do not train. -/
  | moduleReset (training : Nat × List (Nat × Nat)) (fwver : Half)
  /-- R43. The helm fetches a lane word and appends it to the forward queue. -/
  | helmLaneFetch
  /-- R364. A fetched word matching an enabled breakpoint stops the group. -/
  | breakpointStop (entry : BitVec 3)
  /-- R343. The wide pipe picks the eligible group whose run issues next. -/
  | runArbitration (core : Nat) (quad : Nat)
  /-- R343. A group's AGE reaching 256 sets URGENT. -/
  | ageUrgent (core : Nat) (quad : Nat)
  /-- R53. A fixed-latency lane word writes its destination at w + L. -/
  | resultWriteback
  /-- R59. A memory return takes a free write slot and writes its register. -/
  | loadReturn
  /-- R52. A run's park ends once all its words have written and passed fault points. -/
  | runParkEnd
  /-- R216. A yielded group becomes eligible after others issue or 64 clocks. -/
  | yieldExpiry
  /-- R48. The oldest commit-buffer entry retires and its effect becomes architectural. -/
  | commitRetire
  /-- R243. An accepted matrix word starts on its path once predecessors and waits complete. -/
  | matrixWordStart (tile : BitVec 3)
  /-- R245. A matrix word completes, writing tile, bounds, memory or receivers. -/
  | matrixWordComplete (tile : BitVec 3)
  /-- R259. A promotion replay in wide mode ends and the triggering word completes. -/
  | promotionReplayEnd (tile : BitVec 3)
  /-- R262. A delivered command enters its engine's queue and reads its descriptor. -/
  | commandAccept
  /-- R265. An engine instance takes a queued command into progress. -/
  | commandStart (cmd : Nat)
  /-- R266. A finished command's completion record enters the team's event queue. -/
  | recordPlace (cmd : Nat)
  /-- R404. A waiting engine access walks again after a covering tlbinv record. -/
  | enginePageRetry (cmd : Nat)
  /-- R386. The oldest pending fault rolls back younger work and enters the handler or retires lanes. -/
  | faultTake
  /-- R402. A walk ending at a PEND entry splits the lanes and saves or parks the team. -/
  | pageRequest
  /-- R423. A team is settled, quiesced and written to its save slots. -/
  | teamSave (core : Nat) (slot : Nat)
  /-- R403. After a covering tlbinv the launch unit walks a waiting team's VA and resumes or restores it. -/
  | pageRestoreWalk (team : Nat)
  /-- R433. A saved team's image is checked and placed on a core. -/
  | teamRestore (team : Nat) (target : Nat)
  /-- R345. A released waiter becomes ready at its spread offset. -/
  | barrierReleaseReady
  /-- R122. A fence completes once older stores are performed. -/
  | fenceComplete
  /-- R119. An xfence completes once its before-set is performed. -/
  | xfenceComplete
  /-- R224. The publication counter write becomes visible to the host. -/
  | publishComplete
  /-- R332. The launch unit reads a queued launch record and assigns its id. -/
  | launchAccept (queue : BitVec 8)
  /-- R333. The launch unit rereads WAITVA for a waiting launch. -/
  | launchWaitPoll (launch : Nat)
  /-- R339. The launch unit places the next team or cluster of a launch. -/
  | teamPlace (launch : Nat)
  /-- R333. A launch finishes and makes its done write. -/
  | launchFinish (launch : Nat)
  /-- R342. A new 1 ms energy-admission window starts with its budget. -/
  | admissionWindow
  /-- R337. The launch unit reads a coalescing node's TAIL. -/
  | nodeTailPoll (launch : Nat)
  /-- R337. A coalescing-node batch fires, voiding unclaimed slots. -/
  | batchFire (launch : Nat)
  /-- R440. A batch's wait on one tag reaches 2^24 clocks and is logged. -/
  | tagWaitTimeout (launch : Nat)
  /-- R94. A TLB entry's pending A and D bits flush after 2^22 clocks. -/
  | pendingBitFlush (core : Nat) (index : Nat)
  /-- R109. A core's CTIME rises at the end of a 16-clock window with loads. -/
  | ctimeAdvance (core : Nat)
  /-- R317. A residency-cache entry is dropped 2^RLIFE clocks after fill. -/
  | residencyEntryExpire (core : Nat) (index : Nat)
  /-- R358. Every island latches and clears its busy and stall counts. -/
  | tempoTick
  /-- R325. The recent-miss filter is cleared every 2^16 clocks while tempo is off. -/
  | feedbackFilterClear
  /-- R355. Every energy counter updates at the 1 µs boundary. -/
  | energyBoundary (readings : List (Nat × Nat))
  /-- R366. A held request enters a slice queue when an entry frees. -/
  | sliceRequestEnter (die : Nat) (slice : Nat)
  /-- R101. An RDC partition's read request is resolved at the home slice. -/
  | dirRead (line : Nat) (die : Nat)
  /-- R101. An RDC ownership request invalidates other copies and grants M. -/
  | dirOwnership (line : Nat) (die : Nat)
  /-- R101. A home-die store invalidates remote copies before it is performed. -/
  | dirHomeWrite (line : Nat)
  /-- R101. A home-die read recalls a remote owner's line if needed. -/
  | dirHomeRead (line : Nat)
  /-- R101. An RDC partition evicts a line, writing back dirty data. -/
  | rdcEvict (die : Nat) (line : Nat)
  /-- R369. A full filter set back-invalidates its victim's copies. -/
  | filterVictim (line : Nat)
  /-- R413. A home slice's recall makes a core drop a recently filled line. -/
  | leaseRecall (core : Nat) (line : Nat)
  /-- R409. An inbound peer access is checked and performed or NACKed. -/
  | peerInboundAccess (source : BitVec 8) (pa : Nat) (n : Nat) (kind : Nat) (v : Nat)
  /-- R407. A peer reply lets the access pass its fault point. -/
  | peerReply (nack : BitVec 8)
  /-- R408. A peer access without a reply in 2^PEERTO clocks raises REMOTE. -/
  | peerTimeout (performed : Bool)
  /-- R306. A ray reads a node line and tests its children. -/
  | rayNodeRead (ray : Nat)
  /-- R306. A ray's result write or shadow add is performed and its count falls. -/
  | rayEnd (ray : Nat)
  /-- R298. A finished subtree's pending child is made final in every root copy. -/
  | rootRewrite (cmd : Nat) (entry : Nat)
  /-- R300. With the retired tag's ray count zero, the compactor frees its nodes. -/
  | compactReclaim (cmd : Nat)
  /-- R420. An expired drain deadline starts a forced reset. -/
  | drainDeadline (asid : BitVec 12)
  /-- R352. A port compares its queue depth with WAKEDEPTH and wakes parked groups. -/
  | selfWakeCompare (port : Nat)
  /-- R352. A waking wavelength group joins the striping after 1.2 µs. -/
  | wakeComplete (port : Nat)
  /-- R450. A failing wavelength's group is retired. -/
  | wavelengthFail (port : Nat) (lambda : Nat)
  /-- R444. A receiver finding a CRC error requests replay. -/
  | flitCrcError (link : Nat)
  /-- R445. A pontoon link retrains after repeated replays or lane loss. -/
  | linkRetrain (link : Nat)
  /-- R446. A retrain ends, applying lane repair or a new route. -/
  | retrainComplete (link : Nat) (failed : BitVec 8)
  /-- R447. The harbourmaster puts a compute die in reset. -/
  | dieReset (die : Nat)
  /-- R448. A die leaves reset after its bring-up steps pass. -/
  | dieReturn (die : Nat) (passed : Bool)
  /-- R447. An access waiting on a die in reset fails after 2^24 clocks. -/
  | homeDieWaitExpire
  /-- R449. A failing element is replaced by a spare or taken out of service. -/
  | spareApply (kind : BitVec 8) (ident : Half) (left : Word) (action : BitVec 8)
  /-- R452. Slalia retrains, possibly at reduced width. -/
  | slaliaRetrain (lanes : Nat)
  /-- R452. Slalia failing to train within 2^28 clocks is lost. -/
  | slaliaLost
  /-- R454. Island temperatures and coolant are read and levels changed. -/
  | thermalSample (island : Nat) (celsius : Nat) (coolantBad : Bool)
  /-- R454. An island returns one level after 2^20 cool clocks. -/
  | thermalLevelReturn (island : Nat)
  /-- R414. A storage error is corrected, recovered or contained. -/
  | softError (code : Nat) (addr : Nat) (uncorrectable : Bool)
  /-- R415. A controller scrubs its channel's lines. -/
  | patrolScrub (die : Nat) (channel : Nat)
  /-- R110. A lane or uniform store or atomic is performed at its point of performance and its store-done reply raises the core's CTIME. -/
  | storePerformed
  /-- R205. The result of an sld or satom returns and is written to its s register, clearing the helm stop on its reader. -/
  | sldResultReturn
  deriving DecidableEq, Repr

end Sys2Proof
end

