-- ==== Sys2Proof/Machine/State.lean ====
section
/-!
DEFINITION. The state of the module, as plain data. A sparse map lists its entries in strictly rising keys and lists no entry that
equals what an unlisted key reads as; the value of an unlisted key is named where the map is read (Machine/Ops.lean).
The group and the team that execute stand in `State.grp` and `State.team`; the others stand in lists.
-/
namespace Sys2Proof.Machine

/-- A map by key: strictly rising keys, no entry equal to the value of an unlisted key. -/
abbrev Sparse (β : Type) := List (Nat × β)

/-- Bytes by address (R84); the canonical form is `Memory.wf` of Machine/Ops.lean. -/
abbrev Memory := List Host.Cell

/-- Operating points of an island (R16). -/
inductive OpPoint where
  | gated | reduced | nominal
  deriving DecidableEq, Repr

/-- Why the machine stops. -/
inductive Fault where
  /-- Raised by no step: the manual names no event at which the module stops. Safe. -/
  | noSuchPart
  deriving DecidableEq, Repr

/-- Why an instruction has no meaning. -/
inductive Refusal where
  /-- Raised by an arm of `exec` whose instruction is not modelled. Safe. -/
  | notModelled (mnemonic : String)
  deriving DecidableEq, Repr

/-- Roles of groups (R27), in the order of R25. -/
inductive Role where
  | matrix | copy | vector | general
  deriving DecidableEq, Repr

/-- A word being executed: its address, the mask, priority and kind of the frontier entry it was fetched for (R60), its bits and its
place in the group's program order. -/
structure Cur where
  pc : DWord := 0
  mask : Word := 0
  prio : BitVec 6 := 0
  handler : Bool := false
  word : Word := 0
  seq : Nat := 0
  /-- the clock in which the helm queued it -/
  clk : Nat := 0
  deriving DecidableEq, Repr

/-- A frontier entry (R60); `handler` marks the reserved ninth slot (R386). -/
structure FEntry where
  pc : DWord
  prio : BitVec 6
  mask : Word
  handler : Bool := false
  deriving DecidableEq, Repr

/-- KIND of a park record (R200). -/
inductive ParkKind where
  | join | call
  deriving DecidableEq, Repr

/-- A rejoin register with its park record (Table 3.7, R200). -/
structure Rejoin where
  enrolled : Word := 0
  arrived : Word := 0
  rpc : DWord := 0
  rprio : BitVec 6 := 0
  kind : ParkKind := .join
  deriving DecidableEq, Repr

/-- A slot of the forward queue (R44): a lane word with the mask it was fetched for and the run it belongs to, or a value. -/
inductive FwdEntry where
  | lane (cur : Cur) (run : Nat)
  | value (seq : Nat) (v : Word)
  deriving DecidableEq, Repr

/-- A slot of the return queue (R44): the value and the clock from which `spop` may take it (R182, R183). -/
structure RetEntry where
  seq : Nat
  value : Word
  ready : Nat
  deriving DecidableEq, Repr

/-- What a commit-buffer entry does when it retires (R48). -/
inductive CommitEffect where
  /-- Writes of s and c registers, already visible to the helm. -/
  | regs (sw : List (Nat × Word)) (cw : List (Nat × Bool))
  /-- `call`, a taken `jmpr.l` or `ret`: the entry PC of the stall frame pushed, none for a pop, and the link (R213, R361). -/
  | frame (push : Option DWord) (sw : List (Nat × Word))
  /-- A uniform store: address, bytes, data (R210). -/
  | store (addr : DWord) (size : Nat) (data : DWord)
  /-- A uniform load whose result has not returned: address, bytes, destination (R49, R205). -/
  | load (addr : DWord) (size : Nat) (sd : Nat)
  /-- A uniform atomic (R211). -/
  | atom (op : Nat) (addr : DWord) (data : Word) (sd : Nat)
  /-- `gang` (R234). -/
  | gang (v : Word)
  /-- `obres` (R239). -/
  | obres (n : Nat) (w0 w1 : DWord)
  /-- `obrel` (R239). -/
  | obrel (n : Nat)
  /-- A joint word with the value of the s registers it names (R235, R236). -/
  | joint (word : Word) (val : DWord)
  /-- A coprocessor command: operands, destination of the tag, R (R262). -/
  | command (major fn : Nat) (opa opb : DWord) (sd : Nat) (r : Bool)
  /-- `wrsys` (R229). -/
  | wrsys (reg : Nat) (v : Word)
  /-- An arrive at a team barrier, a cluster barrier, or a ring post that waits for its conditions (R220, R228). -/
  | arrive (b : Nat)
  /-- `tbar.enrol` (R219) -/
  | enrol (b : Nat)
  | clusterArrive (k : Nat)
  | ringPost (r : Nat) (empty : Bool) (n : Word)
  deriving DecidableEq, Repr

/-- A commit-buffer entry with the word that made it. -/
structure CommitEntry where
  cur : Cur
  effect : CommitEffect
  deriving DecidableEq, Repr

/-- Which registers a pending write goes to: v at 32n + lane, p at 32n + lane (bit 0), a field of x at 32k + lane (R186: 0 whole, 1
INDEX, 2 BASE, 3 LIMIT). -/
inductive RegSpace where
  | v | p | x (fld : Nat)
  deriving DecidableEq, Repr

/-- A register write that has not landed (R53): the clock it lands in, or none for a return from memory without a write slot; the word's place
in program order. -/
structure PendWrite where
  seq : Nat
  due : Option Nat
  space : RegSpace
  cells : List (Nat × Word)
  /-- a return from memory, and the clock in which memory returned it (R59) -/
  long : Bool := false
  born : Nat := 0
  deriving DecidableEq, Repr

/-- An entry of the undo log (R384): what a register held before a speculative word wrote it. -/
structure UndoEntry where
  seq : Nat
  space : RegSpace
  cells : List (Nat × Word)
  deriving DecidableEq, Repr

/-- A completion or call-out record of 16 bytes (Table 13.3) in the event queue, with the paths its command's accesses used (R120). -/
structure Record where
  tag : Word
  status : Half := 0
  flags : Byte := 0
  unit : Byte := 0
  cookie : Word := 0
  count : Word := 0
  paths : BitVec 9 := 0
  /-- the command, and the largest WTS of its writes (R119) -/
  cmd : Nat := 0
  wts : Nat := 0
  /-- the largest WTS of those of its writes that stand in G before the `evpop` that removes the record (R278, R296, R326) -/
  order : Nat := 0
  deriving DecidableEq, Repr

/-- What a younger `spop`, `evpop` or `qpop` took and a rollback gives back (R385, Table 23.2): the word that took it, and the entry; for a
value of the forward queue also the place of the `spush` that put it there. -/
inductive Popped where
  | ret (seq : Nat) (e : RetEntry)
  | event (seq : Nat) (r : Record)
  | value (seq push : Nat) (v : Word)
  deriving DecidableEq, Repr

/-- The word that took it. -/
def Popped.seq : Popped → Nat
  | .ret q _ => q
  | .event q _ => q
  | .value q _ _ => q

/-- The fault record (Table 23.4, Table 23.3). -/
structure FaultRec where
  cls : Byte := 0
  prio : BitVec 6 := 0
  fetch : Bool := false
  defer : Bool := false
  tile : BitVec 3 := 0
  valid : Bool := false
  lanes : Word := 0
  fpc : DWord := 0
  faddr : DWord := 0
  fword : Word := 0
  fcode : Word := 0
  deriving DecidableEq, Repr

/-- A fault that waits to be taken (R386, R387): the word, the lanes, what the record will hold, and the effects of the word's other
lanes, which already stand. -/
structure PendFault where
  cur : Cur
  lanes : Word
  cls : Byte
  faddr : DWord := 0
  fcode : Word := 0
  fetch : Bool := false
  defer : Bool := false
  tile : BitVec 3 := 0
  fword : Word := 0
  /-- a page request rather than a fault (R402): the VA and the level of the PEND entry -/
  page : Option (DWord × Nat) := none
  deriving DecidableEq, Repr

/-- What a team barrier remembers per group (R429): PHASE of the last arrive, and whether it is not yet released. -/
structure BarMem where
  phase : Bool := false
  held : Bool := false
  deriving DecidableEq, Repr

/-- A frame of the stall stack (R361): entry PC and eight counters. -/
structure StallFrame where
  pc : DWord
  counts : List Word
  deriving DecidableEq, Repr

/-- What a group waits for (Table 2.3, Table 3.1). -/
inductive Wait where
  | ready
  /-- at `tbar.hold` or the hold half of `tbar.meet`; `meet` tells the second from the first (R463) -/
  | bar (b : Nat) (meet : Bool)
  | cbar (k : Nat) (meet : Bool)
  /-- released, ready at a clock (R345) -/
  | released (at_ : Nat)
  /-- released and ready: the hold half is over -/
  | passed
  | ring (r : Nat) (empty : Bool) (n : Word)
  | event
  | mwait (mask : BitVec 8)
  | spop
  /-- in front of a word that reads s registers whose result has not returned -/
  | operand (regs : List Nat)
  /-- in front of a `rdsys` that an older `wrsys` stands before -/
  | sysreg
  | fence (system : Bool)
  | xfence (bm am : BitVec 9) (scope : BitVec 3)
  | publish (v : DWord)
  /-- stopped by the debug controls (R364): 0 breakpoint, 1 brk, 2 step -/
  | stopped (cause : Nat)
  /-- a page request; the team stays resident (R402) -/
  | page (va : DWord)
  /-- a fetch from a home die in reset (R447): since when -/
  | homeDie (die : Nat) (since : Nat)
  deriving DecidableEq, Repr

/-- How a peer module answered an access a group waits for (R407, R408). -/
inductive PeerAnswer where
  | ok | nack (reason : Byte) | timeout (performed : Bool)
  deriving DecidableEq, Repr

/-- A run that `yield` bars (R216): since when, and the groups that issue a run first, each with the run it issued last. -/
structure Yield where
  run : Nat
  since : Nat
  others : List (Nat × Nat)
  deriving DecidableEq, Repr

/-- Where a translated access goes (R91): device memory or the hub region by PA, a host address, a peer module's PA, an offset in a
core's scratchpad array or operand buffer, an offset in a team's scratchpad allocation. -/
inductive Target where
  | device (pa : Nat)
  | hub (pa : Nat)
  | host (addr : Nat) (tso : Bool)
  | peer (m : Nat) (pa : Nat)
  | scratch (core : Nat) (off : Nat)
  | opbuf (core : Nat) (off : Nat)
  | share (uid : Nat) (off : Nat)
  deriving DecidableEq, Repr

/-- How a page is cached: its way partition and policy (Table 5.5). -/
structure Caching where
  waypart : Nat := 0
  policy : Nat := 0
  /-- the level of its leaf, 0 in the heap window (R398) -/
  level : Nat := 0
  deriving DecidableEq, Repr

/-- What a lane's checks come to. -/
inductive Verdict where
  | ok (t : Target) (c : Caching)
  | fail (cls : Byte) (code : Word)
  | pend (level : Nat)
  /-- the line is lost (R414) -/
  | lost (pa : Nat)
  /-- the home die is in reset (R447), or a link on the way retrains (R445): the target once it can be reached -/
  | home (die : Nat) (t : Target) (c : Caching)
  /-- the table entry of a level that the walk reads next lies on a die in reset (R447) -/
  | walk (die level : Nat)
  deriving DecidableEq, Repr

/-- A lane of a memory word: its address, its verdict, and a target where an access that timed out was performed (R408). -/
structure LaneAcc where
  lane : Nat
  va : DWord
  v : Verdict
  late : Option Target := none
  /-- the PA at which this module as a target has refused it (R409) -/
  refused : Option Nat := none
  deriving DecidableEq, Repr

/-- One lane of an `ldlod` or `sample` after its lookup (R320, R321): the delivered and the wanted level, the wanted tile of a fallback, the
data reads, and the weights of their texels as dyadics (m, e) of m × 2^e. -/
structure LodLane where
  lane : Nat
  d : Nat
  w : Nat
  fb : Option (Nat × Nat)
  accs : List LaneAcc
  weights : List (Int × Int)
  /-- its coordinates, where the fill of its MRL byte met a die in reset or a link that retrains: the lookup is made again (R317, R447) -/
  again : Option (List Nat) := none
  deriving DecidableEq, Repr

/-- An `ldlod` or `sample` whose reads are to be made (R321): its registers, slot, whether it filters, and the slot's descriptor. -/
structure LodLoad where
  d : Nat
  width : Nat
  slot : Nat
  filter : Bool
  desc : BitVec 512
  mode : Nat := 0
  deriving DecidableEq, Repr

/-- A lane's load, store or atomic that is not yet performed (R110, R258, R383, R447): its target, bytes and data. -/
structure HeldStore where
  seq : Nat
  target : Target
  size : Nat
  data : Nat
  /-- the operation of an atomic (R191), 10 for `cas` with its compare value -/
  op : Option Nat := none
  cmp : Word := 0
  /-- cell of v that a load's value or an atomic's old value goes to, at 32n + lane -/
  dest : Option Nat := none
  caching : Caching := {}
  /-- the size code of a load (R137) -/
  load : Option Nat := none
  /-- a lane of an `ldlod` or `sample` -/
  lod : Option (LodLoad × LodLane) := none
  /-- the word, the lane and its address, and the clock at which its checks passed, for a home die that goes into reset (R447) -/
  cur : Cur := {}
  lane : Nat := 0
  va : DWord := 0
  since : Nat := 0
  deriving DecidableEq, Repr

/-- What a memory word does with the lanes that pass their checks. -/
inductive MemKind where
  /-- size code and first register -/
  | load (f d : Nat)
  | store (n : Nat)
  /-- the operation and the first register for the old values -/
  | atomic (op : Nat) (dest : Option Nat)
  | lod (l : LodLoad) (lanes : List LodLane)
  deriving DecidableEq, Repr

/-- A memory word that has not passed its fault point (R407, R414, R447): its lanes' checks, what its lanes store (lane, data, compare
value), the clock its accesses were sent, the answers that have come in lane order, and whether the wait for a home die has expired. -/
structure MemWord where
  cur : Cur
  kind : MemKind
  accs : List LaneAcc
  data : List (Nat × Nat × Word) := []
  since : Option Nat := none
  answers : List PeerAnswer := []
  /-- replies of the host adapter that have come (R407) -/
  hosts : Nat := 0
  homeGone : Bool := false
  deriving DecidableEq, Repr

/-- A lane control word that has issued and waits to update the frontier (Table 23.2): the clock it may do so from, and the lanes whose
predicate is true. -/
structure PendCtl where
  cur : Cur
  at_ : Nat
  taken : Word
  deriving DecidableEq, Repr

/-- One group (R22, R204, Table 25.2). -/
structure Group where
  gidx : Nat := 0
  role : Role := .general
  nregs : Nat := 16
  quad : Nat := 0
  gslot : Nat := 0
  /-- lanes that have not retired -/
  live : Word := 0
  /-- v register n of lane l at 32n + l; unlisted 0 -/
  v : Sparse Word := []
  /-- predicate n as a mask of lanes; unlisted 0 (R131: p7 reads true) -/
  p : Sparse Word := []
  /-- index register k of lane l at 32k + l; unlisted 0 (Table 3.5) -/
  x : Sparse Word := []
  /-- uniform register n as retired; unlisted 0 (R204) -/
  s : Sparse Word := []
  /-- condition registers as retired, bit n for cn (R131: c7 reads true) -/
  c : Byte := 0
  frontier : List FEntry := []
  /-- rejoin registers; unlisted zero -/
  j : Sparse Rejoin := []
  /-- call frames, innermost first (R201) -/
  frames : List (BitVec 3) := []
  fwd : List FwdEntry := []
  ret : List RetEntry := []
  commit : List CommitEntry := []
  /-- results of retired `sld` and `satom` words that have not returned: the word's place, and the s registers they go to (R205) -/
  owed : List (Nat × List (Nat × Word)) := []
  pend : List PendWrite := []
  popped : List Popped := []
  held : List HeldStore := []
  undo : List UndoEntry := []
  /-- lane words that have issued and pass their fault point at a clock to come (Table 3.3): place and clock -/
  flight : List (Nat × Nat) := []
  /-- memory words that wait for a reply, a home die, or to be no longer speculative -/
  awaits : List MemWord := []
  ctl : Option PendCtl := none
  /-- words the helm has processed that something older may still roll back (R386) -/
  trail : List Cur := []
  /-- the clocks in which the helm closed the latest runs (R58) -/
  closed : List (Nat × Nat) := []
  /-- the runs barred by a `yield` -/
  yielded : List Yield := []
  /-- the next word's place in program order; place 0 belongs to the writes of drains (R253) -/
  nextSeq : Nat := 1
  /-- number of the helm's run and the words it holds so far (R50); a group's first run is run 1 -/
  runNo : Nat := 1
  runLen : Nat := 0
  /-- run of the last lane word issued (R51) -/
  pipeRun : Nat := 0
  /-- the helm's clock, and the clock from which the next run may issue (R52) -/
  helmClk : Nat := 0
  parkClk : Nat := 0
  age : Nat := 0
  /-- the clock at which URGENT was set (R343) -/
  urgent : Option Nat := none
  wait : Wait := .ready
  /-- the wait of a fetch for a home die has expired (R447) -/
  homeGone : Bool := false
  fault : FaultRec := {}
  pendFault : Option PendFault := none
  gang : Word := 0
  /-- bits [63:32] of PROMCLK latched by the last read of the even half (R230) -/
  promHi : Word := 0
  /-- per team barrier; unlisted: phase 0, released -/
  bars : Sparse BarMem := []
  /-- stall stack, top frame first, and frames beyond four (R361) -/
  stall : List StallFrame := []
  stallExtra : Nat := 0
  /-- energy and busy units of the current interval (R356) -/
  units : Nat := 0
  /-- the PC at which a resumed group passes breakpoints once, and whether it stops after one word (R365) -/
  passBreak : Option DWord := none
  stepping : Bool := false
  /-- the place of the word that the group executed when it resumed last -/
  passSeq : Option Nat := none
  /-- the lane word in front of which the pipe waits in strict read mode (R54) -/
  strictAt : Option Nat := none
  deriving DecidableEq, Repr

/-- A team barrier (R219). -/
structure Barrier where
  expect : Half := 0
  arrived : Half := 0
  phase : Bool := false
  deriving DecidableEq, Repr

/-- A stage ring's geometry and slot bits (R227, Table 16.2); slots 0 for no ring. -/
structure Ring where
  offset : Nat := 0
  slots : Nat := 0
  bytes : Nat := 0
  full : DWord := 0
  ph : DWord := 0
  deriving DecidableEq, Repr

/-- TYPE of a tile (Table 12.1). -/
inductive TileType where
  | zero | f32 | wide | i32
  deriving DecidableEq, Repr

/-- A logged word of a chain with KPOS before it, and the operands of its first execution, which its locks keep (R257, R258, R260): the
operand-buffer share, and register n of lane l of B-holder h at 32(64h + n) + l. -/
structure LogWord where
  word : Word
  gang : Word
  kpos : Nat
  ob : Memory := []
  b : Sparse Word := []
  /-- the tile's scale record before it (R393) -/
  scale : Option (Nat × Nat) := none
  deriving DecidableEq, Repr

/-- The chain record of a tile (R257). -/
structure Chain where
  log : List LogWord := []
  /-- a checkpoint is held, so the chain may promote (R257) -/
  checkpoint : Bool := false
  deriving DecidableEq, Repr

/-- The rendezvous latch of a tile (R235): the pending word, its GANG, member 0's value, members that delivered. -/
structure Latch where
  word : Word
  gang : Word
  val : DWord := 0
  arrived : Half := 0
  deriving DecidableEq, Repr

/-- A joint word the engine accepted (R243): its order, tile, word, gang, value, the accepted words its wait mask waits for, whether it
has started, and the clock it ends in. -/
structure MatWord where
  order : Nat
  word : Word
  gang : Word
  val : DWord
  waits : List Nat
  started : Bool := false
  /-- the promotion replay of the word runs (R259) -/
  replay : Bool := false
  ends : Nat := 0
  /-- the operand-buffer share as the word's loads find it, placed at its acceptance (R246) -/
  ob : Memory := []
  /-- the groups that a drain's acceptance found as its receivers, by quadrant (R253) -/
  receivers : List Nat := []
  /-- the page an `mld` or `mst` waits for (R404), and whether a covering `.tlbinv` record has been placed since -/
  waitVa : Option DWord := none
  retry : Bool := false
  deriving DecidableEq, Repr

/-- A deferred fault that members have still to report (R393). -/
structure Deferred where
  order : Nat
  tile : Nat
  slot : BitVec 3
  word : Word
  cls : Byte
  faddr : DWord := 0
  fcode : Word := 0
  members : Half
  deriving DecidableEq, Repr

/-- An accumulator tile with its bound register, checkpoint plane, threshold and records (Table 12.1). Elements lie at 64i + j. -/
structure Tile where
  type : TileType := .zero
  elems : Sparse Word := []
  /-- lo halves of a wide tile, or the checkpoint's elements -/
  plane : Sparse Word := []
  bounds : Sparse Half := []
  ckBounds : Sparse Half := []
  threshold : Word := 0x7F800000
  /-- byte offsets of the row and column scales of the last `mma` or `mchain`; none: empty -/
  scale : Option (Nat × Nat) := none
  chain : Option Chain := none
  latch : Option Latch := none
  /-- the faulted state of R393: the order of each word whose fault put the tile into it; empty when the tile is not faulted -/
  faulted : List Nat := []
  deriving DecidableEq, Repr

/-- An operand-buffer reservation (R239). -/
structure Reservation where
  w0 : DWord := 0
  w1 : DWord := 0
  kpos : Nat := 0
  held : Bool := false
  deriving DecidableEq, Repr

/-- Why a team is about to be saved (R423): a page request for a VA, or a `.ctxsave` command. -/
inductive SaveCause where
  | page (va : DWord)
  | command (id : Nat)
  /-- the team's core is to be spared or taken out of service (R449) -/
  | spare
  deriving DecidableEq, Repr

/-- A resident team (R24, Table 25.3). `groups` are its live groups other than the one in `State.grp`. -/
structure Team where
  /-- 0 for no team -/
  uid : Nat := 0
  launchId : BitVec 24 := 0
  seqNo : Nat := 0
  tidx : Nat := 0
  tx : Nat := 0
  ty : Nat := 0
  tz : Nat := 0
  cidx : Nat := 0
  midx : Nat := 0
  clh : Nat := 1
  clw : Nat := 1
  asid : BitVec 12 := 0
  priv : Bool := false
  core : Nat := 0
  tslot : Nat := 0
  /-- scratchpad allocation in bytes and its contents; unlisted 0 (R24) -/
  scratchSize : Nat := 0
  scratch : Memory := []
  obSize : Nat := 0
  ob : Memory := []
  /-- WTS and RTS of the blocks of both (R108): block n of the scratchpad at n, of the share at 4096 + n -/
  blocks : Sparse (Nat × Nat) := []
  groups : List Group := []
  bars : Sparse Barrier := []
  rings : Sparse Ring := []
  events : List Record := []
  cmdSeq : Half := 0
  /-- team energy in whole µJ and the carried nJ (R356), and the clocks of its matrix words in the interval -/
  energy : Nat := 0
  energyFrac : Nat := 0
  units : Nat := 0
  /-- issue clocks in the interval of groups that have exited (R356) -/
  goneUnits : Nat := 0
  /-- a copy, stream or traversal command of the team has been in progress in the interval (R356) -/
  engines : Bool := false
  promStat : Byte := 0
  promCnt : Word := 0
  promClk : DWord := 0
  /-- counts of incomplete words per dependency slot (R244) -/
  slots : Sparse Nat := []
  tiles : Sparse Tile := []
  resv : Sparse Reservation := []
  words : List MatWord := []
  matOrder : Nat := 0
  deferred : List Deferred := []
  /-- last winner of the wide pipe in each quadrant (R343); unlisted 16: none -/
  lastWin : Sparse Nat := []
  /-- group the helm of a quadrant served last (R43); unlisted 16: none -/
  lastHelm : Sparse Nat := []
  /-- per path, the largest WTS of the writes of commands whose records a group of the team has removed (R119, R120) -/
  seenWts : Sparse Nat := []
  /-- the team fetches nothing more and is about to be saved (R423 step 1) -/
  saving : Option SaveCause := none
  /-- the VA a resident team waits for (R402) -/
  pageWait : Option DWord := none
  /-- the access of the last page request (R403): 0 read, 1 write, 2 atomic, 3 fetch -/
  pageKind : Nat := 0
  /-- a covering `.tlbinv` record has been placed since (R403) -/
  pageRetry : Bool := false
  /-- the page a save's own writes wait for (R282) -/
  saveWait : Option DWord := none
  /-- stores and feedback of exited groups that are still to be performed (R215, R325) -/
  orphans : List HeldStore := []
  deriving DecidableEq, Repr

/-- A cluster's barriers (R222): per barrier k the ARR mask and PHASE, and the largest CTIME at an arrival of the phase. -/
structure Cluster where
  seqNo : Nat
  cidx : Nat
  arr : Sparse Half := []
  phase : BitVec 4 := 0
  ctime : Sparse Nat := []
  /-- member teams that have finished but whose slots are still held (R30) -/
  done : List Nat := []
  deriving DecidableEq, Repr

/-- A TLB entry (R93, R94): ASID, number of the page (its VA divided by its size), page-size exponent, the leaf, pending bits, clock since a pending bit was set, and
the leaf's own address. -/
structure TlbEntry where
  asid : BitVec 12
  page : Nat
  log2 : Nat
  leaf : DWord
  leafPa : Nat
  pa : Bool := false
  pd : Bool := false
  since : Nat := 0
  /-- launches that used the entry (R94) -/
  users : List Nat := []
  deriving DecidableEq, Repr

/-- A line of an L1 with its lease (R96, R108): line number, data, WTS, RTS. -/
structure L1Line where
  line : Nat
  data : BitVec 1024
  wts : Nat
  rts : Nat
  /-- the tag of its fill, the clock in which the fill's reply lands, and whether a recall is held against it (R413) -/
  ttag : Byte := 0
  lands : Nat := 0
  recalled : Bool := false
  deriving DecidableEq, Repr

/-- An entry of a residency cache (R317). -/
structure ResEntry where
  asid : BitVec 12
  slot : Nat
  region : Nat
  value : Byte
  filled : Nat
  used : Nat
  deriving DecidableEq, Repr

/-- A hold of the operand latch (R58): the register, its placing clock, how many lane words it still serves, its run, whether it was
placed (none while the clock has not come), and the clock it lapses after. -/
structure Hold where
  reg : Nat
  from_ : Nat
  serves : Nat
  run : Nat
  uid : Nat
  gidx : Nat
  placed : Option Bool := none
  until_ : Option Nat := none
  deriving DecidableEq, Repr

/-- The wide pipe of a quadrant (R51, R56, R59): next issue clock, whether the last run won with URGENT (R343), reads and writes of each
bank by clock, the latch. -/
structure Pipe where
  next : Nat := 0
  urgent : Bool := false
  reads : List (Nat × Nat) := []
  writes : List (Nat × Nat) := []
  /-- the slots that returns from memory have taken (R59) -/
  returns : List (Nat × Nat) := []
  holds : List Hold := []
  /-- the last read cycle of the word issued last -/
  lastRead : Nat := 0
  deriving DecidableEq, Repr

/-- One core (R12). -/
structure Core where
  ctime : Nat := 0
  l1 : List L1Line := []
  tlb : List TlbEntry := []
  residency : List ResEntry := []
  /-- recent-miss filter: (ASID, slot, level, tile column, tile row), and the next place to replace (R325) -/
  filter : List (Nat × Nat × Nat × Nat × Nat) := []
  filterNext : Nat := 0
  /-- a lane-path load has been issued in the current window of 16 clocks (R109), and where the window began -/
  loaded : Bool := false
  window : Nat := 0
  pipes : Sparse Pipe := []
  /-- the place, two to a fabric clock, at which the core's next line request may leave (R367), and the tag of its next fill (R413) -/
  sent : Nat := 0
  ttag : Byte := 0
  /-- bytes of the scratchpad array and of the operand buffer that no allocation covers, by array offset; unlisted 0 (R91) -/
  array : Memory := []
  obArray : Memory := []
  outOfService : Bool := false
  /-- the core is drained for a spare or to go out of service: no team is placed on it (R449) -/
  draining : Bool := false
  deriving DecidableEq, Repr

/-- The quay's gambit predictor is kept per quay: PA[14:7] to file (R97). -/
abbrev Predictor := Sparse Nat

/-- A directory entry of a home slice (R101): presence of partitions, owner, and when it was last used (R369). -/
structure DirEntry where
  line : Nat
  presence : Byte
  owner : Option Nat
  used : Nat
  deriving DecidableEq, Repr

/-- MOESI states (Table 5.8). -/
inductive Moesi where
  | M | O | E | S
  deriving DecidableEq, Repr

/-- A line held by an RDC partition (R100, R111): its state, and the largest RTS the partition granted. -/
structure RdcLine where
  line : Nat
  state : Moesi
  wts : Nat
  rts : Nat
  way : Nat
  policy : BitVec 2
  used : Nat
  deriving DecidableEq, Repr

/-- A line resident in an L2 slice (R98, R368): its way, the policy it was filled under, whether it is dirty, its timestamps (R108)
and when it was last used. -/
structure L2Line where
  line : Nat
  way : Nat
  policy : BitVec 2
  dirty : Bool
  wts : Nat
  rts : Nat
  used : Nat
  deriving DecidableEq, Repr

/-- A line request (R366, R367): the core, or 768 + d for a unit of die d; the slice, as 16d + s; whether it is a read that hits; the line. -/
structure SliceReq where
  src : Nat
  slice : Nat
  hit : Bool
  line : Nat := 0
  /-- a lane access is not performed before it enters -/
  waits : Bool := false
  deriving DecidableEq, Repr

/-- One compute die (R11). -/
structure Die where
  tlb : List TlbEntry := []
  directory : List DirEntry := []
  rdc : List RdcLine := []
  l2 : List L2Line := []
  /-- the slice register of each slice: the largest RTS evicted (R108) -/
  evicted : Sparse Nat := []
  /-- lost lines (R414), and the structure in which each was lost (Table 24.6); unlisted 9 -/
  lost : List Nat := []
  lostCode : Sparse Nat := []
  /-- 4-byte units of lost lines that HOST-path writes and privileged `st.b256` words have written (R414) -/
  patched : List Nat := []
  /-- the 32 lines of each slice filled last: slice, line, core, tag (R413) -/
  fills : List (Nat × Nat × Nat × Byte) := []
  /-- the request queue of each slice (R366): for each entry, the half core clock in which it frees -/
  queued : Sparse (List Nat) := []
  inReset : Bool := false
  resetAt : Nat := 0
  outOfService : Bool := false
  /-- slices, channels out of service; ways retired per slice (Table 26.2) -/
  slicesOut : List Nat := []
  channelsOut : List Nat := []
  waysOut : Sparse Nat := []
  /-- physical cores of the 13th rank in use (Table 26.2) -/
  coresSpared : Nat := 0
  /-- no working route to the landing but through this neighbour (R446) -/
  route : Option Nat := none
  deriving DecidableEq, Repr

/-- A context descriptor (Table 5.10). -/
structure CtxDesc where
  heapBase : DWord := 0
  heapLimit : DWord := 0
  heapOffset : DWord := 0
  ptRoot : DWord := 0
  lease : Word := 0x40
  pubAddr : DWord := 0
  trapVec : DWord := 0
  fring : DWord := 6
  saveBase : DWord := 0
  valid : Bool := false
  priv : Bool := false
  deriving DecidableEq, Repr

/-- A context control block (Table 25.1). -/
structure CtxCtl where
  drain : Bool := false
  dlExp : BitVec 5 := 0x18
  dlEn : Bool := true
  rayBudget : BitVec 13 := 0x1000
  /-- the clock at which DRAIN was set -/
  drainAt : Nat := 0
  cause : Byte := 0
  resets : BitVec 24 := 0
  deriving DecidableEq, Repr

/-- A breakpoint entry (Table 18.6). -/
structure BreakEntry where
  pc : DWord := 0
  name : DWord := 0
  ctl : BitVec 10 := 0
  deriving DecidableEq, Repr

/-- A debug block (Table 18.6). -/
structure DebugBlock where
  brkEn : Bool := false
  step : Bool := false
  strict : Bool := false
  strictName : DWord := 0
  entries : Sparse BreakEntry := []
  deriving DecidableEq, Repr

/-- A profile of a context (Table 14.12, Table 15.4). -/
structure Profiles where
  nodeFmt : BitVec 2 := 0
  prim : BitVec 2 := 0
  order : BitVec 1 := 0
  cnode : Half := 0x3C00
  cclus : Half := 0x4000
  qmin : Half := 0x3A00
  refitMax : Byte := 0
  fbva : DWord := 0
  fblog2 : BitVec 5 := 0x0C
  filter : BitVec 1 := 1
  rlife : BitVec 5 := 0x10
  deriving DecidableEq, Repr

/-- A context's own resources: LOD slots (64-byte descriptors as 512 bits, R314), open fences (R301), feedback ring (R325), energy
(R357), profiles (R305, R324). -/
structure CtxRes where
  slots : Sparse (Option (BitVec 512)) := []
  fences : List Nat := []
  fbHead : Nat := 0
  fbCount : Nat := 0
  fbOvf : Nat := 0
  fbDropLogged : Bool := false
  energy : Nat := 0
  /-- nJ not yet counted -/
  energyFrac : Nat := 0
  /-- the count is cleared at the next boundary (R357) -/
  clearEnergy : Bool := false
  prof : Profiles := {}
  deriving DecidableEq, Repr

/-- Registers of a launch queue (Table 16.3), and the launches `cop.sys.launch` has entered after the records then published. -/
structure LaunchQueue where
  base : DWord := 0
  cfg : BitVec 6 := 1
  head : Word := 0
  tail : Word := 0
  /-- (LQHEAD when entered, record VA, ASID of the issuer, command) -/
  direct : List (Nat × DWord × BitVec 12 × Nat) := []
  deriving DecidableEq, Repr

/-- The control of a coalescing node (R337): batches fired, clock of the first read of TAIL > lo, FLUSHREQ at the last fire, the batch
that waits on tags, and since when. -/
structure NodeCtl where
  batch : Nat := 0
  first : Option Nat := none
  flush : Word := 0
  /-- (o, slot being voided or awaited, clock the wait began) of a batch being fired -/
  firing : Option (Nat × Nat × Nat) := none
  /-- RECVA, RECB, THRESH and CAP as read at acceptance (Table 16.4) -/
  recVa : Nat := 0
  recB : Nat := 16
  thresh : Nat := 1
  cap : Nat := 1
  closed : Bool := false
  timedOut : Bool := false
  deriving DecidableEq, Repr

/-- A peer module as seen from here (R127, R409): its device memory, and whether it answers. -/
structure Peer where
  mem : Memory := []
  deriving DecidableEq, Repr

/-- Registers of the hub-resource region (R84, R347, R363, R412, R418, R457). -/
structure Hub where
  queues : Sparse LaunchQueue := []
  aperBase : DWord := 0
  limctl : Word := 0x1001
  fabRt : Sparse DWord := []
  fabId : Byte := 0
  /-- way masks: 8d + n for dies, 64 + 8p + n for RDC partitions; unlisted 0xFFFF (Table 5.6) -/
  wayMask : Sparse Half := []
  ctx : Sparse CtxDesc := []
  ctl : Sparse CtxCtl := []
  debug : Sparse DebugBlock := []
  /-- the latest writes of a debug block, newest first: the clock, none for what stood before them, and the block after it (R363) -/
  debugLog : Sparse (List (Option Nat × DebugBlock)) := []
  modFring : DWord := 6
  modPol : DWord := 1
  modNote : DWord := 0
  peerTo : DWord := 0x15
  /-- corrected and uncorrectable errors per die (Table 24.5) -/
  serrCe : Sparse Nat := []
  serrUe : Sparse Nat := []
  svcReq : Bool := false
  degraded : Bool := false
  /-- elements in service, SVCCAP (Table 26.4) -/
  capCores : Nat := 768
  capSlices : Nat := 128
  capChannels : Nat := 64
  capPorts : Nat := 24
  /-- ENERGY(n) in µJ (R355) -/
  energy : Sparse Nat := []
  deriving DecidableEq, Repr

/-- What the instruction fetches of a launch see (R121): memory as it stood at the launch's start; arrays at 2 · core, operand buffers at 2 · core + 1; and the hub's
registers. -/
structure CodeView where
  mem : Memory := []
  host : Memory := []
  peers : Sparse Peer := []
  arrays : Sparse Memory := []
  hub : Hub := {}
  deriving DecidableEq, Repr

/-- An accepted launch (R329, R332). -/
structure Launch where
  seqNo : Nat
  id : BitVec 24
  queue : Nat
  /-- the address of its record -/
  addr : Nat := 0
  asid : BitVec 12 := 0
  priv : Bool := false
  codeVa : DWord := 0
  entry : List Word := []
  counts : List Nat := []
  regs : Nat := 1
  clh : Nat := 1
  clw : Nat := 1
  scratch : Nat := 0
  obShare : Nat := 0
  gx : Nat := 1
  gy : Nat := 1
  gz : Nat := 1
  serial : Bool := false
  wait : Bool := false
  done : Bool := false
  qfed : Bool := false
  rings : List (Nat × Nat × Nat) := []
  energy : Nat := 0
  waitVa : DWord := 0
  waitVal : DWord := 0
  doneVa : DWord := 0
  doneVal : DWord := 0
  nodeVa : DWord := 0
  /-- the launch accepted before it from the same queue (R333) -/
  prev : Option Nat := none
  /-- the launches whose finish comes before the start (R334) -/
  after : List Nat := []
  waitMet : Bool := false
  started : Bool := false
  nextTeam : Nat := 0
  /-- teams placed and not finished, saved ones included -/
  live : Nat := 0
  finished : Bool := false
  /-- no further team is placed (R421, R440) -/
  ended : Bool := false
  noDone : Bool := false
  node : NodeCtl := {}
  code : CodeView := {}
  /-- accumulation records registered by the launch (R310) -/
  regions : List (DWord × List Byte) := []
  /-- the page that a combination of its partials waits for, whether a covering `.tlbinv` record has been placed since, and the pages reported (R404) -/
  combWait : Option DWord := none
  combRetry : Bool := false
  combPages : List Nat := []
  deriving DecidableEq, Repr

/-- Engine instances (Table 13.2). -/
inductive Engine where
  | copy (core : Nat) | gather (die slice : Nat) | stream (core : Nat) | trav (core : Nat)
  | builder (die : Nat) | compactor | residency | coll (ox : Nat) | system
  deriving DecidableEq, Repr

/-- Where a command stands (R262, R265, R266, R404). -/
inductive CmdState where
  | delivered | queued | running | waiting (va : DWord) | finished
  deriving DecidableEq, Repr

/-- A command of an engine, from delivery to the placing of its record. -/
structure Command where
  id : Nat
  engine : Engine
  major : Nat
  fn : Nat
  opa : DWord
  opb : DWord
  uid : Nat
  gidx : Nat
  asid : BitVec 12
  priv : Bool
  core : Nat
  launch : Nat
  /-- NAME of the issuing group -/
  name : DWord := 0
  /-- the s register its tag goes to, if R = 1 -/
  dest : Option Nat := none
  tag : Word := 0
  state : CmdState := .delivered
  /-- descriptor bytes as read at acceptance (R264), and those of a communicator -/
  desc : List Byte := []
  comm : List Byte := []
  status : Half := 0
  flags : Byte := 0
  unit : Byte := 0
  cookie : Word := 0
  count : Nat := 0
  paths : BitVec 9 := 0
  /-- an any-hit or intersection call-out record rather than the completion (R308) -/
  callouts : List Record := []
  /-- the largest WTS of its writes (R119), and of those in G before its `evpop` (R278, R296) -/
  wts : Nat := 0
  order : Nat := 0
  /-- tag a batch was stamped with, rays outstanding, the profile it runs under (R304, R305) -/
  stamp : Nat := 0
  outstanding : Nat := 0
  prof : Profiles := {}
  /-- listed subtrees of a refit or update still to be built, and the generation slot being built (R299) -/
  todo : List Nat := []
  slot : Nat := 0
  /-- entries each listed subtree has placed in the retire list (R376) -/
  retired : List (Nat × Nat) := []
  /-- fences the command has opened and that have not signalled (R301) -/
  opened : List Nat := []
  pages : List Nat := []
  /-- pages for which a SOURCE 14 entry stands (R435) -/
  logged : List Nat := []
  /-- a `.tlbinv` record that covers the awaited page has been placed (R404) -/
  retry : Bool := false
  /-- the ports its packets leave by, and the number of flits each has begun to send when the last of them leaves (R380) -/
  goals : List (Nat × Nat) := []
  /-- the commands that held every place in progress of its instance when it was accepted (R266) -/
  waitedOn : List Nat := []
  /-- accesses that its record waits for: team, group (16 for groups that have exited), place in program order; or of a copy: 0, its command, 0 (R279,
  R280, R327) -/
  after : List (Nat × Nat × Nat) := []
  /-- what a copy has still to write into locked bytes: the team, the offset in its operand-buffer share, and bytes (R258) -/
  rest : List (Nat × Nat × List Byte) := []
  deriving DecidableEq, Repr

/-- An exact ray parameter: (num + √rad) / den or (num - √rad) / den with den positive, or an infinity (R306, R307). -/
inductive ExtQ where
  | fin (num : Int) (minus : Bool) (rad den : Nat) | pinf | ninf
  deriving DecidableEq, Repr

/-- A hit candidate (Table 14.14). -/
structure Hit where
  t : ExtQ
  tBits : Word
  cluster : Nat
  prim : Nat
  hkind : Nat
  front : Bool
  /-- IID, none outside an instance -/
  inst : Option Nat
  u : Word
  v : Word
  /-- the candidate is accepted without a call-out -/
  opaque_ : Bool
  deriving DecidableEq, Repr

/-- What a ray walks: a scene and the tag of the generation, the instance it is under, and ORG and DIR there, f32 bits. -/
structure Walk where
  scene : DWord
  tag : Nat
  inst : Option Nat
  org : List Nat
  dir : List Nat
  deriving DecidableEq, Repr

/-- One thing a ray has still to do: read a node and take its children, read a node again for one child, take a child as read, offer a
candidate. -/
inductive RayTask where
  | node (w : Walk) (ref : Nat)
  | again (w : Walk) (ref c : Nat)
  | child (w : Walk) (node c kind ref : Nat) (lo hi : List Nat)
  | offer (h : Hit)
  deriving DecidableEq, Repr

/-- A ray of a traversal unit (R304, R306): its batch, record fields, walk and state. -/
structure Ray where
  id : Nat
  cmd : Nat
  core : Nat
  uid : Nat
  index : Nat
  scene : DWord
  tag : Nat
  kind : Nat
  /-- ORG, DIR and TMAX as read at acceptance -/
  org : List Nat
  dir : List Nat
  tmax : Word
  tmin : Word
  mask : Byte
  cull : Bool
  opaq : Bool
  contrib : List Half
  fbva : DWord
  best : ExtQ
  hit : Option Hit := none
  todo : List RayTask := []
  /-- branches parked on a fence: (fence, task) (R306) -/
  parked : List (Nat × RayTask) := []
  callout : Option Hit := none
  visits : Nat := 0
  /-- a branch was dropped (R438), a shadow primitive occluded -/
  dropped : Bool := false
  occluded : Bool := false
  done : Bool := false
  /-- the root copy the ray starts at, none where it reads no node (R427) -/
  root : Option Nat := none
  /-- VISITS when the ray first read a node during a save of its team (R425) -/
  saveFrom : Option Nat := none
  /-- the candidate a restored ray had accepted, which is not offered again (R427) -/
  kept : Option Hit := none
  deriving DecidableEq, Repr

/-- A team that has been saved (R423): where, and as it was, since the payload's tables do not name all that a restore needs. -/
structure SavedTeam where
  uid : Nat
  asid : BitVec 12
  seqNo : Nat
  tidx : Nat
  launchId : BitVec 24
  core : Nat
  tslot : Nat
  /-- VA of the save area of the core it was saved from -/
  area : DWord
  saveId : Word
  ctime : Nat
  /-- quadrant, group slot and save slot of each group in the list -/
  groups : List (Nat × Nat)
  image : Team
  /-- VA of the awaited page, if the team was saved by a page request (R403) -/
  va : Option DWord := none
  retry : Bool := false
  /-- the team is to be restored: by the launch unit itself, or by a `.ctxrestore` (R403, R434) -/
  restoring : Option (Option Nat) := none
  /-- the traversal batches and rays of the team (R425 to R427) -/
  batches : List Command := []
  rays : List Ray := []
  deriving DecidableEq, Repr

/-- An optical port (R350, Table 17.3, R450). -/
structure Port where
  parked : BitVec 4 := 0
  waking : BitVec 4 := 0
  retired : BitVec 4 := 0
  linkUp : Bool := false
  wakeDepth : BitVec 13 := 0x100
  /-- flits in the transmit queue (R381), and the clock they were counted at -/
  depth : Nat := 0
  depthAt : Nat := 0
  /-- flits that wait for room in the queue, in their order behind it (R381) -/
  backlog : Nat := 0
  /-- what is left of the flit that leaves, in 84ths of a flit (R351), and the flits that have begun to leave -/
  busy : Nat := 0
  sent : Nat := 0
  /-- stretches of clocks, first and last plus one, in which a flit left, and in which one waited (Table 18.1), since they were counted last -/
  sends : List (Nat × Nat) := []
  waits : List (Nat × Nat) := []
  /-- the group whose wake is running, and the clock it joins at (R352) -/
  waker : Option (Nat × Nat) := none
  outOfService : Bool := false
  deriving DecidableEq, Repr

/-- A pontoon link (R444 to R446, Table 26.1). -/
structure Link where
  /-- modules disabled -/
  failed : Byte := 0
  /-- clocks of the replays of the last 2^16 fabric clocks since the last retrain (R445) -/
  replays : List Nat := []
  /-- when the retrain in progress began -/
  retrainAt : Nat := 0
  retraining : Bool := false
  retrains : Nat := 0
  /-- repair lanes in use, at 2 · module + direction (R13, Table 26.2) -/
  spared : Sparse Nat := []
  deriving DecidableEq, Repr

/-- Slalia (R346, R452). -/
structure Slalia where
  lanes : Nat := 8
  lost : Bool := false
  deriving DecidableEq, Repr

/-- A write to a host-window page with TSO = 0 that the host may not see yet (R125): writer, order, whether a system fence of its
thread, or of a group that removed its record, follows it, and the path. -/
structure HostWrite where
  addr : Nat
  data : List Byte
  uid : Nat
  gidx : Nat
  launch : Nat
  path : Nat
  fenced : Bool := false
  /-- the engine command that wrote it, and whether its record has been removed -/
  cmd : Option Nat := none
  popped : Bool := false
  deriving DecidableEq, Repr

/-- A write that accesses of other paths may not see yet (R118): where it went (0 device memory, 2u + 1 and 2u + 2 the scratchpad and the
operand-buffer share of team u), what the bytes held before, its path, group, launch and command, whether the command's record has been
removed, and the groups and paths that an `xfence` has put after it (path LANE for all groups as group 0 of team 0). -/
structure PastWrite where
  space : Nat
  addr : Nat
  old : List Byte
  path : Nat
  uid : Nat
  gidx : Nat
  launch : Nat
  cmd : Option Nat := none
  popped : Bool := false
  /-- team, group, path, and the first command that comes after -/
  ordered : List (Nat × Nat × Nat × Nat) := []
  deriving DecidableEq, Repr

/-- A write to device or host memory, as the view that a launch fetches through needs it (R121): the launch that made it, none for a unit of no launch or another
module; what the bytes held before. `done` marks the done write of a launch (R334). -/
structure CodeWrite where
  who : Option Nat
  host : Bool
  addr : Nat
  old : List Byte
  done : Bool := false
  deriving DecidableEq, Repr

/-- A repair record (Table 26.5). -/
structure Repair where
  kind : Byte
  action : Byte
  ident : Half
  left : Word
  boot : Word
  time : DWord
  deriving DecidableEq, Repr

/-- Trace control (R283, R358, R359). -/
structure Trace where
  tempo : Bool := false
  mielien : Bool := false
  k : Nat := 8
  ringVa : DWord := 0
  asid : BitVec 12 := 0
  ringUnits : Nat := 0
  t0 : Nat := 0
  ticks : Nat := 0
  /-- a setting that takes effect at the next tick (R283) -/
  next : Option (DWord × BitVec 12 × Nat × Nat × Bool × Bool) := none
  /-- records dropped since the previous marker, pads and records waiting -/
  drops : Nat := 0
  deriving DecidableEq, Repr

/-- Energy admission (R342). -/
structure Admission where
  allowance : Nat := 2400000
  /-- an allowance set by `.enset`, from the next window onward (R283) -/
  next : Option Nat := none
  window : Nat := 0
  charged : Nat := 0
  first : Bool := true
  carry : Nat := 0
  /-- excess of metered energy over ENERGY of the teams that finished in this window, and energy metered in it -/
  excess : Int := 0
  metered : Nat := 0
  throttled : Bool := false
  deriving DecidableEq, Repr

/-- Which agent moves next: an operation of the table, the helm or the wide pipe of the executing group, or the machine turns to
another group (team, group-in-team). -/
inductive Move where
  | event (i : Instr)
  | helm
  | pipe
  | turn (uid gidx : Nat)
  /-- a host read of a hub register through BAR0 (R347), for which the table has no operation -/
  | bar0Read (off n : Nat)
  /-- a command of the harbourmaster that sets the operating point of an island (R16) -/
  | island (k : Nat) (p : OpPoint)
  /-- cells of a line of memory change: the byte positions of its codeword, and by what (R415) -/
  | cells (line : Nat) (errors : List (Nat × Byte))
  deriving DecidableEq, Repr

/-- An answer the host got to a BAR2 or BAR0 read: the BAR, the offset, bytes, and the value, or none for Unsupported Request (R411). -/
structure HostReply where
  bar : Nat := 2
  addr : Nat
  size : Nat
  value : Option Nat
  deriving DecidableEq, Repr

/-- An access from outside the module that waits for its home die to leave reset (R447): of another module (R409), or of the host through BAR2
with the offset of its answer. -/
structure OutsideAccess where
  source : BitVec 8 := 0
  bar2 : Option Nat := none
  pa : Nat
  size : Nat
  kind : Nat
  v : Nat
  since : Nat
  deriving DecidableEq, Repr

/-- The answer to an access of another module (R409): data or an acknowledgement, or a NACK with its reason. -/
structure InboundReply where
  source : BitVec 8
  pa : Nat
  nack : Option Nat := none
  value : Nat := 0
  deriving DecidableEq, Repr

/-- Since when an engine's access to an address waits for a die in reset (R447): who makes it, as its path, command, team and group. -/
structure HomeWait where
  path : Nat
  cmd : Option Nat
  uid : Nat
  gidx : Nat
  va : DWord
  die : Nat
  since : Nat
  deriving DecidableEq, Repr

/-- The module. -/
structure State where
  /-- `rdcnt cycle`: core clocks since Ready (R231) -/
  clock : Nat := 0
  stage : Nat := 0
  bootFail : Bool := false
  fwver : Half := 0
  boots : Word := 0
  /-- repair records, oldest first (R457) -/
  repairs : List Repair := []
  /-- device memory by PA -/
  mem : Memory := []
  hostMem : Memory := []
  hostPending : List HostWrite := []
  /-- writes that no `xfence` or launch boundary orders before the accesses of every other path, oldest first (R118) -/
  past : List PastWrite := []
  /-- writes since a launch first wrote, latest first (R121) -/
  codeLog : List CodeWrite := []
  peers : Sparse Peer := []
  hub : Hub := {}
  ctxRes : Sparse CtxRes := []
  /-- the executing group, its team, and the word being executed -/
  cur : Cur := {}
  grp : Group := {}
  team : Team := {}
  teams : List Team := []
  saved : List SavedTeam := []
  clusters : List Cluster := []
  launches : List Launch := []
  nextLaunchId : BitVec 24 := 0
  /-- the queue from which the launch unit looks for its next record (R332) -/
  launchTurn : Nat := 0
  nextSeqNo : Nat := 0
  nextUid : Nat := 1
  saveCount : Word := 0
  adm : Admission := {}
  cores : Sparse Core := []
  predictors : Sparse Predictor := []
  dies : Sparse Die := []
  /-- line requests held in injection queues, oldest first (R366), and those of cores that have entered since: core and line -/
  injected : List SliceReq := []
  granted : List (Nat × Nat) := []
  /-- lease recalls on their way: core, line, tag (R413) -/
  recalls : List (Nat × Nat × Byte) := []
  /-- WTS and RTS of array blocks that no allocation covers, operand-buffer blocks from 3072 on, at 8192 · core + block (R108) -/
  blocks : Sparse (Nat × Nat) := []
  /-- requests each shared island served for each context since the last energy boundary, at 4096 · island + ASID (R357) -/
  served : Sparse Nat := []
  /-- energy boundaries passed since Ready (R355) -/
  energyAt : Nat := 0
  commands : List Command := []
  nextCmd : Nat := 0
  rays : List Ray := []
  nextRay : Nat := 0
  /-- rays per (unit, scene VA, tag) (R312) -/
  rayCounts : List ((Nat × DWord × Nat) × Nat) := []
  ports : Sparse Port := []
  links : Sparse Link := []
  /-- the largest time of the inbound accesses of each peer module (R127) -/
  inbound : Sparse Nat := []
  slalia : Slalia := {}
  trace : Trace := {}
  /-- BUSY and STALL of the period in progress, and as latched at the last tick (R358) -/
  busy : Sparse Nat := []
  stallCnt : Sparse Nat := []
  latched : Sparse (Nat × Nat) := []
  /-- of clocks that count in the period after the next tick, which the machine has still to take -/
  busyNext : Sparse Nat := []
  stallNext : Sparse Nat := []
  filterAt : Nat := 0
  /-- the operating point the harbourmaster has brought each island to (R16, R19); unlisted gated -/
  points : Sparse OpPoint := []
  levels : Sparse Nat := []
  coolSince : Sparse Nat := []
  coolantBad : Bool := false
  /-- elements that wait to hold no team and no command: KIND, ID, LEFT and ACTION of their SPARE_APPLY (R449) -/
  sparing : List (Nat × Nat × Nat × Nat) := []
  /-- errors in the cells of lines of memory and their check bytes, by byte position below 130 (R415) -/
  damage : List (Nat × List (Nat × Byte)) := []
  /-- islands whose level has changed in this tempo period (R454) -/
  levelLogged : List Nat := []
  hostReplies : List HostReply := []
  /-- answers to accesses of other modules (R409), latest last -/
  peerReplies : List InboundReply := []
  /-- accesses of other modules and of the host that wait for a die in reset (R447) -/
  outside : List OutsideAccess := []
  /-- engine accesses that do (R447) -/
  homeWaits : List HomeWait := []
  /-- module fault entries of 64 bytes that stand in device memory because the host window of their ring is lost (R453) -/
  kept : List Nat := []
  /-- the largest WTS of engine writes since it was last cleared, for the record of the command that made them (R119) -/
  engWts : Nat := 0
  /-- the same of writes to scene records (R296) -/
  sceneWts : Nat := 0
  /-- the model's own counter of free values (notes/assumptions/3.md) -/
  free : Nat := 0
  /-- the model's own plan of moves (notes/assumptions/1.md) -/
  agenda : List Move := []
  deriving DecidableEq, Repr

/-- The module right after power-on or module reset, before bring-up (R19, Table 1.5): every register at the value the manual gives
for reset, or at the value notes/assumptions/5.md names. -/
def State.reset : State := {}

end Sys2Proof.Machine
end

