-- ==== Sys2Proof/Machine/Maps.lean ====
section
/-!
DEFINITION. Reading and writing the sparse maps of the state, and memory as such a map: bytes, wider values in little-endian order
(00 R2), and the canonical form. Every write goes through `put`, which keeps the keys strictly rising and removes an entry whose
value is what an unlisted key reads as.
-/
namespace Sys2Proof.Machine

/-- What key `k` holds; `d` where it is not listed. -/
def look {β : Type} (m : Sparse β) (k : Nat) (d : β) : β :=
  match m with
  | [] => d
  | (i, v) :: r => if i = k then v else look r k d

/-- Writes one entry in its place. -/
def insertKey {β : Type} (m : Sparse β) (k : Nat) (v : β) : Sparse β :=
  match m with
  | [] => [(k, v)]
  | (i, w) :: r => if k < i then (k, v) :: (i, w) :: r else if k = i then (k, v) :: r else (i, w) :: insertKey r k v

/-- Key `k` becomes `v`, in a map whose unlisted keys read as `d`. -/
def put {β : Type} [DecidableEq β] (m : Sparse β) (k : Nat) (v d : β) : Sparse β :=
  if v = d then m.filter (fun e => decide (e.1 ≠ k)) else insertKey m k v

/-- Changes the value of one key. -/
def change {β : Type} [DecidableEq β] (m : Sparse β) (k : Nat) (d : β) (f : β → β) : Sparse β :=
  put m k (f (look m k d)) d

/-- The canonical form: keys strictly rising, no value equal to what an unlisted key reads as. -/
def Sparse.wf {β : Type} [DecidableEq β] (m : Sparse β) (d : β) : Bool :=
  match m with
  | [] => true
  | (i, v) :: r => decide (v ≠ d) && r.all (fun e => decide (i < e.1)) && Sparse.wf r d

/-- The canonical form of memory. -/
def Memory.wf (m : Memory) : Bool := Sparse.wf m Config.blankByte

/-- The byte at an address. -/
def memByte (m : Memory) (a : Nat) : Byte := look m a Config.blankByte

/-- Stores one byte. -/
def memPut (m : Memory) (a : Nat) (b : Byte) : Memory := put m a b Config.blankByte

/-- The `n` bytes from address `a` as a natural number, the lowest address least significant (R2). -/
def memRead (m : Memory) (a : Nat) : Nat → Nat
  | 0 => 0
  | n + 1 => (memByte m a).toNat + 256 * memRead m (a + 1) n

/-- Stores the low `n` bytes of `v` from address `a` upward (R2). -/
def memWrite (m : Memory) (a : Nat) : Nat → Nat → Memory
  | 0, _ => m
  | n + 1, v => memWrite (memPut m a (BitVec.ofNat 8 v)) (a + 1) n (v / 256)

/-- The bytes of a value, lowest first. -/
def leBytes : Nat → Nat → List Byte
  | 0, _ => []
  | n + 1, v => BitVec.ofNat 8 v :: leBytes n (v / 256)

/-- The entries of an interval of `n` keys from `a` on. -/
def rangeOf {β : Type} (m : Sparse β) (a n : Nat) : Sparse β := (m.dropWhile fun c => decide (c.1 < a)).takeWhile fun c => decide (c.1 < a + n)

/-- The `n` bytes from address `a` on. -/
def memBytes (m : Memory) (a n : Nat) : List Byte := let r := rangeOf m a n; (List.range n).map fun k => memByte r (a + k)

/-- A value from its bytes, lowest first. -/
def ofLeBytes : List Byte → Nat
  | [] => 0
  | b :: r => b.toNat + 256 * ofLeBytes r

/-- Bits [hi:lo] of a natural number. -/
def bits (v hi lo : Nat) : Nat := v / 2 ^ lo % 2 ^ (hi + 1 - lo)

/-- Bit n of a natural number. -/
def bitAt (v n : Nat) : Bool := v.testBit n

/-- `SignExt(v, n)` of R9. -/
def signExt (v n : Nat) : Int :=
  let u := v % 2 ^ n
  if 2 * u < 2 ^ n then u else (u : Int) - 2 ^ n

/-- The residue of an integer as a 32-bit value. -/
def toWord (x : Int) : Word := BitVec.ofInt 32 x

/-- `Sat(x, lo, hi)` of R9. -/
def sat (x lo hi : Int) : Int := if x < lo then lo else if x > hi then hi else x

/-- The lanes of a mask, in increasing order. -/
def lanesOf (m : Word) : List Nat := (List.range 32).filter (fun l => m.getLsbD l)

/-- The mask of a list of lanes. -/
def maskOf (ls : List Nat) : Word := ls.foldl (fun m l => m ||| BitVec.ofNat 32 (2 ^ l)) 0

/-- The lanes for which a test holds, as a mask. -/
def maskWhere (f : Nat → Bool) : Word := maskOf ((List.range 32).filter f)

/-- The least lane of a mask, 0 for none. -/
def lowestLane (m : Word) : Nat := (lanesOf m).headD 0

/-- Inserts by a key, before the first element whose key is greater. -/
def insertBy {α : Type} (key : α → Nat) (x : α) : List α → List α
  | [] => [x]
  | y :: r => if key x < key y then x :: y :: r else y :: insertBy key x r

/-- Sorts by a key, stably. -/
def sortBy {α : Type} (key : α → Nat) (l : List α) : List α := l.foldl (fun acc x => insertBy key x acc) []

/-- Replaces the first element a test picks. -/
def replaceFirst {α : Type} (p : α → Bool) (f : α → α) : List α → List α
  | [] => []
  | x :: r => if p x then f x :: r else x :: replaceFirst p f r

/-- Removes the first element a test picks. -/
def removeFirst {α : Type} (p : α → Bool) : List α → List α
  | [] => []
  | x :: r => if p x then r else x :: removeFirst p r

end Sys2Proof.Machine
end

