-- ==== Sys2Proof/Machine/Numbers.lean ====
section
/-!
DEFINITION. The number formats and their rounding (04 R65 to R73, R75, R76), exact dyadic values, and the special functions
(09 R174) by fixed-point evaluation with far more bits than the result has.
-/
namespace Sys2Proof.Machine

/-- A row of Table 4.2; `sat` marks e4m3, which has no infinities. -/
structure Fmt where
  e : Nat
  m : Nat
  bias : Nat
  sat : Bool := false
  deriving DecidableEq, Repr

def f64 : Fmt := { e := 11, m := 52, bias := 1023 }
def f32 : Fmt := { e := 8, m := 23, bias := 127 }
def f16 : Fmt := { e := 5, m := 10, bias := 15 }
def bf16 : Fmt := { e := 8, m := 7, bias := 127 }
def e5m2 : Fmt := { e := 5, m := 2, bias := 15 }
def e4m3 : Fmt := { e := 4, m := 3, bias := 7, sat := true }

/-- Rounding modes of R69. -/
inductive Mode where
  | rn | rz | rd | ru
  deriving DecidableEq, Repr

/-- The mode of a two-bit code (R69). -/
def modeOf (n : Nat) : Mode := match n % 4 with | 0 => .rn | 1 => .rz | 2 => .rd | _ => .ru

/-- A decoded value: (-1)^neg · m · 2^e when finite (R65). -/
inductive FVal where
  | nan
  | inf (neg : Bool)
  | fin (neg : Bool) (m : Nat) (e : Int)
  deriving DecidableEq, Repr

/-- An exact dyadic real: m · 2^e. -/
structure Dyadic where
  m : Int
  e : Int
  deriving DecidableEq, Repr

def Fmt.width (f : Fmt) : Nat := 1 + f.e + f.m

/-- The default NaN (Table 4.3). -/
def Fmt.nan (f : Fmt) : Nat := if f.sat then 0x7F else (2 ^ f.e - 1) * 2 ^ f.m + 2 ^ (f.m - 1)

/-- The encoding of an infinity; for e4m3 the largest finite value (Table 4.5). -/
def Fmt.inf (f : Fmt) (neg : Bool) : Nat :=
  (if f.sat then 0x7E else (2 ^ f.e - 1) * 2 ^ f.m) + (if neg then 2 ^ (f.e + f.m) else 0)

/-- Magnitude code of the largest finite value. -/
def Fmt.maxCode (f : Fmt) : Nat := if f.sat then 0x7E else (2 ^ f.e - 1) * 2 ^ f.m - 1

/-- R65. -/
def Fmt.decode (f : Fmt) (x : Nat) : FVal :=
  let neg := x.testBit (f.e + f.m)
  let ex := x / 2 ^ f.m % 2 ^ f.e
  let fr := x % 2 ^ f.m
  if ex = 2 ^ f.e - 1 && (!f.sat || fr = 7) then
    if f.sat || fr ≠ 0 then .nan else .inf neg
  else if ex = 0 then .fin neg fr (1 - (f.bias : Int) - f.m)
  else .fin neg (2 ^ f.m + fr) ((ex : Int) - f.bias - f.m)

/-- 2 to an integer power, as a numerator and a denominator. -/
def pow2 (e : Int) : Nat × Nat := if 0 ≤ e then (2 ^ e.toNat, 1) else (1, 2 ^ (-e).toNat)

/-- floor(log2(num / den)) of a positive rational. -/
def floorLog2 (num den : Nat) : Int :=
  let e : Int := (Nat.log2 num : Int) - Nat.log2 den
  let p := pow2 e
  if num * p.2 < den * p.1 then e - 1 else e

/-- Rounds a quotient to a natural number: the quotient, and whether the mode takes the next one. -/
def roundNat (mode : Mode) (neg : Bool) (num den : Nat) : Nat :=
  let q := num / den
  let r := num % den
  let up := match mode with
    | .rn => decide (2 * r > den) || (decide (2 * r = den) && q % 2 = 1)
    | .rz => false
    | .rd => neg && r ≠ 0
    | .ru => !neg && r ≠ 0
  if up then q + 1 else q

/-- Rounds (-1)^neg · num / den into a format (R69, Table 4.4); a zero keeps the sign given. -/
def Fmt.round (f : Fmt) (mode : Mode) (neg : Bool) (num den : Nat) : Nat :=
  let s := if neg then 2 ^ (f.e + f.m) else 0
  if num = 0 then s
  else
    let emin : Int := 1 - (f.bias : Int)
    let e := max emin (floorLog2 num den)
    let p := pow2 (e - f.m)
    let n := roundNat mode neg (num * p.2) (den * p.1)
    let code := (e - emin).toNat * 2 ^ f.m + n
    let code :=
      if code ≤ f.maxCode then code
      else if f.sat then 0x7E
      else
        let toInf := match mode with
          | .rn => true
          | .rz => false
          | .rd => neg
          | .ru => !neg
        if toInf then (2 ^ f.e - 1) * 2 ^ f.m else f.maxCode
    s + code

/-- Rounds an exact dyadic; `zneg` is the sign of an exact zero. -/
def Fmt.roundD (f : Fmt) (mode : Mode) (x : Dyadic) (zneg : Bool) : Nat :=
  if x.m = 0 then f.round mode zneg 0 1
  else
    let p := pow2 x.e
    f.round mode (decide (x.m < 0)) (x.m.natAbs * p.1) p.2

def Dyadic.add (a b : Dyadic) : Dyadic :=
  let e := min a.e b.e
  { m := a.m * 2 ^ (a.e - e).toNat + b.m * 2 ^ (b.e - e).toNat, e := e }

def Dyadic.neg (a : Dyadic) : Dyadic := { a with m := -a.m }
def Dyadic.mul (a b : Dyadic) : Dyadic := { m := a.m * b.m, e := a.e + b.e }
def Dyadic.lt (a b : Dyadic) : Bool := decide ((a.add b.neg).m < 0)
def Dyadic.le (a b : Dyadic) : Bool := !b.lt a
def Dyadic.abs (a : Dyadic) : Dyadic := { a with m := a.m.natAbs }
def Dyadic.zero : Dyadic := { m := 0, e := 0 }

/-- The dyadic of a finite value. -/
def dyadicOf (neg : Bool) (m : Nat) (e : Int) : Dyadic := { m := if neg then -(m : Int) else m, e := e }

/-- The dyadic of a decoded value, 0 where it is not finite. -/
def FVal.dy : FVal → Dyadic
  | .fin n m e => dyadicOf n m e
  | _ => .zero

def FVal.isNan : FVal → Bool
  | .nan => true
  | _ => false

def FVal.isInf : FVal → Bool
  | .inf _ => true
  | _ => false

def FVal.neg : FVal → Bool
  | .nan => false
  | .inf n => n
  | .fin n _ _ => n

def FVal.isZero : FVal → Bool
  | .fin _ m _ => m = 0
  | _ => false

/-- Product of two values, exact; the sign of a zero or infinite product is the exclusive-or of the signs (R170). -/
def FVal.mul (a b : FVal) : FVal :=
  if a.isNan || b.isNan then .nan
  else if a.isInf || b.isInf then
    if a.isZero || b.isZero then .nan else .inf (a.neg != b.neg)
  else match a, b with
    | .fin s m e, .fin t n g => .fin (s != t) (m * n) (e + g)
    | _, _ => .nan

/-- One rounding of an exact sum of terms (R69, R170): NaN and infinities first, then the zero rule: an exact zero is -0 when every
term is -0, or in RD when the terms are not all +0. -/
def sumRound (f : Fmt) (mode : Mode) (ts : List FVal) : Nat :=
  if ts.any FVal.isNan then f.nan
  else
    let pos := ts.any fun t => t.isInf && !t.neg
    let neg := ts.any fun t => t.isInf && t.neg
    if pos && neg then f.nan
    else if pos || neg then f.inf neg
    else
      let sum := ts.foldl (fun a t => a.add t.dy) Dyadic.zero
      let allNeg := ts.all fun t => t.neg
      let allPos := ts.all fun t => !t.neg
      f.roundD mode sum (allNeg || (mode = .rd && !allPos))

def fNeg : FVal → FVal
  | .nan => .nan
  | .inf n => .inf (!n)
  | .fin n m e => .fin (!n) m e

def fAdd (f : Fmt) (mode : Mode) (a b : Nat) : Nat := sumRound f mode [f.decode a, f.decode b]
def fSub (f : Fmt) (mode : Mode) (a b : Nat) : Nat := sumRound f mode [f.decode a, fNeg (f.decode b)]

def fMul (f : Fmt) (mode : Mode) (a b : Nat) : Nat :=
  match (f.decode a).mul (f.decode b) with
  | .nan => f.nan
  | .inf n => f.inf n
  | .fin n m e => let p := pow2 e; f.round mode n (m * p.1) p.2

def fFma (f : Fmt) (a b c : Nat) : Nat := sumRound f .rn [(f.decode a).mul (f.decode b), f.decode c]

/-- The order of R171 as an integer key: -0 below +0. -/
def orderKey (f : Fmt) (x : Nat) : Int :=
  let s := 2 ^ (f.e + f.m)
  if x.testBit (f.e + f.m) then -((x % s : Nat) : Int) - 1 else (x % s : Nat)

/-- R171: operation 0 min, 1 max, 2 minnum, 3 maxnum. -/
def fMinMax (f : Fmt) (op a b : Nat) : Nat :=
  let na := (f.decode a).isNan
  let nb := (f.decode b).isNan
  if na && nb then f.nan
  else if na then (if 2 ≤ op then b else f.nan)
  else if nb then (if 2 ≤ op then a else f.nan)
  else if op % 2 = 0 then (if orderKey f b < orderKey f a then b else a)
  else (if orderKey f a < orderKey f b then b else a)

/-- R173 and Table 7.3. -/
def fCompare (f : Fmt) (cond a b : Nat) : Bool :=
  let x := f.decode a
  let y := f.decode b
  let un := x.isNan || y.isNan
  let z (v : Nat) (d : FVal) : Int := if d.isZero then 0 else orderKey f v
  let ka := z a x
  let kb := z b y
  match cond with
  | 0 => !un && ka = kb
  | 1 => un || ka ≠ kb
  | 2 => !un && ka < kb
  | 3 => !un && ka ≤ kb
  | 4 => !un && kb < ka
  | 5 => !un && kb ≤ ka
  | 6 => !un
  | _ => un

/-- Rounds to an integral value (R175): 0 floor, 1 ceil, 2 trunc, 3 rint. -/
def fIntegral (f : Fmt) (op x : Nat) : Nat :=
  match f.decode x with
  | .nan => f.nan
  | .inf n => f.inf n
  | .fin n m e =>
    let mode := match op with | 0 => Mode.rd | 1 => .ru | 2 => .rz | _ => .rn
    let p := pow2 e
    f.round .rn n (roundNat mode n (m * p.1) p.2) 1

/-- Range of an integer type of Table 7.2. -/
def intRange (signed : Bool) (w : Nat) : Int × Int := if signed then (-2 ^ (w - 1), 2 ^ (w - 1) - 1) else (0, 2 ^ w - 1)

/-- The float format of a type code of Table 7.2. -/
def floatType (t : Nat) : Option Fmt :=
  match t with | 8 => some f64 | 9 => some f32 | 10 => some f16 | 11 => some bf16 | 12 => some e5m2 | 13 => some e4m3 | _ => none

/-- Width and signedness of an integer type code of Table 7.2. -/
def intType (t : Nat) : Nat × Bool := (8 * 2 ^ (t % 4), decide (t < 4))

/-- R70, Table 4.5: the result as bits of the target type, an integer in two's complement. -/
def convert (src tgt : Nat) (mode : Mode) (x : Nat) : Nat :=
  match floatType src, floatType tgt with
  | some f, some g =>
    match f.decode (x % 2 ^ f.width) with
    | .nan => g.nan
    | .inf n => g.inf n
    | .fin n m e => let p := pow2 e; g.round mode n (m * p.1) p.2
  | some f, none =>
    let (w, sg) := intType tgt
    let (lo, hi) := intRange sg w
    let v : Int := match f.decode (x % 2 ^ f.width) with
      | .nan => 0
      | .inf n => if n then lo else hi
      | .fin n m e =>
        let p := pow2 e
        let k : Int := roundNat mode n (m * p.1) p.2
        sat (if n then -k else k) lo hi
    (v % 2 ^ w).toNat
  | none, some g =>
    let (w, sg) := intType src
    let v : Int := if sg then signExt x w else (x % 2 ^ w : Nat)
    g.round mode (decide (v < 0)) v.natAbs 1
  | none, none =>
    let (w, sg) := intType src
    let (w', sg') := intType tgt
    let v : Int := if sg then signExt x w else (x % 2 ^ w : Nat)
    let (lo, hi) := intRange sg' w'
    (sat v lo hi % 2 ^ w').toNat

/-- Integer square root, one bit a step. -/
def isqrtFrom : Nat → Nat → Nat → Nat
  | 0, _, r => r
  | k + 1, n, r => let c := r + 2 ^ k; isqrtFrom k n (if c * c ≤ n then c else r)

def isqrt (n : Nat) : Nat := isqrtFrom (Nat.log2 n / 2 + 1) n 0

/-- Bits of fixed-point fractions in the special functions. -/
def fxBits : Nat := 512

/-- Sum of a series of fixed-point terms: term k+1 from term k, alternating or not. -/
def fxSeries (next : Nat → Int → Int) : Nat → Nat → Int → Int → Int
  | 0, _, _, acc => acc
  | fuel + 1, k, t, acc => if t = 0 then acc else fxSeries next fuel (k + 1) (next k t) (acc + t)

/-- Sum over k of (-1)^k · x^(2k+1) / (2k+1), or without signs, for x = 1 / n in fixed point: arctan or artanh of 1 / n. -/
def fxRecipSeries (n : Nat) (alternate : Bool) : Nat → Nat → Int → Int → Int
  | 0, _, _, acc => acc
  | fuel + 1, k, p, acc =>
    if p = 0 then acc
    else
      let t := p / (2 * k + 1)
      fxRecipSeries n alternate fuel (k + 1) (p / (n * n)) (if alternate && k % 2 = 1 then acc - t else acc + t)

def fxOne : Int := 2 ^ fxBits

/-- π by Machin's formula. -/
def fxPi : Int :=
  4 * (4 * fxRecipSeries 5 true 300 0 (fxOne / 5) 0 - fxRecipSeries 239 true 300 0 (fxOne / 239) 0)

/-- ln 2 = 2 artanh(1/3). -/
def fxLn2 : Int := 2 * fxRecipSeries 3 false 300 0 (fxOne / 3) 0

/-- e^r for a fixed-point r of small magnitude. -/
def fxExp (r : Int) : Int := fxSeries (fun k t => t * r / ((k : Int) + 1) / fxOne) 200 0 fxOne 0

/-- sin r for |r| ≤ π/4. -/
def fxSin (r : Int) : Int :=
  fxSeries (fun k t => -(t * r / fxOne * r / fxOne) / ((2 * (k : Int) + 2) * (2 * k + 3))) 120 0 r 0

/-- cos r for |r| ≤ π/4. -/
def fxCos (r : Int) : Int :=
  fxSeries (fun k t => -(t * r / fxOne * r / fxOne) / ((2 * (k : Int) + 1) * (2 * k + 2))) 120 0 fxOne 0

/-- ln y for 1 ≤ y < 2: 2 artanh((y - 1) / (y + 1)). -/
def fxLn (y : Int) : Int :=
  let z := (y - fxOne) * fxOne / (y + fxOne)
  let zz := z * z / fxOne
  let rec go : Nat → Nat → Int → Int → Int
    | 0, _, _, acc => acc
    | fuel + 1, k, p, acc => if p = 0 then acc else go fuel (k + 1) (p * zz / fxOne) (acc + p / (2 * k + 1))
  2 * go 300 0 z 0

/-- A finite f32 as a fixed-point integer, exact for |x| < 2^128 (149 < fxBits). -/
def fxOf (x : Dyadic) : Int := x.m * 2 ^ ((fxBits : Int) + x.e).toNat

/-- Rounds a fixed-point value with extra binary exponent k. -/
def fxRound (v : Int) (k : Int) : Nat := f32.roundD .rn { m := v, e := k - fxBits } false

/-- e^r · 2^n for x = n ln 2 + r. -/
def fxExp2Int (x : Int) : Int × Int :=
  let n := x / fxLn2
  (fxExp (x - n * fxLn2), n)

/-- Table 9.4 and Table 9.5. -/
def sfuVal (op x : Nat) : Nat :=
  let one := 0x3F800000
  match f32.decode x with
  | .nan => f32.nan
  | .inf n =>
    match op with
    | 0 => if n then 0x80000000 else 0
    | 1 => if n then f32.nan else 0
    | 2 => if n then f32.nan else f32.inf false
    | 3 => if n then 0 else f32.inf false
    | 4 => if n then f32.nan else f32.inf false
    | 7 => if n then 0xBF800000 else one
    | _ => f32.nan
  | .fin n m e =>
    if m = 0 then
      match op with
      | 0 => f32.inf n
      | 1 => f32.inf n
      | 3 => one
      | 4 => f32.inf true
      | 6 => one
      | _ => if n then 0x80000000 else 0
    else
      let p := pow2 e
      let num := m * p.1
      let den := p.2
      match op with
      | 0 => f32.round .rn n den num
      | 1 =>
        if n then f32.nan
        else
          let y := den * 4 ^ 300 / num
          let r := isqrt y
          if r * r * num = den * 4 ^ 300 then f32.round .rn false r (2 ^ 300) else f32.round .rn false (2 * r + 1) (2 ^ 301)
      | 2 =>
        if n then f32.nan
        else
          let y := num * 4 ^ 300 / den
          let r := isqrt y
          if r * r * den = num * 4 ^ 300 then f32.round .rn false r (2 ^ 300) else f32.round .rn false (2 * r + 1) (2 ^ 301)
      | 3 =>
        let d := dyadicOf n m e
        if 0 ≤ e && 4096 < num then (if n then 0 else f32.inf false)
        else
          let fx := fxOf d
          let k := fx / fxOne
          let fr := fx - k * fxOne
          if fr = 0 then f32.roundD .rn { m := 1, e := k } false
          else if k < -200 then 0
          else if 200 < k then f32.inf false
          else fxRound (fxExp (fr * fxLn2 / fxOne)) k
      | 4 =>
        if n then f32.nan
        else
          let g := floorLog2 num den
          let y := if 0 ≤ g then (num : Int) * fxOne / (den * 2 ^ g.toNat) else (num : Int) * 2 ^ (-g).toNat * fxOne / den
          if y = fxOne then f32.roundD .rn { m := g, e := 0 } false
          else fxRound (g * fxOne + fxLn y * fxOne / fxLn2) 0
      | 7 =>
        if 10 * den ≤ num then (if n then 0xBF800000 else one)
        else
          let x2 := 2 * fxOf { m := m, e := e }
          let (r, k) := fxExp2Int x2
          let ex := r * 2 ^ k.toNat
          let t := (ex - fxOne) * fxOne / (ex + fxOne)
          fxRound (if n then -t else t) 0
      | _ =>
        let half := fxPi / 2
        let v := fxOf (dyadicOf n m e)
        let q := (2 * v + half) / (2 * half)
        let r := v - q * half
        let turn := ((if op = 6 then q + 1 else q) % 4).toNat
        match turn with
        | 0 => fxRound (fxSin r) 0
        | 1 => fxRound (fxCos r) 0
        | 2 => fxRound (-fxSin r) 0
        | _ => fxRound (-fxCos r) 0

/-- Magnitudes of the K16 codebook as f16 bits (Table 4.7). -/
def k16Mag : List Nat := [0x2964, 0x3013, 0x32E9, 0x34F9, 0x36AB, 0x3856, 0x39A9, 0x3C00]

/-- UE4M4 (R73). -/
def ue4m4 (b : Nat) : Dyadic :=
  let e := b / 16 % 16
  let f := b % 16
  if e = 0 then { m := f, e := -10 } else { m := 16 + f, e := (e : Int) - 11 }

/-- A K16 code's value (R71). -/
def k16Code (c : Nat) : Dyadic :=
  let v := (f16.decode (k16Mag.getD (c % 8) 0)).dy
  if c.testBit 3 then v.neg else v

/-- The finite value of an EB16 bound; none when unbounded (R75). -/
def eb16Val (b : Nat) : Option Dyadic :=
  let e := b / 256 % 256
  let f := b % 256
  if e = 255 then none
  else if e = 0 then some { m := f, e := -134 }
  else some { m := 256 + f, e := (e : Int) - 135 }

/-- RoundUp(x, eb16) for a non-negative exact x (R76): 0xFF00 above the largest finite bound. -/
def eb16Up (x : Dyadic) : Nat :=
  if x.m ≤ 0 then 0
  else
    let p := pow2 x.e
    let num := x.m.natAbs * p.1
    let e := max (-126) (floorLog2 num p.2)
    let q := pow2 (e - 8)
    let n := roundNat .ru false (num * q.2) (p.2 * q.1)
    let code := (e + 126).toNat * 256 + n
    if code ≤ 0xFEFF then code else 0xFF00

/-- A bound as the hardware writes it: every unbounded code is 0xFF00 (R75). -/
def eb16Norm (b : Nat) : Nat := if b / 256 % 256 = 255 then 0xFF00 else b

/-- Sum of a bound and a non-negative real (R76). -/
def eb16AddReal (b : Nat) (x : Dyadic) : Nat :=
  match eb16Val b with
  | none => 0xFF00
  | some v => eb16Up (v.add x)

/-- Sum of two bounds. -/
def eb16Add (a b : Nat) : Nat :=
  match eb16Val b with
  | none => 0xFF00
  | some v => eb16AddReal a v

/-- Product of a bound by the magnitude of a scale. -/
def eb16Scale (a : Nat) (s : Dyadic) : Nat :=
  match eb16Val a with
  | none => if s.m = 0 then 0 else 0xFF00
  | some v => eb16Up (v.mul s.abs)

/-- Maximum of two bounds; an unbounded one is the maximum. -/
def eb16Max (a b : Nat) : Nat :=
  match eb16Val a, eb16Val b with
  | some _, some _ => max a b
  | _, _ => 0xFF00

/-- ½ Ulp(x, f32) of R9 for an exact x. -/
def halfUlp32 (x : Dyadic) : Dyadic :=
  if x.m = 0 then { m := 1, e := -150 }
  else
    let p := pow2 x.e
    let e := floorLog2 (x.m.natAbs * p.1) p.2
    { m := 1, e := min 127 (max (-126) e) - 24 }

end Sys2Proof.Machine
end

