-- ==== Sys2Proof/Machine/Flags.lean ====
section
/-!
DEFINITION. The integer operations that lane words and uniform words share (09 R163 to R169, 11 R207), with the carry, borrow and
compare results that go to a predicate or a condition register.
-/
namespace Sys2Proof.Machine

/-- Add and subtract at a width (R163): the result, and the carry or borrow of the forms F = 8 + n. -/
def addSub (w : Nat) (sub : Bool) (f a b : Nat) : Nat × Bool :=
  let ia := signExt a w
  let ib := signExt b w
  let sn : Int := if sub then (a : Int) - b else (a : Int) + b
  let si := if sub then ia - ib else ia + ib
  let wrap := (sn % 2 ^ w).toNat
  match f with
  | 1 => ((sat si (-2 ^ (w - 1)) (2 ^ (w - 1) - 1) % 2 ^ w).toNat, false)
  | 2 => ((sat sn 0 (2 ^ w - 1)).toNat, false)
  | _ => (wrap, if sub then decide (sn < 0) else decide ((2 : Int) ^ w ≤ sn))

/-- The predicate or condition register a carry form names: F[2:0] of F = 8 + n; none otherwise. -/
def carryDest (f : Nat) : Option Nat := if 8 ≤ f then some (f % 8) else none

/-- `imul` (R164): the 64-bit product, signed in forms 1 and 3. -/
def product (f : Nat) (a b : Word) : Nat :=
  if f = 1 || f = 3 then ((signExt a.toNat 32 * signExt b.toNat 32) % 2 ^ 64).toNat else a.toNat * b.toNat

/-- What `imul` writes, one register or two. -/
def mulOut (f : Nat) (a b : Word) : List Word :=
  let p := product f a b
  let lo := BitVec.ofNat 32 p
  let hi := BitVec.ofNat 32 (p / 2 ^ 32)
  match f with
  | 0 => [lo]
  | 1 => [hi]
  | 2 => [hi]
  | _ => [lo, hi]

/-- `imnmx` (R166): 0 and 1 signed, 2 and 3 natural; even minimum. -/
def minMax (f : Nat) (a b : Word) : Word :=
  let less := if f < 2 then a.slt b else a.ult b
  if f % 2 = 0 then (if less then a else b) else if less then b else a

/-- `logic` (R166). -/
def logicOp (f : Nat) (a b : Word) : Word :=
  match f with
  | 0 => a &&& b
  | 1 => a ||| b
  | 2 => a ^^^ b
  | 3 => a &&& ~~~b
  | 4 => a ||| ~~~b
  | _ => ~~~(a ^^^ b)

/-- `shift` and `shifti` (R167) of a value by an amount; `hi` is the upper register of the funnel. -/
def shiftOp (f : Nat) (a : Word) (n : Nat) (hi : Word) : Word :=
  let k := n % 32
  match f with
  | 0 => a <<< min n 32
  | 1 => a >>> min n 32
  | 2 => a.sshiftRight (min n 32)
  | 3 => a.rotateLeft k
  | 4 => a.rotateRight k
  | _ => BitVec.ofNat 32 ((a.toNat + 2 ^ 32 * hi.toNat) / 2 ^ k)

/-- `bfe` (R168): the position and length register is `b`. -/
def extractField (signed : Bool) (a b : Word) : Word :=
  let pos := b.toNat % 256
  let len := min (bits b.toNat 15 8) 32
  let x : Int := if signed then signExt a.toNat 32 else a.toNat
  let fld := ((x / 2 ^ pos) % 2 ^ len).toNat
  if signed && 0 < len then toWord (signExt fld len) else BitVec.ofNat 32 fld

/-- `bfi` (R168). -/
def insertField (a b c : Word) : Word :=
  let pos := c.toNat % 256
  let len := min (bits c.toNat 15 8) 32
  BitVec.ofNat 32 ((List.range 32).foldl (fun acc i =>
    acc + (if (if pos ≤ i && i < pos + len then a.getLsbD (i - pos) else b.getLsbD i) then 2 ^ i else 0)) 0)

/-- `bitc` (R168). -/
def bitCount (f : Nat) (a : Word) : Word :=
  let ones := (List.range 32).filter fun i => a.getLsbD i
  match f with
  | 0 => BitVec.ofNat 32 ones.length
  | 1 => BitVec.ofNat 32 (match ones.getLast? with | some i => 31 - i | none => 32)
  | 2 => BitVec.ofNat 32 (ones.headD 32)
  | 3 => a.reverse
  | _ => BitVec.ofNat 32 (match ones.head? with | some i => i + 1 | none => 0)

/-- Integer compare (R169, Table 7.3). -/
def intCompare (cond : Nat) (natural : Bool) (a b : Word) : Bool :=
  let less := if natural then a.ult b else a.slt b
  match cond with
  | 0 => a = b
  | 1 => a ≠ b
  | 2 => less
  | 3 => less || a = b
  | 4 => !(less || a = b)
  | _ => !less

/-- `dp4` (R165). -/
def dotFour (a b c : Word) : Word :=
  toWord ((List.range 4).foldl (fun s i => s + signExt (bits a.toNat (8 * i + 7) (8 * i)) 8 * signExt (bits b.toNat (8 * i + 7) (8 * i)) 8)
    (signExt c.toNat 32))

/-- `sad` (R165). -/
def absDiffAdd (a b c : Word) : Word := (if a.ult b then b - a else a - b) + c

/-- `movi` and `movhi` (R179). -/
def signImm (i : BitVec 18) : Word := i.signExtend 32
def highImm (i : BitVec 18) (old : Word) : Word := i ++ old.extractLsb' 0 14

/-- The operation of an atomic (R191) on the old value and the data. -/
def atomicOp (f : Nat) (old b : Word) : Word :=
  match f with
  | 0 => old + b
  | 1 => minMax 0 old b
  | 2 => minMax 1 old b
  | 3 => minMax 2 old b
  | 4 => minMax 3 old b
  | 5 => old &&& b
  | 6 => old ||| b
  | 7 => old ^^^ b
  | 8 => b
  | _ => BitVec.ofNat 32 (fAdd f32 .rn old.toNat b.toNat)

/-- The value a load of a size code gives each register (R137, R189). -/
def loadRegs (f d : Nat) : List Word :=
  match f with
  | 1 => [toWord (signExt d 8)]
  | 3 => [toWord (signExt d 16)]
  | _ => (List.range (max 1 ((match f with | 0 => 1 | 2 => 2 | 4 => 4 | 5 => 8 | 6 => 16 | _ => 32) / 4))).map fun i =>
      BitVec.ofNat 32 (d / 2 ^ (32 * i))

end Sys2Proof.Machine
end

