-- ==== Sys2Proof/WellFormed.lean ====
section
/-!
DEFINITION. Which words are instructions (07 R145), as a check on the decoded fields: the minor and function fields, the
register fields marked pair, quad or octet, and the hold field (R138). Reserved bits are checked by Decode.lean. The checks of
the last part are the ranges of the machine's own operations.
-/
namespace Sys2Proof.WellFormed

/-- A field marked pair holds an even number (R131). -/
def evenReg {w : Nat} (r : BitVec w) : Bool := r.toNat % 2 == 0

/-- A field marked quad holds a multiple of 4 (R131). -/
def quadReg {w : Nat} (r : BitVec w) : Bool := r.toNat % 4 == 0

/-- A `cvt` type code of 64 bits: i64, n64 or f64 (Table 7.2). -/
def wideType (t : BitVec 4) : Bool := t.toNat == 3 || t.toNat == 7 || t.toNat == 8

/-- The data field of an LM word for its size code (R131, R137). -/
def alignedData (d : BitVec 6) (f : BitVec 4) : Bool :=
  if f.toNat == 5 then d.toNat % 2 == 0
  else if f.toNat == 6 then d.toNat % 4 == 0
  else if f.toNat == 7 then d.toNat % 8 == 0
  else true

/-- The size codes assigned to stores (R137). -/
def storeSize (f : BitVec 4) : Bool := f.toNat == 0 || f.toNat == 2 || (4 ≤ f.toNat && f.toNat ≤ 7)

/-- The forms of `mov` (Table 10.1) and the holds each permits (R138). -/
def movOk (d a : BitVec 6) (f : BitVec 4) (h : BitVec 2) : Bool :=
  if f.toNat == 0 then h.toNat != 2
  else if f.toNat == 1 then a.toNat < 8 && h.toNat != 1 && h.toNat != 2
  else if f.toNat == 2 then d.toNat < 8 && h.toNat ≤ 1
  else false

/-- The kinds and ids of repair records that Table 26.8 gives, boot steps apart. -/
def partExists (x : Nat × Nat) : Bool :=
  match x.1 with
  | 1 => decide (x.2 < 768)
  | 2 => decide (x.2 < 128)
  | 3 => decide (x.2 < 2048)
  | 4 => decide (x.2 < 64)
  | 5 => decide (x.2 / 16 < 20) && decide (x.2 % 16 < 8)
  | 6 => decide (x.2 < 40960)
  | 7 => decide (x.2 < 96)
  | 8 => decide (x.2 < 24)
  | 9 => decide (x.2 < 16)
  | 10 => decide (x.2 < 13)
  | 11 => decide (x.2 < 1037)
  | _ => false

end Sys2Proof.WellFormed

namespace Sys2Proof
open WellFormed

/-- The word is an assigned encoding (R145), or the operation's arguments lie in their ranges. -/
def Instr.wf : Instr → Bool
  | .iadd _ _ _ _ f _ => (f.toNat ≤ 2 || 8 ≤ f.toNat)
  | .isub _ _ _ _ f _ => (f.toNat ≤ 2 || 8 ≤ f.toNat)
  | .imul _ d _ _ f _ => f.toNat ≤ 4 && (f.toNat < 3 || evenReg d)
  | .imad _ _ _ _ _ => true
  | .imnmx _ _ _ _ f _ => f.toNat ≤ 3
  | .logic _ _ _ _ f _ => f.toNat ≤ 5
  | .shift _ _ a _ f _ => f.toNat ≤ 5 && (f.toNat != 5 || evenReg a)
  | .bfe _ _ _ _ f _ => f.toNat ≤ 1
  | .bfi _ _ _ _ _ => true
  | .bitc _ _ _ f h => f.toNat ≤ 4 && h.toNat != 2
  | .isetp _ n _ _ _ _ h => n.toNat ≤ 5 && h.toNat != 3
  | .iaddi _ _ _ _ => true
  | .andi _ _ _ _ => true
  | .ori _ _ _ _ => true
  | .xori _ _ _ _ => true
  | .shifti _ _ _ f _ => f.toNat ≤ 4
  | .dp4 _ _ _ _ _ => true
  | .sad _ _ _ _ _ => true
  | .iadd64 _ d a b f _ => (f.toNat ≤ 2 || 8 ≤ f.toNat) && evenReg d && evenReg a && evenReg b
  | .fadd _ d a b f _ => f.toNat < 12 || (evenReg d && evenReg a && evenReg b)
  | .fsub _ d a b f _ => f.toNat < 12 || (evenReg d && evenReg a && evenReg b)
  | .fmul _ d a b f _ => f.toNat < 12 || (evenReg d && evenReg a && evenReg b)
  | .ffma _ _ _ _ _ => true
  | .hfma2 _ _ _ _ _ => true
  | .dfma _ d a b c => evenReg d && evenReg a && evenReg b && evenReg c
  | .bfma2 _ _ _ _ _ => true
  | .fmnmx _ d a b f _ => f.toNat < 12 || (evenReg d && evenReg a && evenReg b)
  | .fsetp _ _ _ a b t h => h.toNat != 3 && (t.toNat == 0 || (t.toNat == 3 && evenReg a && evenReg b))
  | .sfu _ _ _ f h => f.toNat ≤ 7 && h.toNat != 2
  | .fround _ d a f h => h.toNat != 2 && (f.toNat < 12 || (evenReg d && evenReg a))
  | .cvt _ d a s _ t h => s.toNat ≤ 13 && t.toNat ≤ 13 && h.toNat != 2 && (!wideType s || evenReg a) && (!wideType t || evenReg d)
  | .fdot2 _ _ _ _ _ => true
  | .fclamp _ _ _ _ _ => true
  | .mov _ d a f h => movOk d a f h
  | .movi _ _ _ => true
  | .movhi _ _ _ => true
  | .sel _ _ _ _ _ => true
  | .xlane _ _ _ _ _ _ => true
  | .vote _ _ _ f h => f.toNat ≤ 3 && h.toNat != 1 && h.toNat != 2
  | .redux _ _ f h => f.toNat ≤ 7 && h.toNat ≤ 1
  | .qpop _ _ h => h.toNat == 0 || h.toNat == 3
  | .qpush _ _ h => h.toNat ≤ 1
  | .ldx _ _ _ _ => true
  | .stx _ _ _ _ => true
  | .xset _ _ _ f h => f.toNat ≤ 3 && h.toNat ≤ 1
  | .rdid _ _ f h => f.toNat ≤ 8 && (h.toNat == 0 || h.toNat == 3)
  | .ld _ d a f _ => f.toNat ≤ 7 && alignedData d f && evenReg a
  | .st _ d a f _ => storeSize f && alignedData d f && evenReg a
  | .atom _ _ a _ f _ => f.toNat ≤ 9 && evenReg a
  | .cas _ _ a _ _ => evenReg a
  | .red _ a _ f h => (f.toNat ≤ 7 || f.toNat == 9) && evenReg a && h.toNat != 3
  | .lds _ d _ f _ => f.toNat ≤ 7 && alignedData d f
  | .sts _ d _ f _ => storeSize f && alignedData d f
  | .atoms _ _ _ _ f _ => f.toNat ≤ 9
  | .pref _ a f _ => f.toNat ≤ 1 && evenReg a
  | .ldlod _ _ _ _ f => f.toNat ≤ 3
  | .sample _ _ _ _ f => f.toNat ≤ 3
  | .bdiv _ _ _ _ _ => true
  | .join _ _ => true
  | .strike _ _ _ => true
  | .lexit _ _ => true
  | .callr _ _ _ _ _ => true
  | .lret _ => true
  | .sadd _ _ _ _ f => f.toNat ≤ 2 || (8 ≤ f.toNat && f.toNat ≤ 15)
  | .ssub _ _ _ _ f => f.toNat ≤ 2 || (8 ≤ f.toNat && f.toNat ≤ 15)
  | .smul _ _ _ _ f => f.toNat ≤ 2
  | .slogic _ _ _ _ f => f.toNat ≤ 5
  | .sshift _ _ _ _ f => f.toNat ≤ 4
  | .smnmx _ _ _ _ f => f.toNat ≤ 3
  | .sbitc _ _ _ f => f.toNat ≤ 4
  | .scmp _ n _ _ _ _ => n.toNat ≤ 5
  | .saddi _ _ _ _ => true
  | .sandi _ _ _ _ => true
  | .sori _ _ _ _ => true
  | .sxori _ _ _ _ => true
  | .sshifti _ _ _ f _ => f.toNat ≤ 4
  | .smovi _ _ _ => true
  | .smovhi _ _ _ => true
  | .sld _ d a z _ => evenReg a && (z.toNat != 1 || evenReg d)
  | .sst _ d a z _ => evenReg a && (z.toNat != 1 || evenReg d)
  | .satom _ _ a _ f => f.toNat ≤ 9 && evenReg a
  | .ssel _ _ _ _ _ => true
  | .sbfe _ _ _ _ f => f.toNat ≤ 1
  | .spush _ _ => true
  | .spop _ _ => true
  | .rdsys _ _ _ => true
  | .wrsys _ _ _ => true
  | .rdcnt _ d n => evenReg d && (n.toNat ≤ 3 || (0x400 ≤ n.toNat && n.toNat ≤ 0x7FF))
  | .bra _ _ _ => true
  | .call _ _ _ => true
  | .jmpr _ a _ => evenReg a
  | .jmprL _ a _ => evenReg a
  | .ret _ a _ => evenReg a
  | .loop _ _ _ => true
  | .exit _ _ => true
  | .spawn _ _ a _ => evenReg a
  | .yield _ => true
  | .nop _ => true
  | .trap _ _ => true
  | .brk _ _ => true
  | .tbarMark _ _ => true
  | .tbarHold _ _ => true
  | .tbarMeet _ _ => true
  | .tbarEnrol _ _ => true
  | .cbarMark _ _ => true
  | .cbarHold _ _ => true
  | .cbarMeet _ _ => true
  | .fence _ s => s.toNat ≤ 4
  | .xfence _ _ _ s => s.toNat ≤ 4
  | .publish _ a => evenReg a
  | .evpop _ d _ => quadReg d
  | .evwait _ => true
  | .ringwait _ _ _ _ => true
  | .ringpost _ _ _ _ => true
  | .gang _ _ => true
  | .obres _ _ a b => evenReg a && evenReg b
  | .obrel _ _ => true
  | .mma _ _ _ _ _ _ => true
  | .mchain _ _ _ _ _ _ => true
  | .mclr _ _ _ _ => true
  | .mld _ _ _ y v _ _ => y.toNat ≤ 2 && evenReg v
  | .mst _ _ _ y v _ _ => y.toNat ≤ 4 && evenReg v
  | .mdrain _ _ y _ _ _ => y.toNat ≤ 2
  | .mbound _ _ _ _ _ => true
  | .mwait _ _ => true
  | .copyG2s _ d _ _ r => r.toNat == 1 || d.toNat == 0
  | .copyS2g _ d _ _ r => r.toNat == 1 || d.toNat == 0
  | .copyG2ob _ d _ _ r => r.toNat == 1 || d.toNat == 0
  | .copyS2ob _ d _ _ r => r.toNat == 1 || d.toNat == 0
  | .copyG2st _ d _ _ r => r.toNat == 1 || d.toNat == 0
  | .copyS2gt _ d _ _ r => r.toNat == 1 || d.toNat == 0
  | .copyG2obt _ d _ _ r => r.toNat == 1 || d.toNat == 0
  | .copyK16 _ d _ _ r => r.toNat == 1 || d.toNat == 0
  | .copyG2g _ d _ _ r => r.toNat == 1 || d.toNat == 0
  | .gathB32 _ d _ _ r => r.toNat == 1 || d.toNat == 0
  | .gathB64 _ d _ _ r => r.toNat == 1 || d.toNat == 0
  | .gathB128 _ d _ _ r => r.toNat == 1 || d.toNat == 0
  | .travCast _ d _ _ r => r.toNat == 1 || d.toNat == 0
  | .travOccl _ d _ _ r => r.toNat == 1 || d.toNat == 0
  | .travShadow _ d _ _ r => r.toNat == 1 || d.toNat == 0
  | .travResume _ d _ _ r => r.toNat == 1 || d.toNat == 0
  | .travQuery _ d _ _ r => r.toNat == 1 || d.toNat == 0
  | .buildMorton _ d _ _ r => r.toNat == 1 || d.toNat == 0
  | .buildSort _ d _ _ r => r.toNat == 1 || d.toNat == 0
  | .buildEmit _ d _ _ r => r.toNat == 1 || d.toNat == 0
  | .buildRefit _ d _ _ r => r.toNat == 1 || d.toNat == 0
  | .buildUpdate _ d _ _ r => r.toNat == 1 || d.toNat == 0
  | .buildGenpub _ d _ _ r => r.toNat == 1 || d.toNat == 0
  | .buildGenret _ d _ _ r => r.toNat == 1 || d.toNat == 0
  | .buildCompact _ d _ _ r => r.toNat == 1 || d.toNat == 0
  | .strmIsect _ d _ _ r => r.toNat == 1 || d.toNat == 0
  | .strmCisect _ d _ _ r => r.toNat == 1 || d.toNat == 0
  | .strmMerge _ d _ _ r => r.toNat == 1 || d.toNat == 0
  | .strmDiff _ d _ _ r => r.toNat == 1 || d.toNat == 0
  | .collAllred _ d _ _ r => r.toNat == 1 || d.toNat == 0
  | .collRedscat _ d _ _ r => r.toNat == 1 || d.toNat == 0
  | .collAllgath _ d _ _ r => r.toNat == 1 || d.toNat == 0
  | .collBcast _ d _ _ r => r.toNat == 1 || d.toNat == 0
  | .lodBind _ d _ _ r => r.toNat == 1 || d.toNat == 0
  | .lodMrlset _ d _ _ r => r.toNat == 1 || d.toNat == 0
  | .lodMrlrd _ d _ _ r => r.toNat == 1 || d.toNat == 0
  | .lodFbpop _ d _ _ r => r.toNat == 1 || d.toNat == 0
  | .lodFbstat _ d _ _ r => r.toNat == 1 || d.toNat == 0
  | .tlbinv _ d _ _ r => r.toNat == 1 || d.toNat == 0
  | .harvest _ d _ _ r => r.toNat == 1 || d.toNat == 0
  | .rmapinv _ d _ _ r => r.toNat == 1 || d.toNat == 0
  | .profload _ d _ _ r => r.toNat == 1 || d.toNat == 0
  | .ctxsave _ d _ _ r => r.toNat == 1 || d.toNat == 0
  | .ctxrestore _ d _ _ r => r.toNat == 1 || d.toNat == 0
  | .ensetAllowance _ d _ _ r => r.toNat == 1 || d.toNat == 0
  | .ensetClearContext _ d _ _ r => r.toNat == 1 || d.toNat == 0
  | .trcctl _ d _ _ r => r.toNat == 1 || d.toNat == 0
  | .dump _ d _ _ r => r.toNat == 1 || d.toNat == 0
  | .linkctlPark _ d _ _ r => r.toNat == 1 || d.toNat == 0
  | .linkctlWake _ d _ _ r => r.toNat == 1 || d.toNat == 0
  | .linkctlSetWakeDepth _ d _ _ r => r.toNat == 1 || d.toNat == 0
  | .linkctlReadStatus _ d _ _ r => r.toNat == 1 || d.toNat == 0
  | .launch _ d _ _ r => r.toNat == 1 || d.toNat == 0
  | .fresumeWrite _ => true
  | .registerWrite pa n _ _ => (n == 4 || n == 8) && pa % n == 0
  | .lqheadWrite _ _ => true
  | .debugResume _ _ => true
  | .pctlDrainWrite _ _ => true
  | .pctlReset _ => true
  | .hostBar2Read off n => (n == 4 || n == 8) && off % n == 0 && off < 0x200000000
  | .hostBar2Write off n _ => (n == 4 || n == 8) && off % n == 0 && off < 0x200000000
  | .moduleReset training _ => training.1 ≤ 6 && training.2.all partExists
  | .helmLaneFetch => true
  | .breakpointStop _ => true
  | .runArbitration core quad => core < 768 && quad < 4
  | .ageUrgent core quad => core < 768 && quad < 4
  | .resultWriteback => true
  | .loadReturn => true
  | .runParkEnd => true
  | .yieldExpiry => true
  | .commitRetire => true
  | .matrixWordStart _ => true
  | .matrixWordComplete _ => true
  | .promotionReplayEnd _ => true
  | .commandAccept => true
  | .commandStart _ => true
  | .recordPlace _ => true
  | .enginePageRetry _ => true
  | .faultTake => true
  | .pageRequest => true
  | .teamSave core slot => core < 768 && slot < 16
  | .pageRestoreWalk _ => true
  | .teamRestore _ target => target < 768 || target == 0x3FF
  | .barrierReleaseReady => true
  | .fenceComplete => true
  | .xfenceComplete => true
  | .publishComplete => true
  | .launchAccept _ => true
  | .launchWaitPoll _ => true
  | .teamPlace _ => true
  | .launchFinish _ => true
  | .admissionWindow => true
  | .nodeTailPoll _ => true
  | .batchFire _ => true
  | .tagWaitTimeout _ => true
  | .pendingBitFlush core _ => core < 768
  | .ctimeAdvance core => core < 768
  | .residencyEntryExpire core _ => core < 768
  | .tempoTick => true
  | .feedbackFilterClear => true
  | .energyBoundary readings => readings.all (fun r => r.1 < 1024)
  | .sliceRequestEnter die slice => die < 8 && slice < 16
  | .dirRead line die => die < 8 && line < 0x100000000 && line / 0x20000000 != die
  | .dirOwnership line die => die < 8 && line < 0x100000000 && line / 0x20000000 != die
  | .dirHomeWrite line => line < 0x100000000
  | .dirHomeRead line => line < 0x100000000
  | .rdcEvict die line => die < 8 && line < 0x100000000
  | .filterVictim line => line < 0x100000000
  | .leaseRecall core _ => core < 768
  | .peerInboundAccess _ pa n kind _ => (n == 1 || n == 2 || n == 4 || n == 8 || n == 16 || n == 32) && pa % n == 0 && kind ≤ 12 && (kind ≤ 1 || n == 4)
  | .peerReply _ => true
  | .peerTimeout _ => true
  | .rayNodeRead _ => true
  | .rayEnd _ => true
  | .rootRewrite _ entry => entry < 8
  | .compactReclaim _ => true
  | .drainDeadline _ => true
  | .selfWakeCompare port => port < 24
  | .wakeComplete port => port < 24
  | .wavelengthFail port lambda => port < 24 && lambda < 16
  | .flitCrcError link => link < 20
  | .linkRetrain link => link < 20
  | .retrainComplete link _ => link < 20
  | .dieReset die => die < 8
  | .dieReturn die _ => die < 8
  | .homeDieWaitExpire => true
  | .spareApply kind _ _ action => 1 ≤ kind.toNat && kind.toNat ≤ 12 && 1 ≤ action.toNat && action.toNat ≤ 4
  | .slaliaRetrain lanes => lanes == 8 || lanes == 4 || lanes == 2 || lanes == 1
  | .slaliaLost => true
  | .thermalSample island _ _ => island < 1024
  | .thermalLevelReturn island => island < 1024
  | .softError code _ _ => 1 ≤ code && code ≤ 9
  | .patrolScrub die channel => die < 8 && channel < 8
  | .storePerformed => true
  | .sldResultReturn => true

/-- The instruction stands in memory as a word; the others are operations the machine performs on its own (95). -/
def Instr.isWord : Instr → Bool
  | .iadd _ _ _ _ _ _ => true
  | .isub _ _ _ _ _ _ => true
  | .imul _ _ _ _ _ _ => true
  | .imad _ _ _ _ _ => true
  | .imnmx _ _ _ _ _ _ => true
  | .logic _ _ _ _ _ _ => true
  | .shift _ _ _ _ _ _ => true
  | .bfe _ _ _ _ _ _ => true
  | .bfi _ _ _ _ _ => true
  | .bitc _ _ _ _ _ => true
  | .isetp _ _ _ _ _ _ _ => true
  | .iaddi _ _ _ _ => true
  | .andi _ _ _ _ => true
  | .ori _ _ _ _ => true
  | .xori _ _ _ _ => true
  | .shifti _ _ _ _ _ => true
  | .dp4 _ _ _ _ _ => true
  | .sad _ _ _ _ _ => true
  | .iadd64 _ _ _ _ _ _ => true
  | .fadd _ _ _ _ _ _ => true
  | .fsub _ _ _ _ _ _ => true
  | .fmul _ _ _ _ _ _ => true
  | .ffma _ _ _ _ _ => true
  | .hfma2 _ _ _ _ _ => true
  | .dfma _ _ _ _ _ => true
  | .bfma2 _ _ _ _ _ => true
  | .fmnmx _ _ _ _ _ _ => true
  | .fsetp _ _ _ _ _ _ _ => true
  | .sfu _ _ _ _ _ => true
  | .fround _ _ _ _ _ => true
  | .cvt _ _ _ _ _ _ _ => true
  | .fdot2 _ _ _ _ _ => true
  | .fclamp _ _ _ _ _ => true
  | .mov _ _ _ _ _ => true
  | .movi _ _ _ => true
  | .movhi _ _ _ => true
  | .sel _ _ _ _ _ => true
  | .xlane _ _ _ _ _ _ => true
  | .vote _ _ _ _ _ => true
  | .redux _ _ _ _ => true
  | .qpop _ _ _ => true
  | .qpush _ _ _ => true
  | .ldx _ _ _ _ => true
  | .stx _ _ _ _ => true
  | .xset _ _ _ _ _ => true
  | .rdid _ _ _ _ => true
  | .ld _ _ _ _ _ => true
  | .st _ _ _ _ _ => true
  | .atom _ _ _ _ _ _ => true
  | .cas _ _ _ _ _ => true
  | .red _ _ _ _ _ => true
  | .lds _ _ _ _ _ => true
  | .sts _ _ _ _ _ => true
  | .atoms _ _ _ _ _ _ => true
  | .pref _ _ _ _ => true
  | .ldlod _ _ _ _ _ => true
  | .sample _ _ _ _ _ => true
  | .bdiv _ _ _ _ _ => true
  | .join _ _ => true
  | .strike _ _ _ => true
  | .lexit _ _ => true
  | .callr _ _ _ _ _ => true
  | .lret _ => true
  | .sadd _ _ _ _ _ => true
  | .ssub _ _ _ _ _ => true
  | .smul _ _ _ _ _ => true
  | .slogic _ _ _ _ _ => true
  | .sshift _ _ _ _ _ => true
  | .smnmx _ _ _ _ _ => true
  | .sbitc _ _ _ _ => true
  | .scmp _ _ _ _ _ _ => true
  | .saddi _ _ _ _ => true
  | .sandi _ _ _ _ => true
  | .sori _ _ _ _ => true
  | .sxori _ _ _ _ => true
  | .sshifti _ _ _ _ _ => true
  | .smovi _ _ _ => true
  | .smovhi _ _ _ => true
  | .sld _ _ _ _ _ => true
  | .sst _ _ _ _ _ => true
  | .satom _ _ _ _ _ => true
  | .ssel _ _ _ _ _ => true
  | .sbfe _ _ _ _ _ => true
  | .spush _ _ => true
  | .spop _ _ => true
  | .rdsys _ _ _ => true
  | .wrsys _ _ _ => true
  | .rdcnt _ _ _ => true
  | .bra _ _ _ => true
  | .call _ _ _ => true
  | .jmpr _ _ _ => true
  | .jmprL _ _ _ => true
  | .ret _ _ _ => true
  | .loop _ _ _ => true
  | .exit _ _ => true
  | .spawn _ _ _ _ => true
  | .yield _ => true
  | .nop _ => true
  | .trap _ _ => true
  | .brk _ _ => true
  | .tbarMark _ _ => true
  | .tbarHold _ _ => true
  | .tbarMeet _ _ => true
  | .tbarEnrol _ _ => true
  | .cbarMark _ _ => true
  | .cbarHold _ _ => true
  | .cbarMeet _ _ => true
  | .fence _ _ => true
  | .xfence _ _ _ _ => true
  | .publish _ _ => true
  | .evpop _ _ _ => true
  | .evwait _ => true
  | .ringwait _ _ _ _ => true
  | .ringpost _ _ _ _ => true
  | .gang _ _ => true
  | .obres _ _ _ _ => true
  | .obrel _ _ => true
  | .mma _ _ _ _ _ _ => true
  | .mchain _ _ _ _ _ _ => true
  | .mclr _ _ _ _ => true
  | .mld _ _ _ _ _ _ _ => true
  | .mst _ _ _ _ _ _ _ => true
  | .mdrain _ _ _ _ _ _ => true
  | .mbound _ _ _ _ _ => true
  | .mwait _ _ => true
  | .copyG2s _ _ _ _ _ => true
  | .copyS2g _ _ _ _ _ => true
  | .copyG2ob _ _ _ _ _ => true
  | .copyS2ob _ _ _ _ _ => true
  | .copyG2st _ _ _ _ _ => true
  | .copyS2gt _ _ _ _ _ => true
  | .copyG2obt _ _ _ _ _ => true
  | .copyK16 _ _ _ _ _ => true
  | .copyG2g _ _ _ _ _ => true
  | .gathB32 _ _ _ _ _ => true
  | .gathB64 _ _ _ _ _ => true
  | .gathB128 _ _ _ _ _ => true
  | .travCast _ _ _ _ _ => true
  | .travOccl _ _ _ _ _ => true
  | .travShadow _ _ _ _ _ => true
  | .travResume _ _ _ _ _ => true
  | .travQuery _ _ _ _ _ => true
  | .buildMorton _ _ _ _ _ => true
  | .buildSort _ _ _ _ _ => true
  | .buildEmit _ _ _ _ _ => true
  | .buildRefit _ _ _ _ _ => true
  | .buildUpdate _ _ _ _ _ => true
  | .buildGenpub _ _ _ _ _ => true
  | .buildGenret _ _ _ _ _ => true
  | .buildCompact _ _ _ _ _ => true
  | .strmIsect _ _ _ _ _ => true
  | .strmCisect _ _ _ _ _ => true
  | .strmMerge _ _ _ _ _ => true
  | .strmDiff _ _ _ _ _ => true
  | .collAllred _ _ _ _ _ => true
  | .collRedscat _ _ _ _ _ => true
  | .collAllgath _ _ _ _ _ => true
  | .collBcast _ _ _ _ _ => true
  | .lodBind _ _ _ _ _ => true
  | .lodMrlset _ _ _ _ _ => true
  | .lodMrlrd _ _ _ _ _ => true
  | .lodFbpop _ _ _ _ _ => true
  | .lodFbstat _ _ _ _ _ => true
  | .tlbinv _ _ _ _ _ => true
  | .harvest _ _ _ _ _ => true
  | .rmapinv _ _ _ _ _ => true
  | .profload _ _ _ _ _ => true
  | .ctxsave _ _ _ _ _ => true
  | .ctxrestore _ _ _ _ _ => true
  | .ensetAllowance _ _ _ _ _ => true
  | .ensetClearContext _ _ _ _ _ => true
  | .trcctl _ _ _ _ _ => true
  | .dump _ _ _ _ _ => true
  | .linkctlPark _ _ _ _ _ => true
  | .linkctlWake _ _ _ _ _ => true
  | .linkctlSetWakeDepth _ _ _ _ _ => true
  | .linkctlReadStatus _ _ _ _ _ => true
  | .launch _ _ _ _ _ => true
  | .fresumeWrite _ => false
  | .registerWrite _ _ _ _ => false
  | .lqheadWrite _ _ => false
  | .debugResume _ _ => false
  | .pctlDrainWrite _ _ => false
  | .pctlReset _ => false
  | .hostBar2Read _ _ => false
  | .hostBar2Write _ _ _ => false
  | .moduleReset _ _ => false
  | .helmLaneFetch => false
  | .breakpointStop _ => false
  | .runArbitration _ _ => false
  | .ageUrgent _ _ => false
  | .resultWriteback => false
  | .loadReturn => false
  | .runParkEnd => false
  | .yieldExpiry => false
  | .commitRetire => false
  | .matrixWordStart _ => false
  | .matrixWordComplete _ => false
  | .promotionReplayEnd _ => false
  | .commandAccept => false
  | .commandStart _ => false
  | .recordPlace _ => false
  | .enginePageRetry _ => false
  | .faultTake => false
  | .pageRequest => false
  | .teamSave _ _ => false
  | .pageRestoreWalk _ => false
  | .teamRestore _ _ => false
  | .barrierReleaseReady => false
  | .fenceComplete => false
  | .xfenceComplete => false
  | .publishComplete => false
  | .launchAccept _ => false
  | .launchWaitPoll _ => false
  | .teamPlace _ => false
  | .launchFinish _ => false
  | .admissionWindow => false
  | .nodeTailPoll _ => false
  | .batchFire _ => false
  | .tagWaitTimeout _ => false
  | .pendingBitFlush _ _ => false
  | .ctimeAdvance _ => false
  | .residencyEntryExpire _ _ => false
  | .tempoTick => false
  | .feedbackFilterClear => false
  | .energyBoundary _ => false
  | .sliceRequestEnter _ _ => false
  | .dirRead _ _ => false
  | .dirOwnership _ _ => false
  | .dirHomeWrite _ => false
  | .dirHomeRead _ => false
  | .rdcEvict _ _ => false
  | .filterVictim _ => false
  | .leaseRecall _ _ => false
  | .peerInboundAccess _ _ _ _ _ => false
  | .peerReply _ => false
  | .peerTimeout _ => false
  | .rayNodeRead _ => false
  | .rayEnd _ => false
  | .rootRewrite _ _ => false
  | .compactReclaim _ => false
  | .drainDeadline _ => false
  | .selfWakeCompare _ => false
  | .wakeComplete _ => false
  | .wavelengthFail _ _ => false
  | .flitCrcError _ => false
  | .linkRetrain _ => false
  | .retrainComplete _ _ => false
  | .dieReset _ => false
  | .dieReturn _ _ => false
  | .homeDieWaitExpire => false
  | .spareApply _ _ _ _ => false
  | .slaliaRetrain _ => false
  | .slaliaLost => false
  | .thermalSample _ _ _ => false
  | .thermalLevelReturn _ => false
  | .softError _ _ _ => false
  | .patrolScrub _ _ => false
  | .storePerformed => false
  | .sldResultReturn => false

end Sys2Proof
end

