-- ==== Sys2Proof/Decode.lean ====
section
/-!
DEFINITION. From the bits of a word to its instruction (07 R129 to R146), total and rejecting by name: a word that is no
assigned encoding decodes to nothing (R145, R394). After the decoder stands the encoder, from the same tables.
-/
namespace Sys2Proof

/-- The field of `n` bits whose lowest bit is bit `lo` of the word. -/
def fld (w : Word) (lo n : Nat) : BitVec n := w.extractLsb' lo n

/-- Lane-set words by major opcode (Table 7.4): the fields, once the fixed and reserved bits hold (R130). -/
def laneFields (w : Word) : Option Instr :=
  match (fld w 24 6).toNat with
  | 0x01 => some (.iadd (fld w 30 1) (fld w 18 6) (fld w 12 6) (fld w 6 6) (fld w 2 4) (fld w 0 2))
  | 0x02 => some (.isub (fld w 30 1) (fld w 18 6) (fld w 12 6) (fld w 6 6) (fld w 2 4) (fld w 0 2))
  | 0x03 => some (.imul (fld w 30 1) (fld w 18 6) (fld w 12 6) (fld w 6 6) (fld w 2 4) (fld w 0 2))
  | 0x04 => some (.imad (fld w 30 1) (fld w 18 6) (fld w 12 6) (fld w 6 6) (fld w 0 6))
  | 0x05 => some (.imnmx (fld w 30 1) (fld w 18 6) (fld w 12 6) (fld w 6 6) (fld w 2 4) (fld w 0 2))
  | 0x06 => some (.logic (fld w 30 1) (fld w 18 6) (fld w 12 6) (fld w 6 6) (fld w 2 4) (fld w 0 2))
  | 0x07 => some (.shift (fld w 30 1) (fld w 18 6) (fld w 12 6) (fld w 6 6) (fld w 2 4) (fld w 0 2))
  | 0x08 => some (.bfe (fld w 30 1) (fld w 18 6) (fld w 12 6) (fld w 6 6) (fld w 2 4) (fld w 0 2))
  | 0x09 => some (.bfi (fld w 30 1) (fld w 18 6) (fld w 12 6) (fld w 6 6) (fld w 0 6))
  | 0x0A => if w &&& 0xBF000FC0#32 = 0x0A000000#32 then some (.bitc (fld w 30 1) (fld w 18 6) (fld w 12 6) (fld w 2 4) (fld w 0 2)) else none
  | 0x0B => if w &&& 0xBF000038#32 = 0x0B000000#32 then some (.isetp (fld w 30 1) (fld w 21 3) (fld w 18 3) (fld w 12 6) (fld w 6 6) (fld w 2 1) (fld w 0 2)) else none
  | 0x0C => some (.iaddi (fld w 30 1) (fld w 18 6) (fld w 12 6) (fld w 0 12))
  | 0x0D => some (.andi (fld w 30 1) (fld w 18 6) (fld w 12 6) (fld w 0 12))
  | 0x0E => some (.ori (fld w 30 1) (fld w 18 6) (fld w 12 6) (fld w 0 12))
  | 0x0F => some (.xori (fld w 30 1) (fld w 18 6) (fld w 12 6) (fld w 0 12))
  | 0x10 => if w &&& 0xBF0000E0#32 = 0x10000000#32 then some (.shifti (fld w 30 1) (fld w 18 6) (fld w 12 6) (fld w 8 4) (fld w 0 5)) else none
  | 0x11 => some (.dp4 (fld w 30 1) (fld w 18 6) (fld w 12 6) (fld w 6 6) (fld w 0 6))
  | 0x12 => some (.sad (fld w 30 1) (fld w 18 6) (fld w 12 6) (fld w 6 6) (fld w 0 6))
  | 0x13 => some (.iadd64 (fld w 30 1) (fld w 18 6) (fld w 12 6) (fld w 6 6) (fld w 2 4) (fld w 0 2))
  | 0x14 => some (.fadd (fld w 30 1) (fld w 18 6) (fld w 12 6) (fld w 6 6) (fld w 2 4) (fld w 0 2))
  | 0x15 => some (.fsub (fld w 30 1) (fld w 18 6) (fld w 12 6) (fld w 6 6) (fld w 2 4) (fld w 0 2))
  | 0x16 => some (.fmul (fld w 30 1) (fld w 18 6) (fld w 12 6) (fld w 6 6) (fld w 2 4) (fld w 0 2))
  | 0x17 => some (.ffma (fld w 30 1) (fld w 18 6) (fld w 12 6) (fld w 6 6) (fld w 0 6))
  | 0x18 => some (.hfma2 (fld w 30 1) (fld w 18 6) (fld w 12 6) (fld w 6 6) (fld w 0 6))
  | 0x19 => some (.dfma (fld w 30 1) (fld w 18 6) (fld w 12 6) (fld w 6 6) (fld w 0 6))
  | 0x1A => some (.bfma2 (fld w 30 1) (fld w 18 6) (fld w 12 6) (fld w 6 6) (fld w 0 6))
  | 0x1B => some (.fmnmx (fld w 30 1) (fld w 18 6) (fld w 12 6) (fld w 6 6) (fld w 2 4) (fld w 0 2))
  | 0x1C => if w &&& 0xBF00000C#32 = 0x1C000000#32 then some (.fsetp (fld w 30 1) (fld w 21 3) (fld w 18 3) (fld w 12 6) (fld w 6 6) (fld w 4 2) (fld w 0 2)) else none
  | 0x1D => if w &&& 0xBF000FC0#32 = 0x1D000000#32 then some (.sfu (fld w 30 1) (fld w 18 6) (fld w 12 6) (fld w 2 4) (fld w 0 2)) else none
  | 0x1E => if w &&& 0xBF000FC0#32 = 0x1E000000#32 then some (.fround (fld w 30 1) (fld w 18 6) (fld w 12 6) (fld w 2 4) (fld w 0 2)) else none
  | 0x1F => some (.cvt (fld w 30 1) (fld w 18 6) (fld w 12 6) (fld w 8 4) (fld w 6 2) (fld w 2 4) (fld w 0 2))
  | 0x20 => some (.fdot2 (fld w 30 1) (fld w 18 6) (fld w 12 6) (fld w 6 6) (fld w 0 6))
  | 0x21 => some (.fclamp (fld w 30 1) (fld w 18 6) (fld w 12 6) (fld w 6 6) (fld w 0 6))
  | 0x22 => if w &&& 0xBF000FC0#32 = 0x22000000#32 then some (.mov (fld w 30 1) (fld w 18 6) (fld w 12 6) (fld w 2 4) (fld w 0 2)) else none
  | 0x23 => some (.movi (fld w 30 1) (fld w 18 6) (fld w 0 18))
  | 0x24 => some (.movhi (fld w 30 1) (fld w 18 6) (fld w 0 18))
  | 0x25 => if w &&& 0xBF000038#32 = 0x25000000#32 then some (.sel (fld w 30 1) (fld w 18 6) (fld w 12 6) (fld w 6 6) (fld w 0 3)) else none
  | 0x26 => if w &&& 0xBF000030#32 = 0x26000000#32 then some (.xlane (fld w 30 1) (fld w 18 6) (fld w 12 6) (fld w 6 6) (fld w 2 2) (fld w 0 2)) else none
  | 0x27 => if w &&& 0xBF038FC0#32 = 0x27000000#32 then some (.vote (fld w 30 1) (fld w 18 6) (fld w 12 3) (fld w 2 4) (fld w 0 2)) else none
  | 0x28 => if w &&& 0xBFFC0FC0#32 = 0x28000000#32 then some (.redux (fld w 30 1) (fld w 12 6) (fld w 2 4) (fld w 0 2)) else none
  | 0x29 => if w &&& 0xBF03FFFC#32 = 0x29000000#32 then some (.qpop (fld w 30 1) (fld w 18 6) (fld w 0 2)) else none
  | 0x2A => if w &&& 0xBFFC0FFC#32 = 0x2A000000#32 then some (.qpush (fld w 30 1) (fld w 12 6) (fld w 0 2)) else none
  | 0x2B => if w &&& 0xBF0000FF#32 = 0x2B000000#32 then some (.ldx (fld w 30 1) (fld w 18 6) (fld w 16 2) (fld w 8 8)) else none
  | 0x2C => if w &&& 0xBF0000FF#32 = 0x2C000000#32 then some (.stx (fld w 30 1) (fld w 18 6) (fld w 16 2) (fld w 8 8)) else none
  | 0x2D => if w &&& 0xBFF00FC0#32 = 0x2D000000#32 then some (.xset (fld w 30 1) (fld w 18 2) (fld w 12 6) (fld w 2 4) (fld w 0 2)) else none
  | 0x2E => if w &&& 0xBF03FFC0#32 = 0x2E000000#32 then some (.rdid (fld w 30 1) (fld w 18 6) (fld w 2 4) (fld w 0 2)) else none
  | 0x2F => some (.ld (fld w 30 1) (fld w 18 6) (fld w 12 6) (fld w 8 4) (fld w 0 8))
  | 0x30 => some (.st (fld w 30 1) (fld w 18 6) (fld w 12 6) (fld w 8 4) (fld w 0 8))
  | 0x31 => some (.atom (fld w 30 1) (fld w 18 6) (fld w 12 6) (fld w 6 6) (fld w 2 4) (fld w 0 2))
  | 0x32 => some (.cas (fld w 30 1) (fld w 18 6) (fld w 12 6) (fld w 6 6) (fld w 0 6))
  | 0x33 => if w &&& 0xBFFC0000#32 = 0x33000000#32 then some (.red (fld w 30 1) (fld w 12 6) (fld w 6 6) (fld w 2 4) (fld w 0 2)) else none
  | 0x34 => some (.lds (fld w 30 1) (fld w 18 6) (fld w 12 6) (fld w 8 4) (fld w 0 8))
  | 0x35 => some (.sts (fld w 30 1) (fld w 18 6) (fld w 12 6) (fld w 8 4) (fld w 0 8))
  | 0x36 => some (.atoms (fld w 30 1) (fld w 18 6) (fld w 12 6) (fld w 6 6) (fld w 2 4) (fld w 0 2))
  | 0x37 => if w &&& 0xBFFC0000#32 = 0x37000000#32 then some (.pref (fld w 30 1) (fld w 12 6) (fld w 8 4) (fld w 0 8)) else none
  | 0x38 => if w &&& 0xBF000003#32 = 0x38000000#32 then some (.ldlod (fld w 30 1) (fld w 18 6) (fld w 12 6) (fld w 6 6) (fld w 2 4)) else none
  | 0x39 => if w &&& 0xBF000003#32 = 0x39000000#32 then some (.sample (fld w 30 1) (fld w 18 6) (fld w 12 6) (fld w 6 6) (fld w 2 4)) else none
  | 0x3A => some (.bdiv (fld w 30 1) (fld w 21 3) (fld w 18 3) (fld w 12 6) (fld w 0 12))
  | 0x3B => if w &&& 0xBFE3FFFF#32 = 0x3BE00000#32 then some (.join (fld w 30 1) (fld w 18 3)) else none
  | 0x3C => if w &&& 0xBF03FFFF#32 = 0x3C000000#32 then some (.strike (fld w 30 1) (fld w 21 3) (fld w 18 3)) else none
  | 0x3D => if w &&& 0xBF1FFFFF#32 = 0x3D000000#32 then some (.lexit (fld w 30 1) (fld w 21 3)) else none
  | 0x3E => some (.callr (fld w 30 1) (fld w 21 3) (fld w 18 3) (fld w 12 6) (fld w 0 12))
  | 0x3F => if w &&& 0xBFFFFFFF#32 = 0x3FE00000#32 then some (.lret (fld w 30 1)) else none
  | _ => none

/-- Table 7.10: `cop.copy` by fn7. -/
def copyFields (w : Word) : Option Instr :=
  match (fld w 17 7).toNat with
  | 0x00 => some (.copyG2s (fld w 30 1) (fld w 11 6) (fld w 6 5) (fld w 1 5) (fld w 0 1))
  | 0x01 => some (.copyS2g (fld w 30 1) (fld w 11 6) (fld w 6 5) (fld w 1 5) (fld w 0 1))
  | 0x02 => some (.copyG2ob (fld w 30 1) (fld w 11 6) (fld w 6 5) (fld w 1 5) (fld w 0 1))
  | 0x03 => some (.copyS2ob (fld w 30 1) (fld w 11 6) (fld w 6 5) (fld w 1 5) (fld w 0 1))
  | 0x04 => some (.copyG2st (fld w 30 1) (fld w 11 6) (fld w 6 5) (fld w 1 5) (fld w 0 1))
  | 0x05 => some (.copyS2gt (fld w 30 1) (fld w 11 6) (fld w 6 5) (fld w 1 5) (fld w 0 1))
  | 0x06 => some (.copyG2obt (fld w 30 1) (fld w 11 6) (fld w 6 5) (fld w 1 5) (fld w 0 1))
  | 0x07 => some (.copyK16 (fld w 30 1) (fld w 11 6) (fld w 6 5) (fld w 1 5) (fld w 0 1))
  | 0x08 => some (.copyG2g (fld w 30 1) (fld w 11 6) (fld w 6 5) (fld w 1 5) (fld w 0 1))
  | _ => none

/-- Table 7.10: `cop.gath` by fn7. -/
def gathFields (w : Word) : Option Instr :=
  match (fld w 17 7).toNat with
  | 0x00 => some (.gathB32 (fld w 30 1) (fld w 11 6) (fld w 6 5) (fld w 1 5) (fld w 0 1))
  | 0x01 => some (.gathB64 (fld w 30 1) (fld w 11 6) (fld w 6 5) (fld w 1 5) (fld w 0 1))
  | 0x02 => some (.gathB128 (fld w 30 1) (fld w 11 6) (fld w 6 5) (fld w 1 5) (fld w 0 1))
  | _ => none

/-- Table 7.10: `cop.trav` by fn7. -/
def travFields (w : Word) : Option Instr :=
  match (fld w 17 7).toNat with
  | 0x00 => some (.travCast (fld w 30 1) (fld w 11 6) (fld w 6 5) (fld w 1 5) (fld w 0 1))
  | 0x01 => some (.travOccl (fld w 30 1) (fld w 11 6) (fld w 6 5) (fld w 1 5) (fld w 0 1))
  | 0x02 => some (.travShadow (fld w 30 1) (fld w 11 6) (fld w 6 5) (fld w 1 5) (fld w 0 1))
  | 0x03 => some (.travResume (fld w 30 1) (fld w 11 6) (fld w 6 5) (fld w 1 5) (fld w 0 1))
  | 0x04 => some (.travQuery (fld w 30 1) (fld w 11 6) (fld w 6 5) (fld w 1 5) (fld w 0 1))
  | _ => none

/-- Table 7.10: `cop.build` by fn7. -/
def buildFields (w : Word) : Option Instr :=
  match (fld w 17 7).toNat with
  | 0x00 => some (.buildMorton (fld w 30 1) (fld w 11 6) (fld w 6 5) (fld w 1 5) (fld w 0 1))
  | 0x01 => some (.buildSort (fld w 30 1) (fld w 11 6) (fld w 6 5) (fld w 1 5) (fld w 0 1))
  | 0x02 => some (.buildEmit (fld w 30 1) (fld w 11 6) (fld w 6 5) (fld w 1 5) (fld w 0 1))
  | 0x03 => some (.buildRefit (fld w 30 1) (fld w 11 6) (fld w 6 5) (fld w 1 5) (fld w 0 1))
  | 0x04 => some (.buildUpdate (fld w 30 1) (fld w 11 6) (fld w 6 5) (fld w 1 5) (fld w 0 1))
  | 0x05 => some (.buildGenpub (fld w 30 1) (fld w 11 6) (fld w 6 5) (fld w 1 5) (fld w 0 1))
  | 0x06 => some (.buildGenret (fld w 30 1) (fld w 11 6) (fld w 6 5) (fld w 1 5) (fld w 0 1))
  | 0x07 => some (.buildCompact (fld w 30 1) (fld w 11 6) (fld w 6 5) (fld w 1 5) (fld w 0 1))
  | _ => none

/-- Table 7.10: `cop.strm` by fn7. -/
def strmFields (w : Word) : Option Instr :=
  match (fld w 17 7).toNat with
  | 0x00 => some (.strmIsect (fld w 30 1) (fld w 11 6) (fld w 6 5) (fld w 1 5) (fld w 0 1))
  | 0x01 => some (.strmCisect (fld w 30 1) (fld w 11 6) (fld w 6 5) (fld w 1 5) (fld w 0 1))
  | 0x02 => some (.strmMerge (fld w 30 1) (fld w 11 6) (fld w 6 5) (fld w 1 5) (fld w 0 1))
  | 0x03 => some (.strmDiff (fld w 30 1) (fld w 11 6) (fld w 6 5) (fld w 1 5) (fld w 0 1))
  | _ => none

/-- Table 7.10: `cop.coll` by fn7. -/
def collFields (w : Word) : Option Instr :=
  match (fld w 17 7).toNat with
  | 0x00 => some (.collAllred (fld w 30 1) (fld w 11 6) (fld w 6 5) (fld w 1 5) (fld w 0 1))
  | 0x01 => some (.collRedscat (fld w 30 1) (fld w 11 6) (fld w 6 5) (fld w 1 5) (fld w 0 1))
  | 0x02 => some (.collAllgath (fld w 30 1) (fld w 11 6) (fld w 6 5) (fld w 1 5) (fld w 0 1))
  | 0x03 => some (.collBcast (fld w 30 1) (fld w 11 6) (fld w 6 5) (fld w 1 5) (fld w 0 1))
  | _ => none

/-- Table 7.10: `cop.lod` by fn7. -/
def lodFields (w : Word) : Option Instr :=
  match (fld w 17 7).toNat with
  | 0x00 => some (.lodBind (fld w 30 1) (fld w 11 6) (fld w 6 5) (fld w 1 5) (fld w 0 1))
  | 0x01 => some (.lodMrlset (fld w 30 1) (fld w 11 6) (fld w 6 5) (fld w 1 5) (fld w 0 1))
  | 0x02 => some (.lodMrlrd (fld w 30 1) (fld w 11 6) (fld w 6 5) (fld w 1 5) (fld w 0 1))
  | 0x03 => some (.lodFbpop (fld w 30 1) (fld w 11 6) (fld w 6 5) (fld w 1 5) (fld w 0 1))
  | 0x04 => some (.lodFbstat (fld w 30 1) (fld w 11 6) (fld w 6 5) (fld w 1 5) (fld w 0 1))
  | _ => none

/-- Table 7.10: `cop.sys` by fn7. -/
def sysFields (w : Word) : Option Instr :=
  match (fld w 17 7).toNat with
  | 0x00 => some (.tlbinv (fld w 30 1) (fld w 11 6) (fld w 6 5) (fld w 1 5) (fld w 0 1))
  | 0x01 => some (.harvest (fld w 30 1) (fld w 11 6) (fld w 6 5) (fld w 1 5) (fld w 0 1))
  | 0x02 => some (.rmapinv (fld w 30 1) (fld w 11 6) (fld w 6 5) (fld w 1 5) (fld w 0 1))
  | 0x03 => some (.profload (fld w 30 1) (fld w 11 6) (fld w 6 5) (fld w 1 5) (fld w 0 1))
  | 0x04 => some (.ctxsave (fld w 30 1) (fld w 11 6) (fld w 6 5) (fld w 1 5) (fld w 0 1))
  | 0x05 => some (.ctxrestore (fld w 30 1) (fld w 11 6) (fld w 6 5) (fld w 1 5) (fld w 0 1))
  | 0x06 => some (.ensetAllowance (fld w 30 1) (fld w 11 6) (fld w 6 5) (fld w 1 5) (fld w 0 1))
  | 0x07 => some (.trcctl (fld w 30 1) (fld w 11 6) (fld w 6 5) (fld w 1 5) (fld w 0 1))
  | 0x08 => some (.dump (fld w 30 1) (fld w 11 6) (fld w 6 5) (fld w 1 5) (fld w 0 1))
  | 0x09 => some (.linkctlPark (fld w 30 1) (fld w 11 6) (fld w 6 5) (fld w 1 5) (fld w 0 1))
  | 0x0A => some (.launch (fld w 30 1) (fld w 11 6) (fld w 6 5) (fld w 1 5) (fld w 0 1))
  | _ => none

/-- Uniform-set words by major opcode (Table 7.8). -/
def uniformFields (w : Word) : Option Instr :=
  match (fld w 24 6).toNat with
  | 0x01 => some (.sadd (fld w 30 1) (fld w 18 6) (fld w 12 6) (fld w 6 6) (fld w 0 6))
  | 0x02 => some (.ssub (fld w 30 1) (fld w 18 6) (fld w 12 6) (fld w 6 6) (fld w 0 6))
  | 0x03 => some (.smul (fld w 30 1) (fld w 18 6) (fld w 12 6) (fld w 6 6) (fld w 0 6))
  | 0x04 => some (.slogic (fld w 30 1) (fld w 18 6) (fld w 12 6) (fld w 6 6) (fld w 0 6))
  | 0x05 => some (.sshift (fld w 30 1) (fld w 18 6) (fld w 12 6) (fld w 6 6) (fld w 0 6))
  | 0x06 => some (.smnmx (fld w 30 1) (fld w 18 6) (fld w 12 6) (fld w 6 6) (fld w 0 6))
  | 0x07 => if w &&& 0xBF000FC0#32 = 0x87000000#32 then some (.sbitc (fld w 30 1) (fld w 18 6) (fld w 12 6) (fld w 0 6)) else none
  | 0x08 => if w &&& 0xBF00003E#32 = 0x88000000#32 then some (.scmp (fld w 30 1) (fld w 21 3) (fld w 18 3) (fld w 12 6) (fld w 6 6) (fld w 0 1)) else none
  | 0x09 => some (.saddi (fld w 30 1) (fld w 18 6) (fld w 12 6) (fld w 0 12))
  | 0x0A => some (.sandi (fld w 30 1) (fld w 18 6) (fld w 12 6) (fld w 0 12))
  | 0x0B => some (.sori (fld w 30 1) (fld w 18 6) (fld w 12 6) (fld w 0 12))
  | 0x0C => some (.sxori (fld w 30 1) (fld w 18 6) (fld w 12 6) (fld w 0 12))
  | 0x0D => if w &&& 0xBF0000E0#32 = 0x8D000000#32 then some (.sshifti (fld w 30 1) (fld w 18 6) (fld w 12 6) (fld w 8 4) (fld w 0 5)) else none
  | 0x0E => some (.smovi (fld w 30 1) (fld w 18 6) (fld w 0 18))
  | 0x0F => some (.smovhi (fld w 30 1) (fld w 18 6) (fld w 0 18))
  | 0x10 => some (.sld (fld w 30 1) (fld w 18 6) (fld w 12 6) (fld w 10 2) (fld w 0 10))
  | 0x11 => some (.sst (fld w 30 1) (fld w 18 6) (fld w 12 6) (fld w 10 2) (fld w 0 10))
  | 0x12 => some (.satom (fld w 30 1) (fld w 18 6) (fld w 12 6) (fld w 6 6) (fld w 0 6))
  | 0x13 => if w &&& 0xBF000038#32 = 0x93000000#32 then some (.ssel (fld w 30 1) (fld w 18 6) (fld w 12 6) (fld w 6 6) (fld w 0 3)) else none
  | 0x14 => some (.sbfe (fld w 30 1) (fld w 18 6) (fld w 12 6) (fld w 6 6) (fld w 0 6))
  | 0x15 => if w &&& 0xBFFC0FFF#32 = 0x95000000#32 then some (.spush (fld w 30 1) (fld w 12 6)) else none
  | 0x16 => if w &&& 0xBF03FFFF#32 = 0x96000000#32 then some (.spop (fld w 30 1) (fld w 18 6)) else none
  | 0x17 => some (.rdsys (fld w 30 1) (fld w 18 6) (fld w 0 18))
  | 0x18 => some (.wrsys (fld w 30 1) (fld w 18 6) (fld w 0 18))
  | 0x19 => some (.rdcnt (fld w 30 1) (fld w 18 6) (fld w 0 18))
  | 0x1A => if w &&& 0xBF100000#32 = 0x9A000000#32 then some (.bra (fld w 30 1) (fld w 21 3) (fld w 0 20)) else if w &&& 0xBF100000#32 = 0x9A100000#32 then some (.call (fld w 30 1) (fld w 21 3) (fld w 0 20)) else none
  | 0x1B => if w &&& 0xBFFC0FF8#32 = 0x9B000000#32 then some (.jmpr (fld w 30 1) (fld w 12 6) (fld w 0 3)) else if w &&& 0xBFFC0FF8#32 = 0x9B000008#32 then some (.jmprL (fld w 30 1) (fld w 12 6) (fld w 0 3)) else none
  | 0x1C => if w &&& 0xBFFC0FF8#32 = 0x9C000000#32 then some (.ret (fld w 30 1) (fld w 12 6) (fld w 0 3)) else none
  | 0x1D => if w &&& 0xBF03F000#32 = 0x9D000000#32 then some (.loop (fld w 30 1) (fld w 18 6) (fld w 0 12)) else none
  | 0x1E => if w &&& 0xBFFFFFF8#32 = 0x9E000000#32 then some (.exit (fld w 30 1) (fld w 0 3)) else none
  | 0x1F => if w &&& 0xBF00003F#32 = 0x9F000000#32 then some (.spawn (fld w 30 1) (fld w 18 6) (fld w 12 6) (fld w 6 6)) else none
  | 0x20 => if w &&& 0xBFFFFFFF#32 = 0xA0000000#32 then some (.yield (fld w 30 1)) else none
  | 0x21 => if w &&& 0xBFFFFFFF#32 = 0xA1000000#32 then some (.nop (fld w 30 1)) else none
  | 0x22 => if w &&& 0xBFFC0000#32 = 0xA2000000#32 then some (.trap (fld w 30 1) (fld w 0 18)) else none
  | 0x23 => if w &&& 0xBFFC0000#32 = 0xA3000000#32 then some (.brk (fld w 30 1) (fld w 0 18)) else none
  | 0x24 => if w &&& 0xBFFFFFC3#32 = 0xA4000000#32 then some (.tbarMark (fld w 30 1) (fld w 2 4)) else if w &&& 0xBFFFFFC3#32 = 0xA4000001#32 then some (.tbarHold (fld w 30 1) (fld w 2 4)) else if w &&& 0xBFFFFFC3#32 = 0xA4000002#32 then some (.tbarMeet (fld w 30 1) (fld w 2 4)) else if w &&& 0xBFFFFFC3#32 = 0xA4000003#32 then some (.tbarEnrol (fld w 30 1) (fld w 2 4)) else none
  | 0x25 => if w &&& 0xBFFFFFF3#32 = 0xA5000000#32 then some (.cbarMark (fld w 30 1) (fld w 2 2)) else if w &&& 0xBFFFFFF3#32 = 0xA5000001#32 then some (.cbarHold (fld w 30 1) (fld w 2 2)) else if w &&& 0xBFFFFFF3#32 = 0xA5000002#32 then some (.cbarMeet (fld w 30 1) (fld w 2 2)) else none
  | 0x26 => if w &&& 0xBFFFFFF8#32 = 0xA6000000#32 then some (.fence (fld w 30 1) (fld w 0 3)) else none
  | 0x27 => if w &&& 0xBF000007#32 = 0xA7000000#32 then some (.xfence (fld w 30 1) (fld w 15 9) (fld w 6 9) (fld w 3 3)) else none
  | 0x28 => if w &&& 0xBFFC0FFF#32 = 0xA8000000#32 then some (.publish (fld w 30 1) (fld w 12 6)) else none
  | 0x29 => if w &&& 0xBF03FFF8#32 = 0xA9000000#32 then some (.evpop (fld w 30 1) (fld w 18 6) (fld w 0 3)) else none
  | 0x2A => if w &&& 0xBFFFFFFF#32 = 0xAA000000#32 then some (.evwait (fld w 30 1)) else none
  | 0x2B => if w &&& 0xBFFC0FE0#32 = 0xAB000000#32 then some (.ringwait (fld w 30 1) (fld w 12 6) (fld w 4 1) (fld w 0 4)) else none
  | 0x2C => if w &&& 0xBFFC0FE0#32 = 0xAC000000#32 then some (.ringpost (fld w 30 1) (fld w 12 6) (fld w 4 1) (fld w 0 4)) else none
  | 0x2D => if w &&& 0xBFFC0FFF#32 = 0xAD000000#32 then some (.gang (fld w 30 1) (fld w 12 6)) else none
  | 0x2E => if w &&& 0xBFC0003F#32 = 0xAE000000#32 then some (.obres (fld w 30 1) (fld w 18 4) (fld w 12 6) (fld w 6 6)) else none
  | 0x2F => if w &&& 0xBFC3FFFF#32 = 0xAF000000#32 then some (.obrel (fld w 30 1) (fld w 18 4)) else none
  | 0x30 => some (.mma (fld w 30 1) (fld w 21 3) (fld w 17 4) (fld w 11 6) (fld w 3 8) (fld w 0 3))
  | 0x31 => some (.mchain (fld w 30 1) (fld w 21 3) (fld w 17 4) (fld w 11 6) (fld w 3 8) (fld w 0 3))
  | 0x32 => if w &&& 0xBF1FF800#32 = 0xB2000000#32 then some (.mclr (fld w 30 1) (fld w 21 3) (fld w 3 8) (fld w 0 3)) else none
  | 0x33 => some (.mld (fld w 30 1) (fld w 21 3) (fld w 20 1) (fld w 17 3) (fld w 11 6) (fld w 3 8) (fld w 0 3))
  | 0x34 => some (.mst (fld w 30 1) (fld w 21 3) (fld w 20 1) (fld w 17 3) (fld w 11 6) (fld w 3 8) (fld w 0 3))
  | 0x35 => if w &&& 0xBF180000#32 = 0xB5000000#32 then some (.mdrain (fld w 30 1) (fld w 21 3) (fld w 17 2) (fld w 11 6) (fld w 3 8) (fld w 0 3)) else none
  | 0x36 => if w &&& 0xBF1E0000#32 = 0xB6000000#32 then some (.mbound (fld w 30 1) (fld w 21 3) (fld w 11 6) (fld w 3 8) (fld w 0 3)) else none
  | 0x37 => if w &&& 0xBFFFF807#32 = 0xB7000000#32 then some (.mwait (fld w 30 1) (fld w 3 8)) else none
  | 0x38 => copyFields w
  | 0x39 => gathFields w
  | 0x3A => travFields w
  | 0x3B => buildFields w
  | 0x3C => strmFields w
  | 0x3D => collFields w
  | 0x3E => lodFields w
  | 0x3F => sysFields w
  | _ => none

/-- The instruction of a word, or nothing where the word is unassigned (R145). `cop.sys.enset` and `cop.sys.linkctl` are one
word each: the decoder answers the first operation of the table; the meanings of one word are alike, and OPA picks what the command
does when it runs (R283, R352, R353). -/
def decodeWord (w : Word) : Option Instr :=
  match (if fld w 31 1 = 0#1 then laneFields w else uniformFields w) with
  | some i => if i.wf then some i else none
  | none => none

/-- Four bytes, the first at the lowest address, as a word (R2, R129). -/
def wordOfBytes (b0 b1 b2 b3 : Byte) : Word := b3 ++ b2 ++ b1 ++ b0

/-- Decode the first word of a list of bytes and give the rest; nothing where there is no whole assigned word. -/
def decodeBytes : List Byte → Option (Instr × List Byte)
  | b0 :: b1 :: b2 :: b3 :: rest =>
    match decodeWord (wordOfBytes b0 b1 b2 b3) with
    | some i => some (i, rest)
    | none => none
  | _ => none

/-- The bytes of a word as it lies in memory (R129). -/
def bytesOfWord (w : Word) : List Byte := [fld w 0 8, fld w 8 8, fld w 16 8, fld w 24 8]

/-- The instruction the decoder reads from a row's bits, numbered as spec/opcode_table.json numbers them. Every row with bits
has one word of 32; the bits above `nbits` are 0. -/
def decodeTableWord (nbits w : Nat) : Option Instr :=
  if nbits ≤ 32 then
    match decodeBytes (bytesOfWord (BitVec.ofNat 32 (w % 2 ^ nbits))) with
    | some (i, _) => some i
    | none => none
  else none

/-- The word of an instruction (Tables 7.1, 7.4, 7.7 to 7.10); nothing for an operation that is no word. -/
def encode : Instr → Option Word
  | .iadd k d a b f h => some (0x0#1 ++ k ++ 0x1#6 ++ d ++ a ++ b ++ f ++ h)
  | .isub k d a b f h => some (0x0#1 ++ k ++ 0x2#6 ++ d ++ a ++ b ++ f ++ h)
  | .imul k d a b f h => some (0x0#1 ++ k ++ 0x3#6 ++ d ++ a ++ b ++ f ++ h)
  | .imad k d a b c => some (0x0#1 ++ k ++ 0x4#6 ++ d ++ a ++ b ++ c)
  | .imnmx k d a b f h => some (0x0#1 ++ k ++ 0x5#6 ++ d ++ a ++ b ++ f ++ h)
  | .logic k d a b f h => some (0x0#1 ++ k ++ 0x6#6 ++ d ++ a ++ b ++ f ++ h)
  | .shift k d a b f h => some (0x0#1 ++ k ++ 0x7#6 ++ d ++ a ++ b ++ f ++ h)
  | .bfe k d a b f h => some (0x0#1 ++ k ++ 0x8#6 ++ d ++ a ++ b ++ f ++ h)
  | .bfi k d a b c => some (0x0#1 ++ k ++ 0x9#6 ++ d ++ a ++ b ++ c)
  | .bitc k d a f h => some (0x0#1 ++ k ++ 0xA#6 ++ d ++ a ++ 0x0#6 ++ f ++ h)
  | .isetp k n p a b s h => some (0x0#1 ++ k ++ 0xB#6 ++ n ++ p ++ a ++ b ++ 0x0#3 ++ s ++ h)
  | .iaddi k d a i => some (0x0#1 ++ k ++ 0xC#6 ++ d ++ a ++ i)
  | .andi k d a i => some (0x0#1 ++ k ++ 0xD#6 ++ d ++ a ++ i)
  | .ori k d a i => some (0x0#1 ++ k ++ 0xE#6 ++ d ++ a ++ i)
  | .xori k d a i => some (0x0#1 ++ k ++ 0xF#6 ++ d ++ a ++ i)
  | .shifti k d a f n => some (0x0#1 ++ k ++ 0x10#6 ++ d ++ a ++ f ++ 0x0#3 ++ n)
  | .dp4 k d a b c => some (0x0#1 ++ k ++ 0x11#6 ++ d ++ a ++ b ++ c)
  | .sad k d a b c => some (0x0#1 ++ k ++ 0x12#6 ++ d ++ a ++ b ++ c)
  | .iadd64 k d a b f h => some (0x0#1 ++ k ++ 0x13#6 ++ d ++ a ++ b ++ f ++ h)
  | .fadd k d a b f h => some (0x0#1 ++ k ++ 0x14#6 ++ d ++ a ++ b ++ f ++ h)
  | .fsub k d a b f h => some (0x0#1 ++ k ++ 0x15#6 ++ d ++ a ++ b ++ f ++ h)
  | .fmul k d a b f h => some (0x0#1 ++ k ++ 0x16#6 ++ d ++ a ++ b ++ f ++ h)
  | .ffma k d a b c => some (0x0#1 ++ k ++ 0x17#6 ++ d ++ a ++ b ++ c)
  | .hfma2 k d a b c => some (0x0#1 ++ k ++ 0x18#6 ++ d ++ a ++ b ++ c)
  | .dfma k d a b c => some (0x0#1 ++ k ++ 0x19#6 ++ d ++ a ++ b ++ c)
  | .bfma2 k d a b c => some (0x0#1 ++ k ++ 0x1A#6 ++ d ++ a ++ b ++ c)
  | .fmnmx k d a b f h => some (0x0#1 ++ k ++ 0x1B#6 ++ d ++ a ++ b ++ f ++ h)
  | .fsetp k n p a b t h => some (0x0#1 ++ k ++ 0x1C#6 ++ n ++ p ++ a ++ b ++ t ++ 0x0#2 ++ h)
  | .sfu k d a f h => some (0x0#1 ++ k ++ 0x1D#6 ++ d ++ a ++ 0x0#6 ++ f ++ h)
  | .fround k d a f h => some (0x0#1 ++ k ++ 0x1E#6 ++ d ++ a ++ 0x0#6 ++ f ++ h)
  | .cvt k d a s r t h => some (0x0#1 ++ k ++ 0x1F#6 ++ d ++ a ++ s ++ r ++ t ++ h)
  | .fdot2 k d a b c => some (0x0#1 ++ k ++ 0x20#6 ++ d ++ a ++ b ++ c)
  | .fclamp k d a b c => some (0x0#1 ++ k ++ 0x21#6 ++ d ++ a ++ b ++ c)
  | .mov k d a f h => some (0x0#1 ++ k ++ 0x22#6 ++ d ++ a ++ 0x0#6 ++ f ++ h)
  | .movi k d i => some (0x0#1 ++ k ++ 0x23#6 ++ d ++ i)
  | .movhi k d i => some (0x0#1 ++ k ++ 0x24#6 ++ d ++ i)
  | .sel k d a b p => some (0x0#1 ++ k ++ 0x25#6 ++ d ++ a ++ b ++ 0x0#3 ++ p)
  | .xlane k d a b f h => some (0x0#1 ++ k ++ 0x26#6 ++ d ++ a ++ b ++ 0x0#2 ++ f ++ h)
  | .vote k d p f h => some (0x0#1 ++ k ++ 0x27#6 ++ d ++ 0x0#3 ++ p ++ 0x0#6 ++ f ++ h)
  | .redux k a f h => some (0x0#1 ++ k ++ 0x28#6 ++ 0x0#6 ++ a ++ 0x0#6 ++ f ++ h)
  | .qpop k d h => some (0x0#1 ++ k ++ 0x29#6 ++ d ++ 0x0#16 ++ h)
  | .qpush k a h => some (0x0#1 ++ k ++ 0x2A#6 ++ 0x0#6 ++ a ++ 0x0#10 ++ h)
  | .ldx k d x i => some (0x0#1 ++ k ++ 0x2B#6 ++ d ++ x ++ i ++ 0x0#8)
  | .stx k d x i => some (0x0#1 ++ k ++ 0x2C#6 ++ d ++ x ++ i ++ 0x0#8)
  | .xset k x a f h => some (0x0#1 ++ k ++ 0x2D#6 ++ 0x0#4 ++ x ++ a ++ 0x0#6 ++ f ++ h)
  | .rdid k d f h => some (0x0#1 ++ k ++ 0x2E#6 ++ d ++ 0x0#12 ++ f ++ h)
  | .ld k d a f o => some (0x0#1 ++ k ++ 0x2F#6 ++ d ++ a ++ f ++ o)
  | .st k d a f o => some (0x0#1 ++ k ++ 0x30#6 ++ d ++ a ++ f ++ o)
  | .atom k d a b f h => some (0x0#1 ++ k ++ 0x31#6 ++ d ++ a ++ b ++ f ++ h)
  | .cas k d a b c => some (0x0#1 ++ k ++ 0x32#6 ++ d ++ a ++ b ++ c)
  | .red k a b f h => some (0x0#1 ++ k ++ 0x33#6 ++ 0x0#6 ++ a ++ b ++ f ++ h)
  | .lds k d a f o => some (0x0#1 ++ k ++ 0x34#6 ++ d ++ a ++ f ++ o)
  | .sts k d a f o => some (0x0#1 ++ k ++ 0x35#6 ++ d ++ a ++ f ++ o)
  | .atoms k d a b f h => some (0x0#1 ++ k ++ 0x36#6 ++ d ++ a ++ b ++ f ++ h)
  | .pref k a f o => some (0x0#1 ++ k ++ 0x37#6 ++ 0x0#6 ++ a ++ f ++ o)
  | .ldlod k d c s f => some (0x0#1 ++ k ++ 0x38#6 ++ d ++ c ++ s ++ f ++ 0x0#2)
  | .sample k d c s f => some (0x0#1 ++ k ++ 0x39#6 ++ d ++ c ++ s ++ f ++ 0x0#2)
  | .bdiv k p j q o => some (0x0#1 ++ k ++ 0x3A#6 ++ p ++ j ++ q ++ o)
  | .join k j => some (0x0#1 ++ k ++ 0x3B#6 ++ 0x7#3 ++ j ++ 0x0#18)
  | .strike k p j => some (0x0#1 ++ k ++ 0x3C#6 ++ p ++ j ++ 0x0#18)
  | .lexit k p => some (0x0#1 ++ k ++ 0x3D#6 ++ p ++ 0x0#21)
  | .callr k p j q o => some (0x0#1 ++ k ++ 0x3E#6 ++ p ++ j ++ q ++ o)
  | .lret k => some (0x0#1 ++ k ++ 0x3F#6 ++ 0xE00000#24)
  | .sadd k d a b f => some (0x1#1 ++ k ++ 0x1#6 ++ d ++ a ++ b ++ f)
  | .ssub k d a b f => some (0x1#1 ++ k ++ 0x2#6 ++ d ++ a ++ b ++ f)
  | .smul k d a b f => some (0x1#1 ++ k ++ 0x3#6 ++ d ++ a ++ b ++ f)
  | .slogic k d a b f => some (0x1#1 ++ k ++ 0x4#6 ++ d ++ a ++ b ++ f)
  | .sshift k d a b f => some (0x1#1 ++ k ++ 0x5#6 ++ d ++ a ++ b ++ f)
  | .smnmx k d a b f => some (0x1#1 ++ k ++ 0x6#6 ++ d ++ a ++ b ++ f)
  | .sbitc k d a f => some (0x1#1 ++ k ++ 0x7#6 ++ d ++ a ++ 0x0#6 ++ f)
  | .scmp k n p a b s => some (0x1#1 ++ k ++ 0x8#6 ++ n ++ p ++ a ++ b ++ 0x0#5 ++ s)
  | .saddi k d a i => some (0x1#1 ++ k ++ 0x9#6 ++ d ++ a ++ i)
  | .sandi k d a i => some (0x1#1 ++ k ++ 0xA#6 ++ d ++ a ++ i)
  | .sori k d a i => some (0x1#1 ++ k ++ 0xB#6 ++ d ++ a ++ i)
  | .sxori k d a i => some (0x1#1 ++ k ++ 0xC#6 ++ d ++ a ++ i)
  | .sshifti k d a f n => some (0x1#1 ++ k ++ 0xD#6 ++ d ++ a ++ f ++ 0x0#3 ++ n)
  | .smovi k d i => some (0x1#1 ++ k ++ 0xE#6 ++ d ++ i)
  | .smovhi k d i => some (0x1#1 ++ k ++ 0xF#6 ++ d ++ i)
  | .sld k d a z o => some (0x1#1 ++ k ++ 0x10#6 ++ d ++ a ++ z ++ o)
  | .sst k d a z o => some (0x1#1 ++ k ++ 0x11#6 ++ d ++ a ++ z ++ o)
  | .satom k d a b f => some (0x1#1 ++ k ++ 0x12#6 ++ d ++ a ++ b ++ f)
  | .ssel k d a b c => some (0x1#1 ++ k ++ 0x13#6 ++ d ++ a ++ b ++ 0x0#3 ++ c)
  | .sbfe k d a b f => some (0x1#1 ++ k ++ 0x14#6 ++ d ++ a ++ b ++ f)
  | .spush k a => some (0x1#1 ++ k ++ 0x15#6 ++ 0x0#6 ++ a ++ 0x0#12)
  | .spop k d => some (0x1#1 ++ k ++ 0x16#6 ++ d ++ 0x0#18)
  | .rdsys k d n => some (0x1#1 ++ k ++ 0x17#6 ++ d ++ n)
  | .wrsys k d n => some (0x1#1 ++ k ++ 0x18#6 ++ d ++ n)
  | .rdcnt k d n => some (0x1#1 ++ k ++ 0x19#6 ++ d ++ n)
  | .bra k c o => some (0x1#1 ++ k ++ 0x1A#6 ++ c ++ 0x0#1 ++ o)
  | .call k c o => some (0x1#1 ++ k ++ 0x1A#6 ++ c ++ 0x1#1 ++ o)
  | .jmpr k a c => some (0x1#1 ++ k ++ 0x1B#6 ++ 0x0#6 ++ a ++ 0x0#9 ++ c)
  | .jmprL k a c => some (0x1#1 ++ k ++ 0x1B#6 ++ 0x0#6 ++ a ++ 0x1#9 ++ c)
  | .ret k a c => some (0x1#1 ++ k ++ 0x1C#6 ++ 0x0#6 ++ a ++ 0x0#9 ++ c)
  | .loop k d i => some (0x1#1 ++ k ++ 0x1D#6 ++ d ++ 0x0#6 ++ i)
  | .exit k c => some (0x1#1 ++ k ++ 0x1E#6 ++ 0x0#21 ++ c)
  | .spawn k d a b => some (0x1#1 ++ k ++ 0x1F#6 ++ d ++ a ++ b ++ 0x0#6)
  | .yield k => some (0x1#1 ++ k ++ 0x20#6 ++ 0x0#24)
  | .nop k => some (0x1#1 ++ k ++ 0x21#6 ++ 0x0#24)
  | .trap k i => some (0x1#1 ++ k ++ 0x22#6 ++ 0x0#6 ++ i)
  | .brk k i => some (0x1#1 ++ k ++ 0x23#6 ++ 0x0#6 ++ i)
  | .tbarMark k n => some (0x1#1 ++ k ++ 0x24#6 ++ 0x0#18 ++ n ++ 0x0#2)
  | .tbarHold k n => some (0x1#1 ++ k ++ 0x24#6 ++ 0x0#18 ++ n ++ 0x1#2)
  | .tbarMeet k n => some (0x1#1 ++ k ++ 0x24#6 ++ 0x0#18 ++ n ++ 0x2#2)
  | .tbarEnrol k n => some (0x1#1 ++ k ++ 0x24#6 ++ 0x0#18 ++ n ++ 0x3#2)
  | .cbarMark k n => some (0x1#1 ++ k ++ 0x25#6 ++ 0x0#20 ++ n ++ 0x0#2)
  | .cbarHold k n => some (0x1#1 ++ k ++ 0x25#6 ++ 0x0#20 ++ n ++ 0x1#2)
  | .cbarMeet k n => some (0x1#1 ++ k ++ 0x25#6 ++ 0x0#20 ++ n ++ 0x2#2)
  | .fence k s => some (0x1#1 ++ k ++ 0x26#6 ++ 0x0#21 ++ s)
  | .xfence k b m s => some (0x1#1 ++ k ++ 0x27#6 ++ b ++ m ++ s ++ 0x0#3)
  | .publish k a => some (0x1#1 ++ k ++ 0x28#6 ++ 0x0#6 ++ a ++ 0x0#12)
  | .evpop k d c => some (0x1#1 ++ k ++ 0x29#6 ++ d ++ 0x0#15 ++ c)
  | .evwait k => some (0x1#1 ++ k ++ 0x2A#6 ++ 0x0#24)
  | .ringwait k a e r => some (0x1#1 ++ k ++ 0x2B#6 ++ 0x0#6 ++ a ++ 0x0#7 ++ e ++ r)
  | .ringpost k a e r => some (0x1#1 ++ k ++ 0x2C#6 ++ 0x0#6 ++ a ++ 0x0#7 ++ e ++ r)
  | .gang k a => some (0x1#1 ++ k ++ 0x2D#6 ++ 0x0#6 ++ a ++ 0x0#12)
  | .obres k o a b => some (0x1#1 ++ k ++ 0x2E#6 ++ 0x0#2 ++ o ++ a ++ b ++ 0x0#6)
  | .obrel k o => some (0x1#1 ++ k ++ 0x2F#6 ++ 0x0#2 ++ o ++ 0x0#18)
  | .mma k t r v w s => some (0x1#1 ++ k ++ 0x30#6 ++ t ++ r ++ v ++ w ++ s)
  | .mchain k t r v w s => some (0x1#1 ++ k ++ 0x31#6 ++ t ++ r ++ v ++ w ++ s)
  | .mclr k t w s => some (0x1#1 ++ k ++ 0x32#6 ++ t ++ 0x0#10 ++ w ++ s)
  | .mld k t p y v w s => some (0x1#1 ++ k ++ 0x33#6 ++ t ++ p ++ y ++ v ++ w ++ s)
  | .mst k t p y v w s => some (0x1#1 ++ k ++ 0x34#6 ++ t ++ p ++ y ++ v ++ w ++ s)
  | .mdrain k t y v w s => some (0x1#1 ++ k ++ 0x35#6 ++ t ++ 0x0#2 ++ y ++ v ++ w ++ s)
  | .mbound k t v w s => some (0x1#1 ++ k ++ 0x36#6 ++ t ++ 0x0#4 ++ v ++ w ++ s)
  | .mwait k w => some (0x1#1 ++ k ++ 0x37#6 ++ 0x0#13 ++ w ++ 0x0#3)
  | .copyG2s k d a b r => some (0x1#1 ++ k ++ 0x38#6 ++ 0x0#7 ++ d ++ a ++ b ++ r)
  | .copyS2g k d a b r => some (0x1#1 ++ k ++ 0x38#6 ++ 0x1#7 ++ d ++ a ++ b ++ r)
  | .copyG2ob k d a b r => some (0x1#1 ++ k ++ 0x38#6 ++ 0x2#7 ++ d ++ a ++ b ++ r)
  | .copyS2ob k d a b r => some (0x1#1 ++ k ++ 0x38#6 ++ 0x3#7 ++ d ++ a ++ b ++ r)
  | .copyG2st k d a b r => some (0x1#1 ++ k ++ 0x38#6 ++ 0x4#7 ++ d ++ a ++ b ++ r)
  | .copyS2gt k d a b r => some (0x1#1 ++ k ++ 0x38#6 ++ 0x5#7 ++ d ++ a ++ b ++ r)
  | .copyG2obt k d a b r => some (0x1#1 ++ k ++ 0x38#6 ++ 0x6#7 ++ d ++ a ++ b ++ r)
  | .copyK16 k d a b r => some (0x1#1 ++ k ++ 0x38#6 ++ 0x7#7 ++ d ++ a ++ b ++ r)
  | .copyG2g k d a b r => some (0x1#1 ++ k ++ 0x38#6 ++ 0x8#7 ++ d ++ a ++ b ++ r)
  | .gathB32 k d a b r => some (0x1#1 ++ k ++ 0x39#6 ++ 0x0#7 ++ d ++ a ++ b ++ r)
  | .gathB64 k d a b r => some (0x1#1 ++ k ++ 0x39#6 ++ 0x1#7 ++ d ++ a ++ b ++ r)
  | .gathB128 k d a b r => some (0x1#1 ++ k ++ 0x39#6 ++ 0x2#7 ++ d ++ a ++ b ++ r)
  | .travCast k d a b r => some (0x1#1 ++ k ++ 0x3A#6 ++ 0x0#7 ++ d ++ a ++ b ++ r)
  | .travOccl k d a b r => some (0x1#1 ++ k ++ 0x3A#6 ++ 0x1#7 ++ d ++ a ++ b ++ r)
  | .travShadow k d a b r => some (0x1#1 ++ k ++ 0x3A#6 ++ 0x2#7 ++ d ++ a ++ b ++ r)
  | .travResume k d a b r => some (0x1#1 ++ k ++ 0x3A#6 ++ 0x3#7 ++ d ++ a ++ b ++ r)
  | .travQuery k d a b r => some (0x1#1 ++ k ++ 0x3A#6 ++ 0x4#7 ++ d ++ a ++ b ++ r)
  | .buildMorton k d a b r => some (0x1#1 ++ k ++ 0x3B#6 ++ 0x0#7 ++ d ++ a ++ b ++ r)
  | .buildSort k d a b r => some (0x1#1 ++ k ++ 0x3B#6 ++ 0x1#7 ++ d ++ a ++ b ++ r)
  | .buildEmit k d a b r => some (0x1#1 ++ k ++ 0x3B#6 ++ 0x2#7 ++ d ++ a ++ b ++ r)
  | .buildRefit k d a b r => some (0x1#1 ++ k ++ 0x3B#6 ++ 0x3#7 ++ d ++ a ++ b ++ r)
  | .buildUpdate k d a b r => some (0x1#1 ++ k ++ 0x3B#6 ++ 0x4#7 ++ d ++ a ++ b ++ r)
  | .buildGenpub k d a b r => some (0x1#1 ++ k ++ 0x3B#6 ++ 0x5#7 ++ d ++ a ++ b ++ r)
  | .buildGenret k d a b r => some (0x1#1 ++ k ++ 0x3B#6 ++ 0x6#7 ++ d ++ a ++ b ++ r)
  | .buildCompact k d a b r => some (0x1#1 ++ k ++ 0x3B#6 ++ 0x7#7 ++ d ++ a ++ b ++ r)
  | .strmIsect k d a b r => some (0x1#1 ++ k ++ 0x3C#6 ++ 0x0#7 ++ d ++ a ++ b ++ r)
  | .strmCisect k d a b r => some (0x1#1 ++ k ++ 0x3C#6 ++ 0x1#7 ++ d ++ a ++ b ++ r)
  | .strmMerge k d a b r => some (0x1#1 ++ k ++ 0x3C#6 ++ 0x2#7 ++ d ++ a ++ b ++ r)
  | .strmDiff k d a b r => some (0x1#1 ++ k ++ 0x3C#6 ++ 0x3#7 ++ d ++ a ++ b ++ r)
  | .collAllred k d a b r => some (0x1#1 ++ k ++ 0x3D#6 ++ 0x0#7 ++ d ++ a ++ b ++ r)
  | .collRedscat k d a b r => some (0x1#1 ++ k ++ 0x3D#6 ++ 0x1#7 ++ d ++ a ++ b ++ r)
  | .collAllgath k d a b r => some (0x1#1 ++ k ++ 0x3D#6 ++ 0x2#7 ++ d ++ a ++ b ++ r)
  | .collBcast k d a b r => some (0x1#1 ++ k ++ 0x3D#6 ++ 0x3#7 ++ d ++ a ++ b ++ r)
  | .lodBind k d a b r => some (0x1#1 ++ k ++ 0x3E#6 ++ 0x0#7 ++ d ++ a ++ b ++ r)
  | .lodMrlset k d a b r => some (0x1#1 ++ k ++ 0x3E#6 ++ 0x1#7 ++ d ++ a ++ b ++ r)
  | .lodMrlrd k d a b r => some (0x1#1 ++ k ++ 0x3E#6 ++ 0x2#7 ++ d ++ a ++ b ++ r)
  | .lodFbpop k d a b r => some (0x1#1 ++ k ++ 0x3E#6 ++ 0x3#7 ++ d ++ a ++ b ++ r)
  | .lodFbstat k d a b r => some (0x1#1 ++ k ++ 0x3E#6 ++ 0x4#7 ++ d ++ a ++ b ++ r)
  | .tlbinv k d a b r => some (0x1#1 ++ k ++ 0x3F#6 ++ 0x0#7 ++ d ++ a ++ b ++ r)
  | .harvest k d a b r => some (0x1#1 ++ k ++ 0x3F#6 ++ 0x1#7 ++ d ++ a ++ b ++ r)
  | .rmapinv k d a b r => some (0x1#1 ++ k ++ 0x3F#6 ++ 0x2#7 ++ d ++ a ++ b ++ r)
  | .profload k d a b r => some (0x1#1 ++ k ++ 0x3F#6 ++ 0x3#7 ++ d ++ a ++ b ++ r)
  | .ctxsave k d a b r => some (0x1#1 ++ k ++ 0x3F#6 ++ 0x4#7 ++ d ++ a ++ b ++ r)
  | .ctxrestore k d a b r => some (0x1#1 ++ k ++ 0x3F#6 ++ 0x5#7 ++ d ++ a ++ b ++ r)
  | .ensetAllowance k d a b r => some (0x1#1 ++ k ++ 0x3F#6 ++ 0x6#7 ++ d ++ a ++ b ++ r)
  | .ensetClearContext k d a b r => some (0x1#1 ++ k ++ 0x3F#6 ++ 0x6#7 ++ d ++ a ++ b ++ r)
  | .trcctl k d a b r => some (0x1#1 ++ k ++ 0x3F#6 ++ 0x7#7 ++ d ++ a ++ b ++ r)
  | .dump k d a b r => some (0x1#1 ++ k ++ 0x3F#6 ++ 0x8#7 ++ d ++ a ++ b ++ r)
  | .linkctlPark k d a b r => some (0x1#1 ++ k ++ 0x3F#6 ++ 0x9#7 ++ d ++ a ++ b ++ r)
  | .linkctlWake k d a b r => some (0x1#1 ++ k ++ 0x3F#6 ++ 0x9#7 ++ d ++ a ++ b ++ r)
  | .linkctlSetWakeDepth k d a b r => some (0x1#1 ++ k ++ 0x3F#6 ++ 0x9#7 ++ d ++ a ++ b ++ r)
  | .linkctlReadStatus k d a b r => some (0x1#1 ++ k ++ 0x3F#6 ++ 0x9#7 ++ d ++ a ++ b ++ r)
  | .launch k d a b r => some (0x1#1 ++ k ++ 0x3F#6 ++ 0xA#7 ++ d ++ a ++ b ++ r)
  | .fresumeWrite _ => none
  | .registerWrite _ _ _ _ => none
  | .lqheadWrite _ _ => none
  | .debugResume _ _ => none
  | .pctlDrainWrite _ _ => none
  | .pctlReset _ => none
  | .hostBar2Read _ _ => none
  | .hostBar2Write _ _ _ => none
  | .moduleReset _ _ => none
  | .helmLaneFetch => none
  | .breakpointStop _ => none
  | .runArbitration _ _ => none
  | .ageUrgent _ _ => none
  | .resultWriteback => none
  | .loadReturn => none
  | .runParkEnd => none
  | .yieldExpiry => none
  | .commitRetire => none
  | .matrixWordStart _ => none
  | .matrixWordComplete _ => none
  | .promotionReplayEnd _ => none
  | .commandAccept => none
  | .commandStart _ => none
  | .recordPlace _ => none
  | .enginePageRetry _ => none
  | .faultTake => none
  | .pageRequest => none
  | .teamSave _ _ => none
  | .pageRestoreWalk _ => none
  | .teamRestore _ _ => none
  | .barrierReleaseReady => none
  | .fenceComplete => none
  | .xfenceComplete => none
  | .publishComplete => none
  | .launchAccept _ => none
  | .launchWaitPoll _ => none
  | .teamPlace _ => none
  | .launchFinish _ => none
  | .admissionWindow => none
  | .nodeTailPoll _ => none
  | .batchFire _ => none
  | .tagWaitTimeout _ => none
  | .pendingBitFlush _ _ => none
  | .ctimeAdvance _ => none
  | .residencyEntryExpire _ _ => none
  | .tempoTick => none
  | .feedbackFilterClear => none
  | .energyBoundary _ => none
  | .sliceRequestEnter _ _ => none
  | .dirRead _ _ => none
  | .dirOwnership _ _ => none
  | .dirHomeWrite _ => none
  | .dirHomeRead _ => none
  | .rdcEvict _ _ => none
  | .filterVictim _ => none
  | .leaseRecall _ _ => none
  | .peerInboundAccess _ _ _ _ _ => none
  | .peerReply _ => none
  | .peerTimeout _ => none
  | .rayNodeRead _ => none
  | .rayEnd _ => none
  | .rootRewrite _ _ => none
  | .compactReclaim _ => none
  | .drainDeadline _ => none
  | .selfWakeCompare _ => none
  | .wakeComplete _ => none
  | .wavelengthFail _ _ => none
  | .flitCrcError _ => none
  | .linkRetrain _ => none
  | .retrainComplete _ _ => none
  | .dieReset _ => none
  | .dieReturn _ _ => none
  | .homeDieWaitExpire => none
  | .spareApply _ _ _ _ => none
  | .slaliaRetrain _ => none
  | .slaliaLost => none
  | .thermalSample _ _ _ => none
  | .thermalLevelReturn _ => none
  | .softError _ _ _ => none
  | .patrolScrub _ _ => none
  | .storePerformed => none
  | .sldResultReturn => none

/-- The instruction the decoder answers for the instruction's word: itself, but for the rows that share a word with an earlier row
of the table (`cop.sys.enset`, `cop.sys.linkctl`). -/
def Instr.wordForm : Instr → Instr
  | .ensetClearContext k d a b r => .ensetAllowance k d a b r
  | .linkctlWake k d a b r => .linkctlPark k d a b r
  | .linkctlSetWakeDepth k d a b r => .linkctlPark k d a b r
  | .linkctlReadStatus k d a b r => .linkctlPark k d a b r
  | i => i

end Sys2Proof
end

