-- ==== Sys2Proof/Machine/Coherence.lean ====
section
/-!
DEFINITION. Device memory at its points of performance: homes and slices (05 R86), the L2 and RDC (R98 to R100, 19 R368), the
directory (R101, R369), logical times and leases (06 R108 to R111), peer forwarding (R97), recalls (24 R413). The bytes of device
memory are `State.mem`; the caches hold which lines are where, under which lease, and the data of L1 lines.
-/
namespace Sys2Proof.Machine

/-- The team that executes and every other resident team. -/
def State.allTeams (s : State) : List Team := if s.team.uid = 0 then s.teams else s.team :: s.teams

/-- Changes the team of a given number, wherever it stands. -/
def State.modTeam (s : State) (uid : Nat) (f : Team → Team) : State :=
  if s.team.uid = uid then { s with team := f s.team }
  else { s with teams := s.teams.map (fun t => if t.uid = uid then f t else t) }

def State.core (s : State) (c : Nat) : Core := look s.cores c {}
def State.modCore (s : State) (c : Nat) (f : Core → Core) : State := { s with cores := change s.cores c {} f }
def State.die (s : State) (d : Nat) : Die := look s.dies d {}
def State.modDie (s : State) (d : Nat) (f : Die → Die) : State := { s with dies := change s.dies d {} f }

/-- Die of a core (R12). -/
def dieOf (core : Nat) : Nat := core / 96

/-- Home die of a line (R84): PA[38:36]. -/
def homeOf (line : Nat) : Nat := line / 2 ^ 29 % 8

/-- Slice of a device-memory PA (R86). -/
def sliceOf (pa : Nat) : Nat :=
  bits pa 10 7 ^^^ bits pa 14 11 ^^^ bits pa 18 15 ^^^ bits pa 22 19 ^^^ bits pa 26 23 ^^^ bits pa 30 27 ^^^ bits pa 34 31 ^^^
    bits pa 35 35

/-- Slice of a line. -/
def sliceOfLine (line : Nat) : Nat := sliceOf (128 * line)

/-- The slice that serves a line: its own, or its partner where its own is out of service (Table 26.2). -/
def servingSlice (s : State) (line : Nat) : Nat :=
  let out := (s.die (homeOf line)).slicesOut
  let sl := sliceOfLine line
  if out.contains sl && !out.contains (sl ^^^ 1) then sl ^^^ 1 else sl

/-- Whether a channel of a die serves no PA: it is out of service, or both slices of its pair are (Table 26.2). -/
def channelDown (d : Die) (c : Nat) : Bool := d.channelsOut.contains c || (d.slicesOut.contains (2 * c) && d.slicesOut.contains (2 * c + 1))

/-- Whether a die serves no access to a device-memory PA homed on it (R447, R449). -/
def noService (d : Die) (pa : Nat) : Bool := d.outOfService || channelDown d (sliceOf pa / 2)

/-- Whether a device-memory PA is backed (R85). -/
def backed (pa : Nat) : Bool := decide (pa < 2 ^ 39) && decide (pa % 2 ^ 36 < Config.backedBytes)

/-- The ways partition `n` may fill, of a die (d below 8) or of RDC partition d - 8 (R98). -/
def waysOf (s : State) (d n : Nat) : Half := look s.hub.wayMask (8 * d + n) 0xFFFF

/-- The way a fill takes among the permitted ways (Table 5.7): a free one, or the victim of the policies. `held` lists the set's
lines as (way, policy, used). -/
def chooseWay (mask : Half) (held : List (Nat × BitVec 2 × Nat)) : Option Nat :=
  let ways := (List.range 16).filter (fun w => mask.getLsbD w)
  match ways.find? (fun w => !held.any (fun h => h.1 = w)) with
  | some w => some w
  | none =>
    let inWays := held.filter (fun h => ways.contains h.1)
    let pool := if inWays.any (fun h => h.2.1 ≠ 2) then inWays.filter (fun h => h.2.1 ≠ 2) else inWays
    ((sortBy (fun h => h.2.2) pool).head?).map (fun h => h.1)

/-- A line leaves an L2 slice: the slice register takes its RTS (R108); a dirty one is written to its channel, whose cells hold it without error. -/
def l2Evict (s : State) (line : Nat) : State :=
  let dirty := (s.die (homeOf line)).l2.any fun e => e.line = line && e.dirty
  let s := if dirty && !s.damage.isEmpty then { s with damage := s.damage.filter fun x => x.1 ≠ line } else s
  s.modDie (homeOf line) fun d =>
    match d.l2.find? (fun e => e.line = line) with
    | none => d
    | some e =>
      { d with l2 := d.l2.filter (fun x => x.line ≠ line),
               evicted := change d.evicted (servingSlice s line) 0 (fun r => max r e.rts) }

/-- A fill of a line into its home slice under a way partition and a policy (R98, Table 5.7). -/
def l2Fill (s : State) (line waypart policy : Nat) : State :=
  let h := homeOf line
  let d := s.die h
  if d.l2.any (fun e => e.line = line) then
    s.modDie h fun d => { d with l2 := d.l2.map (fun e => if e.line = line then { e with used := s.clock } else e) }
  else if policy = 3 then s
  else
    let retired := look d.waysOut (servingSlice s line) 0
    let mask := waysOf s h waypart &&& ~~~(BitVec.ofNat 16 retired)
    let set := d.l2.filter (fun e => e.line % 4096 = line % 4096 && servingSlice s e.line = servingSlice s line)
    match chooseWay mask (set.map fun e => (e.way, e.policy, e.used)) with
    | none => s
    | some w =>
      let s := match set.find? (fun e => e.way = w) with
        | some e => l2Evict s e.line
        | none => s
      s.modDie h fun d =>
        let r := look d.evicted (servingSlice s line) 0
        { d with l2 := d.l2 ++ [{ line := line, way := w, policy := BitVec.ofNat 2 policy, dirty := false, wts := r, rts := r,
                                  used := if policy = 1 then 0 else s.clock }] }

/-- WTS and RTS of a line at its home slice (R108): those of the resident line, or the slice register. -/
def homeStamps (s : State) (line : Nat) : Nat × Nat :=
  let d := s.die (homeOf line)
  match d.l2.find? (fun e => e.line = line) with
  | some e => (e.wts, e.rts)
  | none => let r := look d.evicted (servingSlice s line) 0; (r, r)

/-- Sets them; for a line that is not resident the slice register keeps the larger time. -/
def setHomeStamps (s : State) (line w r : Nat) (dirty : Bool) : State :=
  s.modDie (homeOf line) fun d =>
    if d.l2.any (fun e => e.line = line) then
      { d with l2 := d.l2.map (fun e => if e.line = line then { e with wts := w, rts := r, dirty := e.dirty || dirty } else e) }
    else { d with evicted := change d.evicted (servingSlice s line) 0 (fun x => max x (max w r)) }

/-- The RDC line partition n holds. -/
def rdcLine (s : State) (n line : Nat) : Option RdcLine := (s.die n).rdc.find? (fun e => e.line = line)

/-- Removes a copy from partition n; its times go to the home (R111). -/
def rdcDrop (s : State) (n line : Nat) : State :=
  match rdcLine s n line with
  | none => s
  | some e =>
    let h := homeStamps s line
    let s := setHomeStamps s line (max h.1 e.wts) (max h.2 e.rts) (e.state = .M || e.state = .O)
    s.modDie n fun d => { d with rdc := d.rdc.filter (fun x => x.line ≠ line) }

/-- Sets the directory entry of a line; presence 0 frees it. -/
def setDir (s : State) (line : Nat) (presence : Byte) (owner : Option Nat) : State :=
  s.modDie (homeOf line) fun d =>
    let rest := d.directory.filter (fun e => e.line ≠ line)
    { d with directory := if presence = 0 then rest else rest ++ [{ line := line, presence := presence, owner := owner,
                                                                    used := s.clock }] }

def dirEntry (s : State) (line : Nat) : Option DirEntry := (s.die (homeOf line)).directory.find? (fun e => e.line = line)

/-- Partitions of a presence vector. -/
def partitions (p : Byte) : List Nat := (List.range 8).filter (fun n => p.getLsbD n)

/-- Removes every copy outside the home and frees the entry (R101 home-die store, filter victim; R102). -/
def dropRemote (s : State) (line : Nat) : State :=
  match dirEntry s line with
  | none => s
  | some e => setDir ((partitions e.presence).foldl (fun s n => rdcDrop s n line) s) line 0 none

/-- Frees a place in the line's filter set when the set is full (R369). -/
def makeDirRoom (s : State) (line : Nat) : State :=
  let set := (s.die (homeOf line)).directory.filter
    (fun e => e.line % 16384 = line % 16384 && servingSlice s e.line = servingSlice s line)
  if set.length < 16 then s
  else match (sortBy (fun e : DirEntry => e.used) set).head? with
    | some v => dropRemote s v.line
    | none => s

/-- Changes the state of partition n's copy. -/
def setRdc (s : State) (n line : Nat) (f : RdcLine → RdcLine) : State :=
  s.modDie n fun d => { d with rdc := d.rdc.map (fun e => if e.line = line then f e else e) }

/-- The links that traffic between a compute die and the landing crosses (R446). -/
def routeLinks (s : State) (d : Nat) : List Nat :=
  match (s.die d).route with
  | none => [d]
  | some m => [if m = (d + 1) % 8 then 8 + d else 8 + m, m]

/-- Whether a link between a die and the landing retrains, which holds the traffic (R445). -/
def dieCut (s : State) (d : Nat) : Bool := !s.links.isEmpty && (routeLinks s d).any fun k => (look s.links k {}).retraining

/-- A dirty line stays in its partition while its home die is in reset (R447) or its write-back is held at a link (R370, R445). -/
def rdcStays (s : State) (e : RdcLine) : Bool :=
  (e.state = .M || e.state = .O) && ((s.die (homeOf e.line)).inReset || dieCut s (homeOf e.line))

/-- Partition n gives a line up (Table 5.9, evictions). -/
def rdcEvictLine (s : State) (n line : Nat) : State :=
  if ((rdcLine s n line).map (rdcStays s)).getD false then s else
  match rdcLine s n line, dirEntry s line with
  | some _, some e =>
    let s := rdcDrop s n line
    let p := e.presence &&& ~~~(BitVec.ofNat 8 (2 ^ n))
    setDir s line p (if e.owner = some n then none else e.owner)
  | some _, none => rdcDrop s n line
  | none, _ => s

/-- The lines of the set of a line in partition n (notes/assumptions/6.md): 32,768 sets of 16 ways, PRESUMED. -/
def rdcSet (s : State) (n line : Nat) : List RdcLine := (s.die n).rdc.filter fun e => e.line % 32768 = line % 32768

/-- The ways a fill of partition n may take: those of its mask (Table 5.6) but for those of lines that stay (R447). -/
def rdcWays (s : State) (n line waypart : Nat) : Half :=
  (rdcSet s n line).foldl (fun m e => if rdcStays s e then m &&& ~~~(BitVec.ofNat 16 (2 ^ e.way)) else m) (waysOf s (8 + n) waypart)

/-- Whether partition n can place a fill (Table 5.6, Table 5.7): neither the policy nor an empty way mask makes it a bypass. -/
def rdcPlaces (s : State) (n line waypart policy : Nat) : Bool := policy ≠ 3 && rdcWays s n line waypart ≠ 0

/-- Places a line in partition n with the home's times (R98, R111), unless its policy is bypass (Table 5.7). -/
def rdcFill (s : State) (n line waypart policy : Nat) (st : Moesi) : State :=
  if policy = 3 then s else
  let set := rdcSet s n line
  let t := homeStamps s line
  match chooseWay (rdcWays s n line waypart) (set.map fun e => (e.way, e.policy, e.used)) with
  | none => s
  | some w =>
    let s := match set.find? (fun e => e.way = w) with
      | some e => rdcEvictLine s n e.line
      | none => s
    s.modDie n fun d =>
      { d with rdc := d.rdc.filter (fun e => e.line ≠ line) ++
          [{ line := line, state := st, wts := t.1, rts := t.2, way := w, policy := BitVec.ofNat 2 policy,
             used := if policy = 1 then 0 else s.clock }] }

/-- Brings the times a partition holds to the home slice, without removing the copy (R111). -/
def stampsHome (s : State) (n line : Nat) : State :=
  match rdcLine s n line with
  | none => s
  | some e => let h := homeStamps s line; setHomeStamps s line (max h.1 e.wts) (max h.2 e.rts) (e.state = .M || e.state = .O)

/-- Table 5.9, a read request of RDn at the home slice. -/
def dirReadReq (s : State) (line n waypart policy : Nat) : State :=
  match dirEntry s line with
  | none =>
    let s := if rdcPlaces s n line waypart policy then makeDirRoom s line else s
    let s := rdcFill s n line waypart policy .E
    if (rdcLine s n line).isSome then setDir s line (BitVec.ofNat 8 (2 ^ n)) (some n) else s
  | some e =>
    if e.presence.getLsbD n then s
    else
      let bit : Byte := BitVec.ofNat 8 (2 ^ n)
      match e.owner with
      | none =>
        let s := rdcFill s n line waypart policy .S
        setDir s line (if (rdcLine s n line).isSome then e.presence ||| bit else e.presence) none
      | some m =>
        let was := ((rdcLine s m line).map (fun x => x.state)).getD .E
        let s := stampsHome s m line
        let s := setRdc s m line fun x => { x with state := if was = .E then .S else .O }
        let s := rdcFill s n line waypart policy .S
        let owner := if was = .E then none else some m
        setDir s line (if (rdcLine s n line).isSome then e.presence ||| bit else e.presence) owner

/-- Table 5.9, an ownership request of RDn. -/
def dirOwnReq (s : State) (line n waypart policy : Nat) : State :=
  let others := ((dirEntry s line).map (fun e => (partitions e.presence).filter (· ≠ n))).getD []
  let s := if (dirEntry s line).isSome || !rdcPlaces s n line waypart policy then s else makeDirRoom s line
  let s := others.foldl (fun s m => rdcDrop s m line) s
  let s := stampsHome s n line
  let s := if (rdcLine s n line).isSome then setRdc s n line fun x =>
      { x with state := .M, wts := (homeStamps s line).1, rts := (homeStamps s line).2 }
    else rdcFill s n line waypart policy .M
  if (rdcLine s n line).isSome then setDir s line (BitVec.ofNat 8 (2 ^ n)) (some n) else setDir s line 0 none

/-- Table 5.9, a home-die read: an owner's line is recalled. -/
def dirHomeReadReq (s : State) (line : Nat) : State :=
  match dirEntry s line with
  | some e =>
    match e.owner with
    | some m => setDir (setRdc (stampsHome s m line) m line fun x => { x with state := .S }) line e.presence none
    | none => setDir s line e.presence none
  | none => s

/-- A request served by an island for a context (R357). -/
def countServed (s : State) (island : Nat) (asid : BitVec 12) : State :=
  { s with served := change s.served (4096 * island + asid.toNat) 0 (· + 1) }

/-- The queue of a slice at a half clock (R366): the half clocks in which its entries free. Those that are free by then are taken out of it once 32 are listed. -/
def sliceQueue (s : State) (die slice at_ : Nat) : List Nat :=
  let q := look (s.die die).queued slice []
  if q.length < 32 then q else q.filter fun t => at_ < t

/-- The place, two to a fabric clock, at which the next line request of a core leaves its L1 (R367). -/
def nextSend (s : State) (core : Nat) : Nat := max (2 * ((2 * s.clock + 2) / 3)) (s.core core).sent

/-- The half clock in which the next request of a source comes to a slice: fabric clocks are three half clocks each. -/
def arrival (s : State) (src : Nat) : Nat := if src < 768 then 3 * (nextSend s src / 2) else (2 * s.clock + 2) / 3 * 3

/-- The request has left its core. -/
def noteSend (s : State) (src : Nat) : State := if src < 768 then s.modCore src fun c => { c with sent := nextSend s src + 1 } else s

/-- A request enters the queue of its slice at a half clock (R366): a read that hits takes two fabric clocks from the one in which it reaches the head;
how long another takes is free. -/
def enterSlice (s : State) (r : SliceReq) (at_ : Nat) : State :=
  let d := r.slice / 16
  let q := sliceQueue s d (r.slice % 16) at_
  let head := max at_ ((q.filter fun t => at_ < t).getLastD 0)
  let n := if r.hit then 2 else 1 + Config.freeService head r.slice
  s.modDie d fun x => { x with queued := put x.queued (r.slice % 16) (q ++ [head + 3 * n]) [] }

/-- The oldest held request of each source, with its place among all of them; `seen` are the sources that have one before `k`. -/
def heldHeads (seen : List Nat) (k : Nat) : List SliceReq → List (SliceReq × Nat)
  | [] => []
  | r :: rest => if seen.contains r.src then heldHeads seen (k + 1) rest else (r, k) :: heldHeads (r.src :: seen) (k + 1) rest

/-- The oldest held request at a slice's port: no older one of its core stands before it (R366, R367). -/
def atPort (s : State) (slice : Nat) : Option (SliceReq × Nat) := (heldHeads [] 0 s.injected).find? fun x => x.1.slice = slice

/-- Whether a request that comes to its slice now is refused there, or stands behind a held one of its core (R366, R367). -/
def refused (s : State) (r : SliceReq) : Bool :=
  s.injected.any (fun x => x.src = r.src) || (atPort s r.slice).isSome ||
    32 ≤ (sliceQueue s (r.slice / 16) (r.slice % 16) (arrival s r.src)).length

/-- A line request leaves for its slice: it enters, or is held; one of a line for which a held request of the core has entered is made already. -/
def requestSlice (s : State) (r : SliceReq) : State :=
  if s.granted.contains (r.src, r.line) then { s with granted := s.granted.filter (· ≠ (r.src, r.line)) }
  else
    let t := noteSend s r.src
    if refused s r then { t with injected := s.injected ++ [r] } else enterSlice t r (arrival s r.src)

/-- A line leaves its slice for a core (R413): the slice records the fill. -/
def noteFill (s : State) (core line : Nat) (tag : Byte) : State :=
  if dieOf core ≠ homeOf line then s
  else s.modDie (homeOf line) fun d =>
    let sl := servingSlice s line
    let fills := d.fills.filter (fun f => f.2.1 ≠ line) ++ [(sl, line, core, tag)]
    let extra := (fills.filter (fun f => f.1 = sl)).length - 32
    { d with fills := if extra = 0 then fills else removeFirst (fun f => f.1 = sl) fills }

/-- A store or atomic is performed on a line at its home slice: the core that the slice recorded for the line is sent a recall (R413). -/
def sendRecall (s : State) (line : Nat) : State :=
  match (s.die (homeOf line)).fills.find? fun f => f.2.1 = line with
  | some f =>
    { s.modDie (homeOf line) fun d => { d with fills := d.fills.filter fun f => f.2.1 ≠ line } with recalls := s.recalls ++ [(f.2.2.1, line, f.2.2.2)] }
  | none => s

/-- The request that a source makes of the home slice of a line. -/
def lineRequest (s : State) (src line : Nat) (own : Bool) : SliceReq :=
  { src := src, slice := 16 * homeOf line + servingSlice s line, hit := !own && (s.die (homeOf line)).l2.any (fun e => e.line = line), line := line }

/-- Whether partition n serves an access without asking the line's home (R99, R101). -/
def rdcServes (s : State) (n line : Nat) (own : Bool) : Bool :=
  match rdcLine s n line with
  | some e => !own || e.state = .M || e.state = .E
  | none => false

/-- The islands that serve a request of die n for a line (Table 1.3, R357): the local crossbar of a core's rank, the die's central crossbar;
the home slice of a line of the die, in whose queue the request stands (R366); the RDC partition for another line and, where it must ask the home, the home's
crossbar and slice. -/
def countRequest (s : State) (core : Option Nat) (n line : Nat) (own : Bool) (asid : BitVec 12) : State :=
  let h := homeOf line
  let s := match core with
    | some c => countServed s (896 + 12 * n + c % 96 / 8) asid
    | none => s
  let s := countServed s (992 + n) asid
  let r := lineRequest s (core.getD (768 + n)) line own
  let slice (s : State) : State := requestSlice (countServed s (768 + r.slice) asid) r
  if h = n then slice s
  else
    let s := countServed s (1000 + n) asid
    if rdcServes s n line own then s else slice (countServed s (992 + h) asid)

/-- A read of a line by die n reaches the copy that serves it (R99, R101). -/
def reachRead (s : State) (n line : Nat) (c : Caching) : State :=
  if homeOf line = n then l2Fill (dirHomeReadReq s line) line c.waypart c.policy
  else if (rdcLine s n line).isSome then setRdc s n line fun x => { x with used := s.clock }
  else dirReadReq s line n c.waypart c.policy

/-- A store or atomic by die n reaches its point of performance (R99, R101, R368). -/
def reachWrite (s : State) (n line : Nat) (c : Caching) : State :=
  if homeOf line = n then sendRecall (l2Fill (dropRemote s line) line c.waypart c.policy) line
  else match rdcLine s n line with
    | some e =>
      if e.state = .M then setRdc s n line fun x => { x with used := s.clock }
      else if e.state = .E then setRdc s n line fun x => { x with state := .M, used := s.clock }
      else dirOwnReq s line n c.waypart c.policy
    | none => dirOwnReq s line n c.waypart c.policy

/-- WTS and RTS at the copy that serves die n. -/
def stamps (s : State) (n line : Nat) : Nat × Nat :=
  if homeOf line = n then homeStamps s line
  else match rdcLine s n line with
    | some e => (e.wts, e.rts)
    | none => homeStamps s line

def setStamps (s : State) (n line w r : Nat) (dirty : Bool) : State :=
  if homeOf line = n then setHomeStamps s line w r dirty
  else if (rdcLine s n line).isSome then setRdc s n line fun x => { x with wts := w, rts := r }
  else setHomeStamps s line w r dirty

/-- LEN of a context (Table 6.1). -/
def leaseLen (s : State) (asid : BitVec 12) : Nat := max 8 ((look s.hub.ctx asid.toNat {}).lease.toNat % 65536)

/-- A line's 1,024 bits. -/
def lineData (m : Memory) (line : Nat) : BitVec 1024 := BitVec.ofNat 1024 (memRead m (128 * line) 128)

/-- Units of 32 KiB the scratchpad takes (R95), and the L1's lines. -/
def l1Lines (s : State) (core : Nat) : Nat :=
  let sum := (s.allTeams.filter (fun t => t.core = core)).foldl (fun a t => a + t.scratchSize) 0
  (12 - min 10 ((sum + 32767) / 32768)) * 256

/-- Places a line in the L1 of a core; a full L1 drops one (05 gives no order: notes/assumptions/3.md). -/
def l1Put (s : State) (core : Nat) (e : L1Line) : State :=
  let c := s.core core
  let rest := c.l1.filter (fun x => x.line ≠ e.line)
  if rest.length < l1Lines s core then s.modCore core fun c => { c with l1 := rest ++ [e] }
  else
    let v := Config.freeVictim s.free % rest.length
    { (s.modCore core fun c => { c with l1 := rest.eraseIdx v ++ [e] }) with free := s.free + 1 }

def setCtime (s : State) (core t : Nat) : State := s.modCore core fun c => { c with ctime := max c.ctime t }

/-- The end of a window of 16 clocks in which a group of the core has issued a lane-path load: CTIME rises by at least 1 (R109). -/
def endWindow (s : State) (core : Nat) : State :=
  { s.modCore core fun c => { c with ctime := c.ctime + 1 + Config.freeAdvance s.free, loaded := false } with free := s.free + 1 }

/-- CTIME as it stands at a core's next event: the window of its last loads, if that is over, has raised it (R109). -/
def settleCtime (s : State) (core : Nat) : State :=
  if (s.core core).loaded && (s.core core).window + 16 ≤ s.clock then endWindow s core else s

/-- The L1 line of a core, if it holds it; a recall that was held against its fill is applied once the fill's reply has landed (R413). -/
def l1Line (s : State) (core line : Nat) : Option L1Line :=
  (s.core core).l1.find? fun e => e.line = line && !(e.recalled && decide (e.lands ≤ s.clock))

/-- Records the fill for the quay's predictor (R97). -/
def notePredictor (s : State) (core line : Nat) : State :=
  { s with predictors := change s.predictors (core / 8) [] (fun p => put p (line % 256) (core % 8) 0) }

/-- Whether a lane-path load of a line by a core is served by a lease the L1 holds (R108). -/
def l1Valid (s : State) (core line : Nat) : Bool :=
  match l1Line s core line with
  | some e => decide ((s.core core).ctime ≤ e.rts)
  | none => false

/-- The peer's line that serves an L1 read miss (R97): of the predicted core of the quay, under a lease that has not expired. A line that the own L1 holds
under an expired lease is no miss: it is renewed (R113). -/
def peerLine (s : State) (core line : Nat) : Option L1Line :=
  let peer := 8 * (core / 8) + look (look s.predictors (core / 8) []) (line % 256) 0
  if peer ≠ core && (l1Line s core line).isNone then
    match l1Line s peer line with
    | some e => if (s.core core).ctime ≤ e.rts then some e else none
    | none => none
  else none

/-- Brings a line into the L1 under a lease that covers the core's CTIME, and the core's CTIME up to the line's write (R108): a valid
lease, a peer's (R97), or a fill or renewal. -/
def l1Load (s : State) (core line : Nat) (len : Nat) (c : Caching) (asid : BitVec 12) (peers : Bool) : State :=
  if l1Valid s core line then
    match l1Line s core line with
    | some e => setCtime s core e.wts
    | none => s
  else
    match (if peers then peerLine s core line else none) with
    | some e => setCtime (notePredictor (l1Put s core { e with recalled := false }) core line) core e.wts
    | none =>
      let n := dieOf core
      let ct := (s.core core).ctime
      let s := reachRead (countRequest s (some core) n line false asid) n line c
      let (w, r) := stamps s n line
      let lease := max ct w + len
      let tag := (s.core core).ttag
      let s := setStamps s n line w (max r lease) false
      let s := l1Put s core { line := line, data := lineData s.mem line, wts := w, rts := lease, ttag := tag,
                              lands := s.clock + Config.freeFill s.clock line }
      let s := s.modCore core fun k => { k with ttag := tag + 1 }
      setCtime (noteFill (notePredictor s core line) core line tag) core w

/-- Whether a lane-path access of a core to a line is served without a request to the line's home slice. -/
def servedNear (s : State) (core line : Nat) (own : Bool) : Bool :=
  (!own && (l1Valid s core line || (peerLine s core line).isSome)) || (homeOf line ≠ dieOf core && rdcServes s (dieOf core) line own)

/-- A lane-path access asks the slice of its line (R366, R367): whether it can be performed now; one whose request is held waits until the request enters. -/
def askSlice (s : State) (core : Nat) (t : Target) (own : Bool) : State × Bool :=
  match t with
  | .device pa =>
    let line := pa / 128
    if s.injected.any (fun x => x.src = core && x.line = line) then (s, false)
    else if servedNear s core line own || s.granted.contains (core, line) || !refused s (lineRequest s core line own) then (s, true)
    else ({ s with injected := s.injected ++ [{ lineRequest s core line own with waits := true }] }, false)
  | _ => (s, true)

/-- `n` bytes at offset `o` of a line's data. -/
def lineBytes (d : BitVec 1024) (o n : Nat) : Nat := d.toNat / 2 ^ (8 * o) % 2 ^ (8 * n)

/-- A lane-path load of device memory (R108), in a group's own window (R109). -/
def laneLoad (s : State) (core pa n len : Nat) (c : Caching) (asid : BitVec 12) : State × Nat :=
  let line := pa / 128
  let s := l1Load s core line len c asid true
  match l1Line s core line with
  | some e => (s, lineBytes e.data (pa % 128) n)
  | none => (s, memRead s.mem pa n)

/-- A write to device or host memory is noted in front of it (R121); before any launch has written there is nothing that a fetch must not see. -/
def noteCode (s : State) (who : Option Nat) (host : Bool) (a n : Nat) : State :=
  if who.isNone && s.codeLog.isEmpty then s
  else { s with codeLog := { who := who, host := host, addr := a, old := memBytes (if host then s.hostMem else s.mem) a n } :: s.codeLog }

/-- A lane-path store or atomic of device memory, its new value already computed (R108). -/
def laneStore (s : State) (core pa n v : Nat) (c : Caching) (asid : BitVec 12) : State :=
  let line := pa / 128
  let d := dieOf core
  let s := reachWrite (countRequest s (some core) d line true asid) d line c
  let (_, r) := stamps s d line
  let w := max (s.core core).ctime (r + 1)
  let s := noteCode (setStamps s d line w w true) (some s.team.seqNo) false pa n
  let s := { s with mem := memWrite s.mem pa n v }
  let s := setCtime s core w
  match l1Line s core line with
  | some _ => s.modCore core fun k =>
      { k with l1 := k.l1.map (fun e => if e.line = line then { e with data := lineData s.mem line, wts := w, rts := w } else e) }
  | none => s

/-- A read at the point of performance of die n that takes no lease (R117). -/
def pointRead (s : State) (die pa n : Nat) (c : Caching) : State × Nat := (reachRead s die (pa / 128) c, memRead s.mem pa n)

/-- A write at the point of performance of die n, of a launch or of none: WTS = RTS + 1 (R117). -/
def pointWrite (s : State) (die pa n v : Nat) (c : Caching) (who : Option Nat := none) : State :=
  let line := pa / 128
  let s := reachWrite s die line c
  let (_, r) := stamps s die line
  { noteCode (setStamps s die line (r + 1) (r + 1) true) who false pa n with mem := memWrite s.mem pa n v, engWts := max s.engWts (r + 1) }

/-- An engine read for a context, of a unit of a core or of the die. -/
def engineRead (s : State) (die pa n : Nat) (c : Caching) (asid : BitVec 12) (core : Option Nat := none) : State × Nat :=
  pointRead (countRequest s core die (pa / 128) false asid) die pa n c

/-- An engine write for a context. -/
def engineWrite (s : State) (die pa n v : Nat) (c : Caching) (asid : BitVec 12) (core : Option Nat := none) (who : Option Nat := none) : State :=
  pointWrite (countRequest s core die (pa / 128) true asid) die pa n v c who

/-- The pieces of `n` bytes at `pa` that lie in one line each: offset and length. -/
def lineChunks (pa n : Nat) : List (Nat × Nat) :=
  (List.range ((pa % 128 + n + 127) / 128)).map fun k =>
    let lo := 128 * k - pa % 128
    let hi := min n (128 * (k + 1) - pa % 128)
    (lo, hi - lo)

/-- An engine write of any length, line by line. -/
def engineWriteN (s : State) (die pa n v : Nat) (c : Caching) (asid : BitVec 12) (core : Option Nat := none) (who : Option Nat := none) : State :=
  (lineChunks pa n).foldl (fun s k => engineWrite s die (pa + k.1) k.2 (v / 256 ^ k.1) c asid core who) s

/-- An engine read of any length. -/
def engineReadN (s : State) (die pa n : Nat) (c : Caching) (asid : BitVec 12) (core : Option Nat := none) : State × Nat :=
  ((lineChunks pa n).foldl (fun s k => (engineRead s die (pa + k.1) k.2 c asid core).1) s, memRead s.mem pa n)

/-- A device-scope write by a hub unit, performed at the line's home for no context (R392, R359, R348); a line stays resident unless its
page's policy is bypass (R368). -/
def hubWrite (s : State) (pa n v : Nat) (c : Caching := {}) : State :=
  (lineChunks pa n).foldl (fun s k => pointWrite s (homeOf (pa / 128)) (pa + k.1) k.2 (v / 256 ^ k.1) c) s

/-- A device-scope read by a hub unit. -/
def hubRead (s : State) (pa n : Nat) (c : Caching := {}) : State × Nat :=
  ((lineChunks pa n).foldl (fun s k => (pointRead s (homeOf (pa / 128)) (pa + k.1) k.2 c).1) s, memRead s.mem pa n)

/-- Whether the controller cannot correct the errors in a line's cells (R415): they lie in more than one byte, and the syndrome names no position. -/
def brokenCells (s : State) (line : Nat) : Bool :=
  s.damage.any fun x => x.1 = line && 2 ≤ x.2.length && (Config.freeSyndrome line x.2).isNone

/-- The lost lines of a die: those of its lost-line tables (R414), and those that a read would find lost (R415). -/
def lostLines (s : State) (d : Nat) : List Nat :=
  (s.die d).lost ++ (s.damage.filter fun x => homeOf x.1 = d && brokenCells s x.1 && !(s.die d).lost.contains x.1).map fun x => x.1

/-- Whether a line is lost (R414). -/
def isLost (s : State) (pa : Nat) : Bool := pa < 2 ^ 39 && (lostLines s (homeOf (pa / 128))).contains (pa / 128)

/-- A line that is not lost any more. -/
def regainLine (s : State) (line : Nat) : State :=
  { s.modDie (homeOf line) fun d => { d with lost := d.lost.filter (· ≠ line), lostCode := put d.lostCode line 9 9, patched := d.patched.filter fun b => b / 32 ≠ line } with
    damage := s.damage.filter fun x => x.1 ≠ line }

/-- A write that covers all 128 bytes of a lost line removes it from the table (R414). -/
def unlose (s : State) (pa n : Nat) : State :=
  if pa % 128 = 0 && 128 ≤ n then regainLine s (pa / 128) else s

/-- The allocations of a core's array, packed in team-slot order (notes/assumptions/7.md): the team and the offset within its
allocation that an array offset names. -/
def ownerAt (ts : List Team) (size : Team → Nat) (off : Nat) : Option (Nat × Nat) :=
  match ts with
  | [] => none
  | t :: r => if off < size t then some (t.uid, off) else ownerAt r size (off - size t)

/-- Teams of a core in slot order. -/
def teamsOfCore (s : State) (core : Nat) : List Team :=
  sortBy (fun t : Team => t.tslot) (s.allTeams.filter (fun t => t.core = core))

/-- Where the allocation of a team begins in its core's array. -/
def allocBase (s : State) (t : Team) (size : Team → Nat) : Nat :=
  ((teamsOfCore s t.core).filter (fun u => u.tslot < t.tslot)).foldl (fun a u => a + size u) 0

/-- The team record of a number. -/
def State.teamOf (s : State) (uid : Nat) : Option Team := s.allTeams.find? (fun t => t.uid = uid)

/-- WTS and RTS of a block: of an allocation by team and block, or of an array's bytes beside the allocations by key (R108). -/
def blockStamps (s : State) (uid : Option Nat) (key : Nat) : Nat × Nat :=
  match uid with
  | some u => look (((s.teamOf u).map fun t => t.blocks).getD []) key (0, 0)
  | none => look s.blocks key (0, 0)

def setBlock (s : State) (uid : Option Nat) (key : Nat) (v : Nat × Nat) : State :=
  match uid with
  | some u => s.modTeam u fun t => { t with blocks := put t.blocks key v (0, 0) }
  | none => { s with blocks := put s.blocks key v (0, 0) }

/-- The load rule of R108 at a block with LEN 0. -/
def blockLoad (s : State) (core : Nat) (uid : Option Nat) (key : Nat) : State :=
  let (w, r) := blockStamps s uid key
  let ct := (s.core core).ctime
  setCtime (setBlock s uid key (w, max r (max ct w))) core w

/-- The store rule of R108 at a block. -/
def blockStore (s : State) (core : Nat) (uid : Option Nat) (key : Nat) : State :=
  let (_, r) := blockStamps s uid key
  let w := max (s.core core).ctime (r + 1)
  setCtime (setBlock s uid key (w, w)) core w

/-- A lane-path load of `n` bytes at offset `o` of a team's scratchpad, from a core. -/
def scratchLoad (s : State) (core uid o n : Nat) : State × Nat :=
  match s.teamOf uid with
  | none => (s, 0)
  | some t => (blockLoad s core (some uid) (o / 128), memRead t.scratch o n)

/-- A lane-path store. -/
def scratchStore (s : State) (core uid o n v : Nat) : State :=
  match s.teamOf uid with
  | none => s
  | some _ => (blockStore s core (some uid) (o / 128)).modTeam uid fun t => { t with scratch := memWrite t.scratch o n v }

end Sys2Proof.Machine
end

