-- ==== Sys2Proof/Machine/Translate.lean ====
section
/-!
DEFINITION. Translation of virtual addresses: canonical form (05 R82), the heap window (R87), page tables (R89 to R91, 24 R401),
TLBs with pending accessed and dirty bits (R93, R94), permissions (10 R188, 24 R399, R400), and the reasons of 24 R398.
-/
namespace Sys2Proof.Machine

/-- What an access needs of a leaf (Table 5.5). -/
inductive Access where
  | read | write | atomic | fetch
  deriving DecidableEq, Repr

/-- What a translation answers. -/
inductive XRes where
  /-- the target, the leaf and its level (R398) -/
  | ok (t : Target) (leaf : DWord) (level : Nat)
  /-- class of Table 23.1, FCODE of R398 -/
  | fail (cls : Byte) (code : Word)
  /-- the walk ended at a PEND entry of this level (R401) -/
  | pend (level : Nat)
  /-- the table entry of a level lies on a die in reset, for which its read waits (R447) -/
  | home (die level : Nat)
  deriving DecidableEq, Repr

def clsAlign : Byte := 0x0E
def clsCanon : Byte := 0x0F
def clsXlate : Byte := 0x10
def clsPerm : Byte := 0x11
def clsTarget : Byte := 0x13
def clsRemote : Byte := 0x14

/-- R82. -/
def canonical (va : DWord) : Bool := va.extractLsb' 55 9 = 0 || va.extractLsb' 55 9 = 0x1FF

/-- FCODE of R398. -/
def reason (r level detail : Nat) : Word := BitVec.ofNat 32 (r + 256 * level + 65536 * detail)

/-- The context descriptor of an ASID. -/
def ctxOf (s : State) (asid : BitVec 12) : CtxDesc := look s.hub.ctx asid.toNat {}

/-- Bits of a leaf (Table 5.5). -/
def leafBits (leaf : DWord) (hi lo : Nat) : Nat := bits leaf.toNat hi lo

/-- How a leaf's page is cached. -/
def cachingOf (leaf : DWord) (level : Nat) : Caching := { waypart := leafBits leaf 13 11, policy := leafBits leaf 10 9, level := level }

/-- A page-table walk's end: a leaf with its page size and address, a failure, or a PEND entry. -/
inductive WalkRes where
  | leaf (e : DWord) (log2 : Nat) (pa : Nat) (level : Nat)
  | fail (code : Word)
  | pend (level : Nat)
  deriving DecidableEq, Repr

/-- Whether a leaf entry of a level is well formed (Table 23.7a, R91). -/
def leafOk (e : DWord) (level : Nat) : Bool :=
  let tgt := leafBits e 4 2
  let addr := 65536 * leafBits e 47 16
  level ≤ 2 && leafBits e 63 60 = 0 && tgt ≤ 4 &&
    (if tgt ≤ 2 then addr % 2 ^ (16 + 10 * level) = 0 else level = 0 || leafBits e 19 16 = 0) &&
    (match tgt with
      | 0 => addr < 0x400000000000
      | 1 => 0x400000000000 ≤ addr && addr < 0x800000000000
      | 2 => 0x800000000000 ≤ addr
      | _ => e.getLsbD 8 && leafBits e 59 50 < 768)

/-- R89, R90, R398: the walk from the table of a level at `table`, over `level + 1` levels. -/
def walkFrom (m : Memory) (va : Nat) (table : Nat) : Nat → WalkRes
  | 0 =>
    if backed table then
      let pa := table + 8 * bits va 25 16
      let e := BitVec.ofNat 64 (memRead m pa 8)
      if e.getLsbD 0 then (if e.getLsbD 1 && leafOk e 0 then .leaf e 16 pa 0 else .fail (reason 2 0 0))
      else if e.getLsbD 2 then .pend 0 else .fail (reason 1 0 0)
    else .fail (reason 6 0 0)
  | l + 1 =>
    if backed table then
      let lo := 16 + 10 * (l + 1)
      let pa := table + 8 * bits va (lo + 9) lo
      let e := BitVec.ofNat 64 (memRead m pa 8)
      if e.getLsbD 0 then
        if e.getLsbD 1 then (if leafOk e (l + 1) then .leaf e lo pa (l + 1) else .fail (reason 2 (l + 1) 0))
        else if leafBits e 12 2 = 0 && leafBits e 63 48 = 0 then walkFrom m va (8192 * leafBits e 47 13) l
        else .fail (reason 2 (l + 1) 0)
      else if e.getLsbD 2 then .pend (l + 1) else .fail (reason 1 (l + 1) 0)
    else .fail (reason 6 (l + 1) 0)

/-- The walk of a context from CTX.PTROOT. -/
def walk (s : State) (asid : BitVec 12) (va : DWord) : WalkRes :=
  walkFrom s.mem va.toNat (8192 * bits (ctxOf s asid).ptRoot.toNat 47 13) 3

/-- Addresses of the table entries that a walk from the table of a level reads, `level + 1` at most (R90). -/
def walkReads (m : Memory) (va : Nat) (table : Nat) : Nat → List Nat
  | 0 => if backed table then [table + 8 * bits va 25 16] else []
  | l + 1 =>
    if backed table then
      let lo := 16 + 10 * (l + 1)
      let pa := table + 8 * bits va (lo + 9) lo
      let e := BitVec.ofNat 64 (memRead m pa 8)
      pa :: if e.getLsbD 0 && !e.getLsbD 1 && leafBits e 12 2 = 0 && leafBits e 63 48 = 0 then
        walkReads m va (8192 * leafBits e 47 13) l else []
    else []

/-- The reads of a walk by a die for a context are served (R357) and reach their lines (R101). -/
def walkReach (s : State) (die : Nat) (asid : BitVec 12) (va : DWord) : State :=
  (walkReads s.mem va.toNat (8192 * bits (ctxOf s asid).ptRoot.toNat 47 13) 3).foldl
    (fun s pa => reachRead (countRequest s none die (pa / 128) false asid) die (pa / 128) {}) s

/-- The first table entry of a walk that lies on a die which does not serve it: the die and the entry's level (R447). -/
def walkHome (s : State) (asid : BitVec 12) (va : DWord) : Option (Nat × Nat) :=
  (walkReads s.mem va.toNat (8192 * bits (ctxOf s asid).ptRoot.toNat 47 13) 3).zipIdx.findSome? fun x =>
    let d := homeOf (x.1 / 128)
    if (s.die d).inReset || (s.die d).outOfService then some (d, 3 - x.2) else none

/-- The permission a leaf denies to an access, as the reason of Table 24.1 (R188 step 4). -/
def denied (leaf : DWord) (priv : Bool) (a : Access) : Option Nat :=
  let needR := a = .read || a = .atomic
  let needW := a = .write || a = .atomic
  if needR && !leaf.getLsbD 5 then some 1
  else if needW && !leaf.getLsbD 6 then some 2
  else if a = .fetch && !leaf.getLsbD 7 then some 3
  else if leaf.getLsbD 8 && !priv then some 4
  else none

/-- Where a page's address goes (R91), with the failures R91 names. -/
def targetOf (s : State) (leaf : DWord) (log2 : Nat) (va : DWord) (priv : Bool) (level : Nat) : XRes :=
  let off := va.toNat % 2 ^ log2
  let pa := 65536 * leafBits leaf 47 16 + off
  match leafBits leaf 4 2 with
  | 0 =>
    if pa < 2 ^ 39 then
      if !backed pa then .fail clsXlate (reason 3 level 0)
      else
        let d := s.die (pa / 2 ^ 36)
        if noService d pa then .fail clsXlate (reason 8 level 0)
        else .ok (.device pa) leaf level
    else if pa < 2 ^ 40 then (if priv then .ok (.hub pa) leaf level else .fail clsPerm (reason 4 level 0))
    else .fail clsXlate (reason 3 level 0)
  | 1 => .ok (.host (pa % 2 ^ 46) (leaf.getLsbD 14)) leaf level
  | 2 => .ok (.peer (bits pa 46 39) (pa % 2 ^ 39)) leaf level
  | t =>
    let o := 65536 * leafBits leaf 19 16 + off
    let c := leafBits leaf 59 50
    if t = 3 then (if o < Config.arrayBytes then .ok (.scratch c o) leaf level else .fail clsXlate (reason 5 level 0))
    else if o < Config.obBytes then .ok (.opbuf c o) leaf level else .fail clsXlate (reason 5 level 0)

/-- ORs A and D into a leaf entry at device scope (R94). -/
def flushBits (s : State) (leafPa : Nat) (a d : Bool) : State :=
  if a || d then
    let old := memRead s.mem leafPa 8
    hubWrite s leafPa 8 (old ||| (if a then 2 ^ 48 else 0) ||| (if d then 2 ^ 49 else 0))
  else s

/-- Flushes the pending bits of an entry. -/
def flushEntry (s : State) (e : TlbEntry) : State := flushBits s e.leafPa e.pa e.pd

/-- Whether an entry covers an address of a context. -/
def TlbEntry.covers (e : TlbEntry) (asid : BitVec 12) (va : DWord) : Bool :=
  e.asid = asid && e.page = va.toNat / 2 ^ e.log2

/-- The page-table level of a page-size exponent. -/
def levelOf (log2 : Nat) : Nat := (log2 - 16) / 10

/-- Whether two entries hold the same page of a context. -/
def TlbEntry.same (a b : TlbEntry) : Bool := a.asid = b.asid && a.page = b.page && a.log2 = b.log2

/-- The pending bits and users of another copy of the same entry are kept. -/
def TlbEntry.merge (e old : TlbEntry) : TlbEntry :=
  { e with pa := e.pa || old.pa, pd := e.pd || old.pd,
           since := if old.pa || old.pd then (if e.pa || e.pd then min e.since old.since else old.since) else e.since,
           users := e.users ++ old.users.filter fun u => !e.users.contains u }

/-- An entry takes the place of an older one of its page: one of the same leaf hands on its pending bits, another flushes them. -/
def renewEntry (s : State) (l : List TlbEntry) (e : TlbEntry) : State × TlbEntry :=
  match l.find? fun x => x.same e with
  | some old => if old.leafPa = e.leafPa then (s, e.merge old) else (flushEntry s old, e)
  | none => (s, e)

/-- The set of an entry in a second-level TLB of 2,048 sets of 8 ways (R93). -/
def dieSet (e : TlbEntry) : Nat := Config.tlbSet e.asid.toNat e.page e.log2 % 2048

/-- An entry leaves one level; with the last copy among the die and its cores its pending bits are flushed (R94). -/
def leaveTlb (s : State) (d : Nat) (x : TlbEntry) : State :=
  if !x.pa && !x.pd then s
  else if (s.die d).tlb.any fun y => y.same x then
    s.modDie d fun k => { k with tlb := k.tlb.map fun y => if y.same x then y.merge x else y }
  else match (List.range 96).find? fun c => (s.core (96 * d + c)).tlb.any fun y => y.same x with
    | some c => s.modCore (96 * d + c) fun k => { k with tlb := k.tlb.map fun y => if y.same x then y.merge x else y }
    | none => flushEntry s x

/-- Adds an entry to a die's TLB of 16,384 entries in 8 ways (R93). -/
def dieTlbPut (s : State) (d : Nat) (e : TlbEntry) : State :=
  let (s, e) := renewEntry s (s.die d).tlb e
  let rest := (s.die d).tlb.filter (fun x => !x.same e)
  if rest.length < 8 then s.modDie d fun k => { k with tlb := rest ++ [e] }
  else
    let set := rest.filter fun x => dieSet x = dieSet e
    if set.length < 8 then s.modDie d fun k => { k with tlb := rest ++ [e] }
    else match set[Config.freeVictim s.free % set.length]? with
      | some v => leaveTlb { s.modDie d fun k => { k with tlb := rest.filter (fun x => !x.same v) ++ [e] } with free := s.free + 1 } d v
      | none => s

/-- Adds an entry to a core's TLB of 256 entries. -/
def coreTlbPut (s : State) (c : Nat) (e : TlbEntry) : State :=
  let (s, e) := renewEntry s (s.core c).tlb e
  let rest := (s.core c).tlb.filter (fun x => !x.same e)
  if rest.length < 256 then s.modCore c fun k => { k with tlb := rest ++ [e] }
  else match rest[Config.freeVictim s.free % rest.length]? with
    | some v => leaveTlb { s.modCore c fun k => { k with tlb := rest.filter (fun x => !x.same v) ++ [e] } with free := s.free + 1 } (dieOf c) v
    | none => s

/-- Sets the pending bits an access sets, in the entry of a unit (R94). -/
def touchEntry (s : State) (a : Access) (launch : Nat) (e : TlbEntry) : TlbEntry :=
  let w := a = .write || a = .atomic
  { e with since := if e.pa || e.pd then e.since else s.clock, pa := true, pd := e.pd || w,
           users := if e.users.contains launch then e.users else launch :: e.users }

/-- The unit that translates: a core (its first-level TLB), or a die's engines. -/
inductive Unit' where
  | core (c : Nat) | die (d : Nat)
  deriving DecidableEq, Repr

def Unit'.dieNo : Unit' → Nat
  | .core c => dieOf c
  | .die d => d

def tlbOf (s : State) (u : Unit') : List TlbEntry := match u with | .core c => (s.core c).tlb | .die d => (s.die d).tlb

def tlbPut (s : State) (u : Unit') (e : TlbEntry) : State := match u with | .core c => coreTlbPut s c e | .die d => dieTlbPut s d e

/-- The entry a hit finds, in the unit's TLB or the die's. -/
def tlbFind (s : State) (u : Unit') (asid : BitVec 12) (va : DWord) : Option TlbEntry :=
  match (tlbOf s u).find? (fun e => e.covers asid va) with
  | some e => some e
  | none => ((s.die u.dieNo).tlb.find? (fun e => e.covers asid va)).map fun e => { e with pa := false, pd := false, users := [] }

/-- A walk's leaf as an entry. -/
def entryOf (asid : BitVec 12) (va : DWord) (leaf : DWord) (log2 leafPa : Nat) : TlbEntry :=
  { asid := asid, page := va.toNat / 2 ^ log2, log2 := log2, leaf := leaf, leafPa := leafPa }

/-- Every TLB entry of the module. -/
def allTlb (s : State) : List TlbEntry := s.cores.flatMap (fun c => c.2.tlb) ++ s.dies.flatMap (fun d => d.2.tlb)

/-- Changes every TLB. -/
def mapTlb (s : State) (f : List TlbEntry → List TlbEntry) : State :=
  let cores := (s.cores.map fun c => c.1).foldl (fun m k => change m k ({} : Core) fun x : Core => { x with tlb := f x.tlb }) s.cores
  let dies := (s.dies.map fun d => d.1).foldl (fun m k => change m k ({} : Die) fun x : Die => { x with tlb := f x.tlb }) s.dies
  { s with cores := cores, dies := dies }

/-- The pending bits of matching entries are flushed; the entries stay. -/
def harvestTlb (s : State) (hit : TlbEntry → Bool) : State × Nat :=
  let es := (allTlb s).filter fun e => hit e && (e.pa || e.pd)
  let clear (e : TlbEntry) : TlbEntry := if hit e then { e with pa := false, pd := false } else e
  (mapTlb (es.foldl flushEntry s) fun l => l.map clear, es.length)

/-- The end of launches (R94): the entries they used flush their pending bits. -/
def endUses (s : State) (gone : Nat → Bool) : State :=
  mapTlb (harvestTlb s fun e => e.users.any gone).1 fun es => es.map fun e => { e with users := e.users.filter fun n => !gone n }

/-- Where a hit in the TLBs takes an access: none where no entry covers it or the entry lets it fail, since a fault comes from a walk made for the access
(R399, R400). -/
def tlbServes (s : State) (u : Unit') (asid : BitVec 12) (priv : Bool) (va : DWord) (a : Access) : Option (TlbEntry × Target) :=
  match tlbFind s u asid va with
  | some e =>
    if (denied e.leaf priv a).isNone then
      match targetOf s e.leaf e.log2 va priv (levelOf e.log2) with
      | .ok t _ _ => some (e, t)
      | _ => none
    else none
  | none => none

/-- Steps 3 and 4 of R188 with R399 and R400, for a canonical address. -/
def translate (s : State) (u : Unit') (asid : BitVec 12) (priv : Bool) (launch : Nat) (va : DWord) (a : Access) : State × XRes :=
  let ctx := ctxOf s asid
  let inHeap := a ≠ .fetch && ctx.heapBase.toNat < ctx.heapLimit.toNat && ctx.heapBase.toNat ≤ va.toNat &&
    va.toNat < ctx.heapLimit.toNat
  if inHeap then
    let pa := (va + ctx.heapOffset).toNat
    if backed pa then
      let d := s.die (pa / 2 ^ 36)
      if noService d pa then (s, .fail clsXlate (reason 8 0 0))
      else (s, .ok (.device pa) 0x63 0)
    else (s, .fail clsXlate (reason 4 0 0))
  else
    match tlbServes s u asid priv va a with
    | some (e, t) => (tlbPut s u (touchEntry s a launch e), .ok t e.leaf (levelOf e.log2))
    | none =>
      let r := walk s asid va
      match walkHome s asid va with
      | some (d, k) => (s, if (s.die d).outOfService then .fail clsXlate (reason 8 k 0) else .home d k)
      | none =>
      let s := walkReach s u.dieNo asid va
      match r with
      | .pend l => (s, .pend l)
      | .fail code => (s, .fail clsXlate code)
      | .leaf leaf log2 leafPa level =>
        let e := entryOf asid va leaf log2 leafPa
        match targetOf s leaf log2 va priv level, denied leaf priv a with
        | .ok t l k, none =>
          let s := dieTlbPut s u.dieNo (if u = .die u.dieNo then touchEntry s a launch e else e)
          (match u with | .core c => coreTlbPut s c (touchEntry s a launch e) | .die _ => s, .ok t l k)
        | .ok _ _ _, some x => (s, .fail clsPerm (reason x level 0))
        | .fail cls code, some x => (s, if cls = clsPerm then .fail clsPerm (reason x level 0) else .fail cls code)
        | r, _ => (s, r)

/-- The checks of R399 for one access of `n` bytes: canonical, aligned, translated, permitted. -/
def checkAccess (s : State) (u : Unit') (asid : BitVec 12) (priv : Bool) (launch : Nat) (va : DWord) (n : Nat) (a : Access) :
    State × XRes :=
  if !canonical va then (s, .fail clsCanon 0)
  else if va.toNat % n ≠ 0 then (s, .fail clsAlign 0)
  else translate s u asid priv launch va a

end Sys2Proof.Machine
end

