-- ==== Sys2Proof/Machine/Rings.lean ====
section
/-!
DEFINITION. The rings the hardware writes: the context fault ring and the module fault ring (23 R392, Table 23.5, 24 R410, R412),
and the trace ring (18 R359, R360).
-/
namespace Sys2Proof.Machine

/-- NAME of Table 18.4. -/
def nameOf (tidx : Nat) (lid : BitVec 24) (gidx : Nat) : DWord :=
  BitVec.ofNat 64 (tidx % 2 ^ 32 + lid.toNat * 2 ^ 32 + gidx % 16 * 2 ^ 56)

/-- An entry of a fault ring (Table 23.5). -/
structure RingEntry where
  name : DWord := 0
  lanes : Word := 0
  cls : Byte := 0
  untrapped : Bool := false
  double : Bool := false
  fetch : Bool := false
  defer : Bool := false
  source : Byte := 0
  dclass : Byte := 0
  fpc : DWord := 0
  faddr : DWord := 0
  fword : Word := 0
  fcode : Word := 0
  deriving DecidableEq, Repr

/-- Its 64 bytes as a number, TIME the clock. -/
def RingEntry.bytes (e : RingEntry) (time : Nat) : Nat :=
  e.name.toNat + e.lanes.toNat * 2 ^ 64 + e.cls.toNat * 2 ^ 96 +
  (e.untrapped.toNat + 2 * e.double.toNat + 4 * e.fetch.toNat + 8 * e.defer.toNat) * 2 ^ 104 +
  e.source.toNat * 2 ^ 112 + e.dclass.toNat * 2 ^ 120 + e.fpc.toNat * 2 ^ 128 + e.faddr.toNat * 2 ^ 192 +
  e.fword.toNat * 2 ^ 256 + e.fcode.toNat * 2 ^ 288 + time % 2 ^ 64 * 2 ^ 320

/-- Reads `n` bytes where a hub unit reaches: device memory or host memory. -/
def rawRead (s : State) (t : Target) (n : Nat) : Nat :=
  match t with
  | .device pa => memRead s.mem pa n
  | .host a _ => memRead s.hostMem a n
  | _ => 0

/-- The lines of such a read are reached: an owner's is recalled (R101). -/
def rawReach (s : State) (t : Target) (n : Nat) (c : Caching := {}) : State :=
  match t with
  | .device pa => (hubRead s pa n c).1
  | _ => s

/-- Writes them, at device scope (R392), under the way partition and the policy of the page (R98). -/
def rawWrite (s : State) (t : Target) (n v : Nat) (c : Caching := {}) : State :=
  match t with
  | .device pa => unlose (hubWrite s pa n v c) pa n
  | .host a _ => let s := noteCode s none true a n; { s with hostMem := memWrite s.hostMem a n v }
  | _ => s

/-- Where a hub unit's access to a VA of a context goes, and how its page is cached: device memory or a host window the leaf permits; none otherwise, a PEND
entry among them (R392). The spec names no TLB for the launch unit, the trace aggregator and the fault ring and feedback writes: they walk the tables each
time, fill no TLB and set neither A nor D (DESIGN CHOICE, notes/assumptions/32.md). -/
def hubPage (s : State) (asid : BitVec 12) (va : DWord) (a : Access) : Option (Target × Caching) :=
  let ctx := ctxOf s asid
  let r : XRes :=
    if !canonical va then .fail clsCanon 0
    else if ctx.heapBase.toNat < ctx.heapLimit.toNat && ctx.heapBase.toNat ≤ va.toNat && va.toNat < ctx.heapLimit.toNat then
      let pa := (va + ctx.heapOffset).toNat
      if backed pa then .ok (.device pa) 0 0 else .fail clsXlate 0
    else match walk s asid va with
      | .leaf e log2 _ level => if (denied e ctx.priv a).isNone then targetOf s e log2 va ctx.priv level else .fail clsPerm 0
      | _ => .fail clsXlate 0
  match r with
  | .ok (.device pa) leaf k => if isLost s pa then none else some (.device pa, cachingOf leaf k)
  | .ok (.host x tso) _ _ => if s.slalia.lost then none else some (.host x tso, {})
  | _ => none

/-- Where it goes. -/
def hubTarget (s : State) (asid : BitVec 12) (va : DWord) (a : Access) : Option Target := (hubPage s asid va a).map Prod.fst

/-- R392 and R410: writes an entry into a ring whose bytes `res` locates, and says whether it was written. -/
def ringPut (s : State) (res : Nat → Option (Target × Caching)) (log2 : Nat) (e : RingEntry) : State × Bool :=
  match res 0, res 8, res 16 with
  | some w, some r, some d =>
    let wr := rawRead s w.1 8
    let rd := rawRead s r.1 8
    let s := rawReach (rawReach s w.1 8 w.2) r.1 8 r.2
    let drop := rawWrite s d.1 8 ((rawRead s d.1 8 + 1) % 2 ^ 64) d.2
    if (wr + 2 ^ 64 - rd) % 2 ^ 64 < 2 ^ log2 then
      match res (64 + 64 * (wr % 2 ^ log2)) with
      | some t => (rawWrite (rawWrite s t.1 64 (e.bytes s.clock) t.2) w.1 8 ((wr + 1) % 2 ^ 64) w.2, true)
      | none => (drop, false)
    else (drop, false)
  | _, _, _ => (s, false)

/-- A field range of R6: acts as the nearest value of its range. -/
def clamp (x lo hi : Nat) : Nat := max lo (min x hi)

/-- An entry into a context's fault ring (R392). -/
def ctxRing (s : State) (asid : BitVec 12) (e : RingEntry) : State :=
  let f := (ctxOf s asid).fring.toNat
  let base := 4096 * (f / 4096)
  if base = 0 then s
  else (ringPut s (fun o => hubPage s asid (BitVec.ofNat 64 (base + o)) .write) (clamp (f % 32) 6 16) e).1

/-- An entry into the module fault ring (R410), with the copy of WRPTR to MODNOTE (R412). One of SOURCE 20 whose ring lies in a host window that is lost
stands in device memory (R453), at no address the spec names: the model keeps it apart (DESIGN CHOICE, notes/assumptions/86.md). -/
def modRing (s : State) (e : RingEntry) : State :=
  let f := s.hub.modFring.toNat
  let base := 4096 * bits f 47 12
  if base = 0 then s
  else if e.source = 20 && s.slalia.lost && !backed base then { s with kept := s.kept ++ [e.bytes s.clock] }
  else
    let res (o : Nat) : Option (Target × Caching) :=
      let pa := base + o
      if backed pa then (if isLost s pa then none else some (.device pa, {}))
      else if 0x400000000000 ≤ pa && pa < 0x800000000000 && !s.slalia.lost then some (.host (pa % 2 ^ 46) false, {}) else none
    let (s', ok) := ringPut s res (clamp (f % 32) 6 16) e
    let note := 8 * bits s.hub.modNote.toNat 45 3
    let wr := match res 0 with | some t => rawRead s' t.1 8 | none => 0
    if ok && note ≠ 0 && !s.slalia.lost && (e.source ≠ 3 || s.hub.modPol.getLsbD 1) then
      let s' := noteCode s' none true note 8
      { s' with hostMem := memWrite s'.hostMem note 8 wr }
    else s'

/-- Units of the trace ring's record area (R359). -/
def traceCap (t : Trace) : Nat := (t.ringUnits * 4096 - 128) / 32

/-- Where a byte of the trace ring lies. -/
def traceAt (s : State) (o : Nat) : Option (Target × Caching) := hubPage s s.trace.asid (s.trace.ringVa + BitVec.ofNat 64 o) .write

/-- The header of Table 18.2 with a body from byte 16. -/
def traceRecord (kind units src time body : Nat) : Nat :=
  kind + 256 * units + 65536 * src + time % 2 ^ 64 * 2 ^ 64 + body * 2 ^ 128

/-- Where the units of a record lie, from unit `u` of the record area on (R359): each on its own, since a record may cross a page; none where one
of them cannot be written. -/
def traceUnits (s : State) (u n : Nat) : Option (List (Target × Caching)) :=
  (List.range n).mapM fun k => traceAt s (128 + 32 * (u + k))

/-- Writes a record unit by unit. -/
def putUnits (s : State) (ts : List (Target × Caching)) (rec : Nat) : State :=
  ts.zipIdx.foldl (fun s x => rawWrite s x.1.1 32 (rec / 2 ^ (256 * x.2) % 2 ^ 256) x.1.2) s

/-- Writes one record of `units` units at the write pointer, without wrapping, behind a pad record where it would cross the end of the area; none where it
does not fit or a unit cannot be written (R359). -/
def traceFit (s : State) (units rec : Nat) : Option State :=
  match traceAt s 0, traceAt s 8 with
  | some w, some r =>
    let wr := rawRead s w.1 8
    let rd := rawRead s r.1 8
    let s := rawReach (rawReach s w.1 8 w.2) r.1 8 r.2
    let cap := traceCap s.trace
    let room := cap - wr % cap
    let pad := if units ≤ room then 0 else room
    if wr + pad + units ≤ rd + cap then
      match traceUnits s (wr % cap) pad, traceUnits s ((wr + pad) % cap) units with
      | some ps, some ts =>
        let s := if pad = 0 then s else rawWrite (putUnits s ps (traceRecord 5 pad 0xFFFF s.clock 0)) w.1 8 (wr + pad) w.2
        some (rawWrite (putUnits s ts rec) w.1 8 (wr + pad + units) w.2)
      | _, _ => none
    else none
  | _, _ => none

/-- A trace record is written or dropped (R359), its TIME the clock or that of its tick (R360); after a drop, a marker goes in front of the next
record that fits behind it. -/
def traceWrite (s : State) (kind units src body : Nat) (time : Option Nat := none) : State :=
  if !s.trace.mielien || s.trace.ringUnits = 0 then s
  else
    let drop (s : State) : State :=
      let s := { s with trace := { s.trace with drops := s.trace.drops + 1 } }
      match traceAt s 16 with
      | some d => rawWrite s d.1 8 ((rawRead s d.1 8 + 1) % 2 ^ 64) d.2
      | none => s
    let rec' := traceRecord kind units src (time.getD s.clock) body
    if s.trace.drops = 0 then
      match traceFit s units rec' with
      | some s' => s'
      | none => drop s
    else match traceFit s 1 (traceRecord 4 1 0xFFFF s.clock s.trace.drops) with
      | none => drop s
      | some s1 =>
        let s1 := { s1 with trace := { s1.trace with drops := 0 } }
        match traceFit s1 units rec' with
        | some s' => s'
        | none => drop s

/-! ### Reads of the launch unit -/

/-- Reads bytes of a context's memory in units of `k` bytes; none where they cannot be read or translated (R439). -/
def hubBytes (s : State) (asid : BitVec 12) (va n k : Nat) : Option (List Byte) :=
  (List.range (n / k)).foldl (fun acc i =>
    match acc, hubTarget s asid (BitVec.ofNat 64 (va + k * i)) .read with
    | some bs, some t => some (bs ++ leBytes k (rawRead s t k))
    | _, _ => none) (some [])

/-- The lines of such a read are reached (R101). -/
def hubReach (s : State) (asid : BitVec 12) (va n : Nat) : State :=
  (List.range ((va % 64 + n + 63) / 64)).foldl (fun s i =>
    match hubPage s asid (BitVec.ofNat 64 (va / 64 * 64 + 64 * i)) .read with
    | some t => rawReach s t.1 64 t.2
    | none => s) s

end Sys2Proof.Machine
end

