-- ==== Sys2Proof/Machine/Ops.lean ====
section
/-!
DEFINITION. The named operations over the executing group: its registers and pending writes (03 R53, 11 R204), the frontier (03 R60)
and rejoin registers (10 R199 to R201), stall frames (18 R361), exits (02 R39, R40), and taking a fault and returning from one
(23 R386 to R393), one operation each.
-/
namespace Sys2Proof.Machine

/-! ### Registers -/

def State.modGrp (s : State) (f : Group → Group) : State := { s with grp := f s.grp }

/-- Register n of lane l as written. -/
def Group.vreg (g : Group) (n l : Nat) : Word := look g.v (32 * n + l) 0
def Group.setV (g : Group) (n l : Nat) (x : Word) : Group := { g with v := put g.v (32 * n + l) x 0 }

/-- Predicate n as a mask of lanes; p7 reads true (R131). -/
def Group.pmask (g : Group) (n : Nat) : Word := if n = 7 then 0xFFFFFFFF else look g.p n 0
def Group.setP (g : Group) (n l : Nat) (b : Bool) : Group :=
  if n = 7 then g
  else { g with p := change g.p n 0 fun m => if b then m ||| BitVec.ofNat 32 (2 ^ l) else m &&& ~~~(BitVec.ofNat 32 (2 ^ l)) }

def Group.xreg (g : Group) (k l : Nat) : Word := look g.x (32 * k + l) 0

/-- A write of an index register or one of its fields (R186). -/
def xInsert (old : Word) (fld : Nat) (v : Word) : Word :=
  match fld with
  | 0 => v &&& 0x00FFFFFF
  | 1 => (old &&& 0xFFFFFF00) ||| (v &&& 0xFF)
  | 2 => (old &&& 0xFFFF00FF) ||| ((v &&& 0xFF) <<< 8)
  | _ => (old &&& 0xFF00FFFF) ||| ((v &&& 0xFF) <<< 16)

/-- One cell of a landing write. -/
def Group.landCell (g : Group) (sp : RegSpace) (key : Nat) (x : Word) : Group :=
  match sp with
  | .v => { g with v := put g.v key x 0 }
  | .p => g.setP (key / 32) (key % 32) (x.getLsbD 0)
  | .x fld => { g with x := change g.x key 0 (fun old => xInsert old fld x) }

/-- What a cell holds. -/
def Group.cell (g : Group) (sp : RegSpace) (key : Nat) : Word :=
  match sp with
  | .v => look g.v key 0
  | .p => if (look g.p (key / 32) 0).getLsbD (key % 32) then 1 else 0
  | .x _ => look g.x key 0

/-- Whether a fault older than a word is pending. -/
def faultBefore (g : Group) (seq : Nat) : Bool := match g.pendFault with | some f => decide (f.cur.seq < seq) | none => false

/-- Whether a lane word older than a place has issued and not passed its fault point (Table 3.3): its read cycles are not over, it waits
for a reply, or it has not updated the frontier. -/
def Group.inFlight (g : Group) (seq : Nat) : Bool :=
  g.flight.any (fun f => decide (f.1 < seq)) || g.awaits.any (fun w => decide (w.cur.seq < seq)) ||
    (match g.ctl with | some c => decide (c.cur.seq < seq) | none => false)

/-- Whether a word is speculative: an older lane word has not passed its fault point, an older commit entry has not retired, or an older
fault is pending (R383). -/
def Group.speculative (g : Group) (seq : Nat) : Bool :=
  g.inFlight seq || g.commit.any (fun e => decide (e.cur.seq < seq)) || faultBefore g seq

/-- A write lands; that of a speculative word leaves the old value in the undo log (R384). -/
def Group.land (g : Group) (w : PendWrite) : Group :=
  let old : List UndoEntry :=
    if g.speculative w.seq then
      [{ seq := w.seq, space := match w.space with | .x _ => .x 0 | sp => sp, cells := w.cells.map fun c => (c.1, g.cell w.space c.1) }]
    else []
  { w.cells.foldl (fun g c => g.landCell w.space c.1 c.2) g with undo := old ++ g.undo }

/-- Undoes the writes of the words younger than `seq`, newest first (R386), and forgets them. -/
def Group.undoTo (g : Group) (seq : Nat) : Group :=
  let young := g.undo.filter fun u => decide (seq < u.seq)
  { young.foldl (fun g u => u.cells.foldl (fun g c => g.landCell u.space c.1 c.2) g) g with
    undo := g.undo.filter (fun u => decide (u.seq ≤ seq)), pend := g.pend.filter (fun w => decide (w.seq ≤ seq)) }

/-- Entries of words that are no longer speculative are free (R384). -/
def Group.trimUndo (g : Group) : Group := { g with undo := g.undo.filter fun u => g.speculative u.seq }

/-- Lands every write due at or before a clock; long-latency writes stay. -/
def Group.landTo (g : Group) (t : Nat) : Group :=
  let due (w : PendWrite) : Bool := match w.due with | some d => decide (d ≤ t) | none => false
  { (g.pend.filter due).foldl Group.land g with pend := g.pend.filter (fun w => !due w) }

/-- Lands everything: the end of a park (R52). -/
def Group.landAll (g : Group) : Group := { g.pend.foldl Group.land g with pend := [] }

/-- Adds a write; the list stays in order of landing, long-latency writes last. -/
def Group.addPend (g : Group) (w : PendWrite) : Group :=
  { g with pend := insertBy (fun w => match w.due with | some d => 2 * d | none => 2 ^ 70) w g.pend }

/-- Uniform register n as the helm sees it: the newest commit-buffer entry that writes it, or the retired value (R48). -/
def Group.sreg (g : Group) (n : Nat) : Word :=
  g.commit.foldl (fun x e => match e.effect with
    | .regs sw _ => ((sw.find? (fun w => w.1 = n)).map (fun w => w.2)).getD x
    | .frame _ sw => ((sw.find? (fun w => w.1 = n)).map (fun w => w.2)).getD x
    | _ => x) (look g.s n 0)

/-- The pair of s registers from n (R64). -/
def Group.spair (g : Group) (n : Nat) : DWord := g.sreg (n + 1) ++ g.sreg n

/-- Condition register n as the helm sees it; c7 reads true (R131). -/
def Group.creg (g : Group) (n : Nat) : Bool :=
  if n = 7 then true
  else g.commit.foldl (fun x e => match e.effect with
    | .regs _ cw => ((cw.find? (fun w => w.1 = n)).map (fun w => w.2)).getD x
    | _ => x) (g.c.getLsbD n)

def Group.setS (g : Group) (n : Nat) (x : Word) : Group := { g with s := put g.s n x 0 }
def Group.setC (g : Group) (n : Nat) (b : Bool) : Group :=
  if n = 7 then g
  else { g with c := if b then g.c ||| BitVec.ofNat 8 (2 ^ n) else g.c &&& ~~~(BitVec.ofNat 8 (2 ^ n)) }

/-- Register writes become architectural. -/
def Group.writeRegs (g : Group) (sw : List (Nat × Word)) (cw : List (Nat × Bool)) : Group :=
  cw.foldl (fun g w => g.setC w.1 w.2) (sw.foldl (fun g w => g.setS w.1 w.2) g)

/-- A younger write of s registers has retired: what an older `sld` or `satom` still owes them is written no more (R205). -/
def Group.disown (g : Group) (sw : List (Nat × Word)) : Group :=
  if g.owed.isEmpty then g
  else { g with owed := (g.owed.map fun o => (o.1, o.2.filter fun w => !sw.any fun x => x.1 = w.1)).filter fun o => !o.2.isEmpty }

/-- Whether a `wrsys` of the group has not retired (Table 3.1). -/
def Group.sysWriting (g : Group) : Bool := g.commit.any fun e => match e.effect with | .wrsys _ _ => true | _ => false

/-! ### The frontier -/

def FEntry.same (a b : FEntry) : Bool := a.pc = b.pc && a.prio = b.prio && a.handler = b.handler

/-- Adds an entry, merging equal ones and dropping an empty one (R60, R199). -/
def addEntry (fr : List FEntry) (e : FEntry) : List FEntry :=
  if e.mask = 0 then fr
  else if fr.any (fun x => x.same e) then fr.map (fun x => if x.same e then { x with mask := x.mask ||| e.mask } else x)
  else fr ++ [e]

/-- Takes lanes out of every entry. -/
def removeLanes (fr : List FEntry) (m : Word) : List FEntry :=
  (fr.map fun e => { e with mask := e.mask &&& ~~~m }).filter (fun e => e.mask ≠ 0)

/-- Whether `a` stands above `b` (R60): greater priority, ties to the lower PC. -/
def FEntry.above (a b : FEntry) : Bool := decide (b.prio < a.prio) || (a.prio = b.prio && decide (a.pc < b.pc))

/-- The top entry. -/
def topEntry (fr : List FEntry) : Option FEntry :=
  fr.foldl (fun t e => match t with
    | none => some e
    | some t => if e.above t then some e else some t) none

/-- Program entries, of which there are at most eight. -/
def programEntries (fr : List FEntry) : Nat := (fr.filter (fun e => !e.handler)).length

/-- The lanes of a word move to another PC (R61). -/
def moveLanes (fr : List FEntry) (c : Cur) (pc : DWord) : List FEntry :=
  addEntry (removeLanes fr c.mask) { pc := pc, prio := c.prio, mask := c.mask, handler := c.handler }

/-- What the divergence words work on. -/
structure Flow where
  frontier : List FEntry
  j : Sparse Rejoin
  frames : List (BitVec 3)
  deriving DecidableEq, Repr

def Group.flow (g : Group) : Flow := { frontier := g.frontier, j := g.j, frames := g.frames }
def Group.setFlow (g : Group) (f : Flow) : Group := { g with frontier := f.frontier, j := f.j, frames := f.frames }

def Flow.rj (f : Flow) (j : Nat) : Rejoin := look f.j j {}

/-- `check(j)` of R200. -/
def Flow.check (f : Flow) (j : Nat) : Flow :=
  let r := f.rj j
  if r.enrolled = r.arrived then
    { frontier := addEntry f.frontier { pc := r.rpc, prio := r.rprio, mask := r.arrived },
      frames := if r.kind = .call then removeFirst (fun n => n.toNat = j) f.frames else f.frames,
      j := put f.j j { r with enrolled := 0, arrived := 0 } {} }
  else f

/-- Every rejoin register is checked (R200). -/
def Flow.checkAll (f : Flow) : Flow := (List.range 8).foldl Flow.check f

/-- Lanes retire: they leave the frontier and every ENROLLED mask (R203). -/
def Flow.retire (f : Flow) (l : Word) : Flow :=
  let j := (List.range 8).foldl (fun j k => change j k {} (fun r : Rejoin =>
    { r with enrolled := r.enrolled &&& ~~~l, arrived := r.arrived &&& ~~~l })) f.j
  Flow.checkAll { f with frontier := removeLanes f.frontier l, j := j }

/-! ### Teams and groups in focus -/

/-- The groups of a team, the executing one among them. -/
def State.groupsOf (s : State) (uid : Nat) : List Group :=
  if s.team.uid = uid then (if s.grp.live = 0 then s.team.groups else s.grp :: s.team.groups)
  else ((s.teams.find? (fun t => t.uid = uid)).map (fun t => t.groups)).getD []

/-- Changes every group of a team. -/
def State.modGroups (s : State) (uid : Nat) (f : Group → Group) : State :=
  let s := if s.team.uid = uid then { s with grp := f s.grp } else s
  s.modTeam uid fun t => { t with groups := t.groups.map f }

/-- Changes one group of a team. -/
def State.modGroup (s : State) (uid gidx : Nat) (f : Group → Group) : State :=
  s.modGroups uid fun g => if g.gidx = gidx && g.live ≠ 0 then f g else g

/-- The executing group and its team go back to their lists. -/
def State.putAway (s : State) : State :=
  let t := if s.grp.live = 0 then s.team else { s.team with groups := insertBy (fun g : Group => g.gidx) s.grp s.team.groups }
  { s with grp := {}, team := {}, teams := if t.uid = 0 then s.teams else insertBy (fun t : Team => t.uid) t s.teams }

/-- The machine turns to another group; to the team alone where it has no such group. -/
def State.turnTo (s : State) (uid gidx : Nat) : State :=
  let s := s.putAway
  match s.teams.find? (fun t => t.uid = uid) with
  | none => s
  | some t =>
    match t.groups.find? (fun g => g.gidx = gidx) with
    | none => { s with team := t, teams := s.teams.filter (fun t => t.uid ≠ uid) }
    | some g =>
      { s with grp := g, team := { t with groups := t.groups.filter (fun g => g.gidx ≠ gidx) },
               teams := s.teams.filter (fun t => t.uid ≠ uid) }

/-- NAME of the executing group (Table 18.4). -/
def State.name (s : State) : DWord := nameOf s.team.tidx s.team.launchId s.grp.gidx

/-! ### Barriers of a team (R219, R345) -/

/-- A team barrier releases its waiting groups, spread over BARWIN in increasing group-in-team order. -/
def releaseBarrier (s : State) (uid b : Nat) : State :=
  let waits (g : Group) : Bool := match g.wait with | .bar k _ => k = b && (look g.bars b {}).held | _ => false
  let idx := ((s.groupsOf uid).filter waits).map (fun g => g.gidx)
  let k := idx.length
  let win := bits s.hub.limctl.toNat 13 8
  s.modGroups uid fun g =>
    let g' := { g with bars := change g.bars b {} (fun m => { m with held := false }) }
    if waits g then
      let n := (idx.filter (fun i => i < g.gidx)).length
      { g' with wait := .released (s.clock + n * win / k) }
    else g'

/-- ARRIVED has changed: the barrier completes if it equals a nonzero EXPECT. -/
def settleBarrier (s : State) (uid b : Nat) : State :=
  match s.teamOf uid with
  | none => s
  | some t =>
    let x := look t.bars b {}
    if x.expect ≠ 0 && x.arrived = x.expect then
      releaseBarrier (s.modTeam uid fun t => { t with bars := put t.bars b { x with arrived := 0, phase := !x.phase } {} }) uid b
    else s

/-! ### Matrix words: gangs, latches and locks -/

/-- Listed members of a GANG value (Table 12.2). -/
def gangMembers (g : Word) : List Nat := (List.range (bits g.toNat 2 0)).map fun i => bits g.toNat (9 + 4 * i) (6 + 4 * i)
def gangHolders (g : Word) : List Nat := (gangMembers g).take (bits g.toNat 5 3)

/-- Live matrix-role groups of a team. -/
def liveMatrix (s : State) (uid : Nat) : List Nat := ((s.groupsOf uid).filter (fun g => g.role = .matrix)).map (fun g => g.gidx)

def mask16 (l : List Nat) : Half := l.foldl (fun m i => m ||| BitVec.ofNat 16 (2 ^ i)) 0

/-- A joint word's tile, reservation, vb, wait mask and set slot (UX format, Table 7.7). -/
def jointTile (w : Word) : Nat := bits w.toNat 23 21
def jointR (w : Word) : Nat := bits w.toNat 20 17
def jointVb (w : Word) : Nat := bits w.toNat 16 11
def jointWait (w : Word) : Nat := bits w.toNat 10 3
def jointSet (w : Word) : Nat := bits w.toNat 2 0
def majorOf (w : Word) : Nat := bits w.toNat 29 24

/-- A fault of a joint word that its members report later (R393): the tile becomes faulted. -/
def deferFault (s : State) (uid tile order : Nat) (word : Word) (cls : Byte) (faddr : DWord) (fcode : Word) (members : Half) : State :=
  s.modTeam uid fun t =>
    { t with tiles := change t.tiles tile {} (fun x => { x with faulted := order :: x.faulted }),
             deferred := t.deferred ++ [{ order := order, tile := tile, slot := BitVec.ofNat 3 (jointSet word), word := word,
                                          cls := cls, faddr := faddr, fcode := fcode, members := members }] }

/-- The next place in acceptance order of a core's matrix engine (R243). -/
def nextOrder (s : State) (core : Nat) : Nat :=
  (s.allTeams.filter (fun t => t.core = core)).foldl (fun m t => max m t.matOrder) 0

/-- R237: a pending word whose gang lists a group that is not a live matrix-role group is discarded once every listed group that is
one has delivered it. -/
def checkLatch (s : State) (uid tile : Nat) : State :=
  match s.teamOf uid with
  | none => s
  | some t =>
    match (look t.tiles tile {}).latch with
    | none => s
    | some l =>
      let live := liveMatrix s uid
      let listed := gangMembers l.gang
      if listed.all (fun m => live.contains m) then s
      else if (listed.filter (fun m => live.contains m)).all (fun m => l.arrived.getLsbD m) then
        let o := nextOrder s t.core
        let s := s.modTeam uid fun t =>
          { t with tiles := change t.tiles tile {} (fun x => { x with latch := none }), matOrder := o + 1 }
        deferFault s uid tile o l.word 0x16 0 0 l.arrived
      else s

def checkLatches (s : State) (uid : Nat) : State := (List.range 8).foldl (fun s k => checkLatch s uid k) s

/-- Operation classes of R77 and R240, with their K extent. -/
inductive MatClass where
  | int8 | fp8 | k16 | fp16 | bf16
  deriving DecidableEq, Repr

def classOf (afmt bfmt : Nat) : Option MatClass :=
  if afmt = 2 && bfmt = 2 then some .int8
  else if afmt ≤ 1 && bfmt ≤ 1 then some .fp8
  else if 5 ≤ afmt && afmt ≤ 7 && bfmt ≤ 1 then some .k16
  else if afmt = 3 && bfmt = 3 then some .fp16
  else if afmt = 4 && bfmt = 4 then some .bf16
  else none

def MatClass.k : MatClass → Nat
  | .int8 => 64 | .fp8 => 64 | .k16 => 128 | .fp16 => 32 | .bf16 => 32

def resvClass (r : Reservation) : Option MatClass := classOf (bits r.w0.toNat 27 24) (bits r.w0.toNat 31 28)

/-- Registers per B-holder (Table 12.4). -/
def bCount (c : MatClass) (holders : Nat) : Nat := (if c = .k16 then 64 else 32) / holders

/-- The logged words of a tile's open chain and the accepted words that will be logged in it (R257, R258), with their GANG. -/
def chainWords (t : Team) (tile : Nat) : List (Word × Word) :=
  let x := look t.tiles tile {}
  let logged := match x.chain with
    | some c => c.log.map fun w => (w.word, w.gang)
    | none => []
  let pend := t.words.filter (fun w => jointTile w.word = tile)
  let (_, more) := pend.foldl (fun (acc : Bool × List (Word × Word)) w =>
    match majorOf w.word with
    | 0x31 => (true, acc.2 ++ [(w.word, w.gang)])
    | 0x30 => if acc.1 then (true, acc.2 ++ [(w.word, w.gang)]) else acc
    | 0x36 => acc
    | _ => (false, acc.2)) (x.chain.isSome, [])
  logged ++ more

/-- Registers of a group that open chains lock (R258). -/
def lockedRegs (t : Team) (gidx : Nat) : List Nat :=
  (List.range 8).flatMap fun tile => (chainWords t tile).flatMap fun w =>
    if (gangHolders w.2).contains gidx then
      match resvClass (look t.resv (jointR w.1) {}) with
      | some c => (List.range (bCount c (bits w.2.toNat 5 3))).map (fun i => jointVb w.1 + i)
      | none => []
    else []

/-- Reservations that open chains lock. -/
def lockedResv (t : Team) : List Nat := (List.range 8).flatMap fun tile => (chainWords t tile).map fun w => jointR w.1

/-- Whether a byte of a team's operand-buffer share is locked: in a locked reservation's range or its scale words (R258). -/
def lockedByte (t : Team) (o : Nat) : Bool :=
  (lockedResv t).any fun r =>
    let x := look t.resv r {}
    let base := 128 * bits x.w0.toNat 10 0
    let len := 128 * bits x.w0.toNat 23 12
    let sc (v : Nat) : Bool := v ≠ 0x3FFFF && v ≤ o && o < v + 256
    (base ≤ o && o < base + len) || sc (bits x.w1.toNat 17 0) || sc (bits x.w1.toNat 37 20)

/-! ### Exits -/

/-- The stall-stack record of R361, or nothing while Mielien records are disabled. -/
def stallRecord (s : State) : State :=
  let g := s.grp
  let frame (f : StallFrame) : Nat :=
    f.pc.toNat + (f.counts.foldr (fun c acc => c.toNat + 2 ^ 32 * acc) 0) * 2 ^ 64
  let body := s.name.toNat + g.stall.length * 2 ^ 64 + (min g.stallExtra 255) * 2 ^ 72 +
    ((g.stall.reverse.map frame).foldr (fun f acc => f + 2 ^ 320 * acc) 0) * 2 ^ 128
  traceWrite s 1 6 0xFFFF body

/-- A group's unreported deferred faults go to the fault ring when it exits (R393). -/
def exitDeferred (s : State) : State :=
  let g := s.grp.gidx
  let mine := s.team.deferred.filter (fun d => d.members.getLsbD g)
  let s := mine.foldl (fun s d => ctxRing s s.team.asid
    { name := s.name, lanes := s.grp.live, cls := d.cls, defer := true, faddr := d.faddr, fword := d.word, fcode := d.fcode }) s
  let keep := (s.team.deferred.map fun d => { d with members := d.members &&& ~~~(BitVec.ofNat 16 (2 ^ g)) }).filter
    (fun d => d.members ≠ 0)
  { s with team := { s.team with deferred := keep } }

/-- A team whose every group has exited frees its slot (R40), or holds it until its cluster has finished (R30). -/
def finishTeam (s : State) : State :=
  let t := s.team
  let s := { s with
    launches := s.launches.map (fun l : Launch => if l.seqNo = t.seqNo then { l with live := l.live - 1 } else l),
    adm := match s.launches.find? (fun l : Launch => l.seqNo = t.seqNo) with
      | some l => { s.adm with excess := s.adm.excess + (t.energy : Int) - l.energy }
      | none => s.adm }
  if t.clh * t.clw ≤ 1 then
    { s with team := {}, clusters := s.clusters.filter (fun c : Cluster => !(c.seqNo = t.seqNo && c.cidx = t.cidx)) }
  else
    let done := ((s.clusters.find? (fun c : Cluster => c.seqNo = t.seqNo && c.cidx = t.cidx)).map (fun c => c.done)).getD []
    let done := t.midx :: done
    if done.length = t.clh * t.clw then
      { s with team := {}, teams := s.teams.filter (fun u : Team => !(u.seqNo = t.seqNo && u.cidx = t.cidx)),
               clusters := s.clusters.filter (fun c : Cluster => !(c.seqNo = t.seqNo && c.cidx = t.cidx)) }
    else
      { s with team := {}, teams := insertBy (fun t : Team => t.uid) { t with groups := [] } s.teams,
               clusters := s.clusters.map (fun c : Cluster => if c.seqNo = t.seqNo && c.cidx = t.cidx then { c with done := done } else c) }

/-- The team in focus frees its slot once no group, no store and no matrix word of it is left (R40, R121). -/
def settleTeam (s : State) : State :=
  let t := s.team
  let held := s.clusters.any fun c : Cluster => c.seqNo = t.seqNo && c.cidx = t.cidx && c.done.contains t.midx
  if t.uid ≠ 0 && s.grp.live = 0 && t.groups.isEmpty && t.orphans.isEmpty && t.words.isEmpty && !(held && t.clh * t.clw ≠ 1) then
    finishTeam s
  else s

/-- Whether a held access is a lane of a level-of-detail load that leaves feedback (R325). -/
def HeldStore.feeds (h : HeldStore) : Bool := match h.lod with | some (_, x) => x.fb.isSome | none => false

/-- The executing group exits (R39): its slot is free, it leaves every barrier, latches are checked (R237), and the last group of a
team frees the team slot (R40), once its stores have been performed (R215). -/
def exitGroup (s : State) : State :=
  let uid := s.team.uid
  let bit : Half := BitVec.ofNat 16 (2 ^ s.grp.gidx)
  let s := exitDeferred (stallRecord s)
  let bars := (List.range 16).foldl (fun b k => change b k {} (fun x : Barrier =>
    { x with expect := x.expect &&& ~~~bit, arrived := x.arrived &&& ~~~bit })) s.team.bars
  let left := s.grp.held.filter fun h => h.load.isNone && (h.lod.isNone || h.feeds)
  let t := { s.team with bars := bars, goneUnits := s.team.goneUnits + s.grp.units, orphans := s.team.orphans ++ left }
  let s := { s with grp := {}, team := t }
  let s := (List.range 16).foldl (fun s b => settleBarrier s uid b) s
  settleTeam (checkLatches s uid)

/-- Lanes of the executing group retire; a group with none left exits. -/
def retireLanes (s : State) (l : Word) : State :=
  let live := s.grp.live &&& ~~~l
  if live = 0 then exitGroup (s.modGrp fun g => { g with live := live })
  else s.modGrp fun g =>
    let g := { g.setFlow (g.flow.retire l) with live := live }
    if g.frontier.any (fun e => e.handler) then g else { g with fault := { g.fault with valid := false } }

/-! ### Taking a fault -/

/-- What of the group is older than a word and still outstanding (R386, R387): lane words in the queue or short of their fault point, commit
entries. -/
def olderOutstanding (g : Group) (seq : Nat) : Bool :=
  g.fwd.any (fun e => match e with | .lane c _ => decide (c.seq < seq) | .value _ _ => false) || g.inFlight seq ||
    g.commit.any (fun e => decide (e.cur.seq < seq))

/-- Lanes outside a mask stand again at the oldest of the discarded words that were fetched for them (notes/assumptions/74.md). -/
def giveBack (fr : List FEntry) (m : Word) (l : List Cur) : List FEntry :=
  (l.foldl (fun acc c =>
    let (fr, got) : List FEntry × Word := acc
    let back := c.mask &&& ~~~got
    if back = 0 then acc
    else (addEntry (removeLanes fr back) { pc := c.pc, prio := c.prio, mask := back, handler := c.handler }, got ||| back)) (fr, m)).1

/-- R385 and R386: what is younger than a word of mask `m` leaves the queues and the buffer, and what it took goes back; lanes that only the
younger words were fetched for execute them again. The helm fetches again in the clock after (R61). -/
def discardYounger (s : State) (seq : Nat) (m : Word) : State :=
  let g := s.grp.undoTo seq
  let back := g.popped.filter (fun p => decide (seq < p.seq))
  let rets := back.filterMap (fun p => match p with | .ret _ e => some e | _ => none)
  let records := back.filterMap (fun p => match p with | .event _ r => some r | _ => none)
  let values := back.filterMap (fun p => match p with | .value _ q v => some (FwdEntry.value q v) | _ => none)
  let g := { g with
    fwd := (values ++ g.fwd).filter (fun e => match e with | .lane c _ => decide (c.seq < seq) | .value q _ => decide (q < seq)),
    commit := g.commit.filter (fun e => decide (e.cur.seq < seq)),
    ret := (rets ++ g.ret).filter (fun e => decide (e.seq ≤ seq)),
    held := g.held.filter (fun e => decide (e.seq ≤ seq)),
    flight := g.flight.filter (fun f => decide (f.1 < seq)),
    awaits := g.awaits.filter (fun w => decide (w.cur.seq ≤ seq)),
    ctl := match g.ctl with | some c => if seq ≤ c.cur.seq then none else some c | none => none,
    trail := g.trail.filter (fun c => decide (c.seq < seq)),
    frontier := giveBack g.frontier m (g.trail.filter fun c => decide (seq < c.seq)),
    popped := g.popped.filter (fun p => decide (p.seq ≤ seq)),
    runNo := g.runNo + 1, runLen := 0, wait := .ready, pendFault := none, homeGone := false, yielded := [], age := 0, urgent := none,
    helmClk := max g.helmClk (s.clock + 1) : Group }
  { s with grp := g, team := { s.team with events := records ++ s.team.events } }

/-- FSTAT as a word (Table 23.4). -/
def FaultRec.fstat (r : FaultRec) : Word :=
  BitVec.ofNat 32 (r.cls.toNat + 256 * r.prio.toNat + 2 ^ 14 * r.fetch.toNat + 2 ^ 15 * r.defer.toNat + 2 ^ 16 * r.tile.toNat +
    2 ^ 19 * r.valid.toNat)

/-- Whether a group holds a fault record or a handler entry. -/
def Group.inHandler (g : Group) : Bool := g.fault.valid || g.frontier.any (fun e => e.handler)

/-- FWORD of a fault (Table 23.3): the word, of a deferred fault the joint word. -/
def PendFault.recWord (f : PendFault) : Word := if f.defer then f.fword else f.cur.word

/-- A DOUBLE (R391): the new fault goes to the fault ring, every live lane retires and the group exits. -/
def doubleFault (s : State) (f : PendFault) : State :=
  exitGroup (ctxRing (s.modGrp fun g => { g with live := 0 }) s.team.asid
    { name := s.name, lanes := f.lanes, cls := 0x21, double := true, fetch := f.fetch, defer := f.defer, dclass := f.cls,
      fpc := f.cur.pc, faddr := f.faddr, fword := f.recWord, fcode := f.fcode })

/-- Taking a fault (R386): younger work is rolled back; the lanes that did not fault go on at PC + 4; the faulting lanes enter the
handler with the fault record written (Table 23.4), or retire with an UNTRAPPED ring entry where CTX.TRAPVEC is 0; a fault while a
record or a handler entry exists is a DOUBLE. -/
def takeFault (s : State) (f : PendFault) : State :=
  let s := discardYounger s f.cur.seq f.cur.mask
  if s.grp.inHandler then doubleFault s f
  else
    let c := f.cur
    let rest : FEntry := { pc := c.pc + 4, prio := c.prio, mask := c.mask &&& ~~~f.lanes, handler := c.handler }
    let s := s.modGrp fun g => { g with frontier := addEntry (removeLanes g.frontier c.mask) rest,
                                        passBreak := if g.passBreak = some c.pc then none else g.passBreak }
    let vec := (ctxOf s s.team.asid).trapVec &&& ~~~(3 : DWord)
    let word := f.recWord
    if vec = 0 then
      retireLanes (ctxRing s s.team.asid
        { name := s.name, lanes := f.lanes, cls := f.cls, untrapped := true, fetch := f.fetch, defer := f.defer, fpc := c.pc,
          faddr := f.faddr, fword := word, fcode := f.fcode }) f.lanes
    else
      s.modGrp fun g =>
        { g with fault := { cls := f.cls, prio := c.prio, fetch := f.fetch, defer := f.defer, tile := f.tile, valid := true,
                            lanes := f.lanes, fpc := c.pc, faddr := f.faddr, fword := word, fcode := f.fcode },
                 frontier := g.frontier ++ [{ pc := vec, prio := 63, mask := f.lanes, handler := true }] }

/-- The access that a word makes, as `Team.pageKind` codes it; a word that could not be fetched is 0 here. -/
def accessKind (w : Word) : Nat :=
  match (if w = 0 then none else decodeWord w) with
  | none => 3
  | some i => match i with
    | .st _ _ _ _ _ => 1
    | .sst _ _ _ _ _ => 1
    | .atom _ _ _ _ _ _ => 2
    | .red _ _ _ _ _ => 2
    | .cas _ _ _ _ _ => 2
    | .satom _ _ _ _ _ => 2
    | _ => 0

/-- A group's AGE and URGENT are cleared (R343). -/
def Group.clearAge (g : Group) : Group := { g with age := 0, urgent := none }

/-- The members of a team's cluster, the team itself among them, are about to be saved (R423, R428). -/
def markSaving (s : State) (t : Team) (c : SaveCause) : State :=
  let mine (u : Team) : Bool := u.uid ≠ 0 && u.seqNo = t.seqNo && u.cidx = t.cidx
  let f (u : Team) : Team :=
    if mine u then { u with saving := some (u.saving.getD c), groups := u.groups.map Group.clearAge } else u
  { s with grp := if mine s.team then s.grp.clearAge else s.grp, team := f s.team, teams := s.teams.map f }

/-- A word that is to execute again: where it is the one at which the group resumed, it still passes the breakpoints (R365). -/
def Group.unpass (g : Group) (c : Cur) : Group :=
  if g.passSeq = some c.seq then { g with passBreak := some c.pc, passSeq := none } else g

/-- A page request is taken (R402): the lanes split, or the entry stays whole, and the word executes again for the lanes that met
the PEND entry or failed another check; the team waits for the page, or is to be saved. -/
def takePage (s : State) (f : PendFault) (va : DWord) (level : Nat) (slotHeld : Bool) : State :=
  let c := f.cur
  let s := discardYounger s c.seq c.mask
  let rest : FEntry := { pc := c.pc + 4, prio := c.prio, mask := c.mask &&& ~~~f.lanes, handler := c.handler }
  let again : FEntry := { pc := c.pc, prio := c.prio, mask := f.lanes, handler := c.handler }
  let base := removeLanes s.grp.frontier c.mask
  let split := addEntry (addEntry base rest) again
  let whole := addEntry base { again with mask := c.mask }
  let fr := if c.handler || 8 < programEntries split then whole else split
  let s := s.modGrp fun g => { g.unpass c with frontier := fr }
  let ctx := ctxOf s s.team.asid
  let s := ctxRing s s.team.asid
    { name := s.name, lanes := f.lanes, cls := clsXlate, source := 1, fpc := c.pc, faddr := va, fword := c.word,
      fcode := reason 7 level 0 }
  let first := s.team.pageWait.isNone && s.team.saving.isNone
  let s := { s with team := { s.team with pageKind := if first then accessKind c.word else s.team.pageKind } }
  if ctx.saveBase.toNat / 65536 = 0 || slotHeld then
    { s with grp := s.grp.clearAge, team := { s.team with pageWait := some (s.team.pageWait.getD va), groups := s.team.groups.map Group.clearAge } }
  else markSaving s s.team (.page va)

/-- Bytes of the save area of one core (R282). -/
def areaBytes : Nat := 16896 * 1024

/-- VA of the save area of a team's core at CTX.SAVEBASE. -/
def saveAreaOf (s : State) (t : Team) : DWord := (ctxOf s t.asid).saveBase + BitVec.ofNat 64 (t.core * areaBytes)

/-- Whether a save slot the team needs holds a Saved team (R402): the team slot of its number, or a group slot 16q + GSLOT. -/
def slotHeld (s : State) (t : Team) : Bool :=
  let area := saveAreaOf s t
  let slots := (s.groupsOf t.uid).map fun g => 16 * g.quad + g.gslot
  s.saved.any fun v => v.asid = t.asid && v.area = area &&
    (v.tslot = t.tslot || v.groups.any (fun g => slots.contains (16 * g.1 + g.2)))

/-- The oldest pending fault or page request of the group is taken. A REMOTE fault also writes a SOURCE 4 entry (R408). -/
def takePending (s : State) (f : PendFault) : State :=
  match f.page with
  | some (va, level) => takePage s f va level (slotHeld s s.team)
  | none =>
    takeFault (if f.cls = clsRemote then
      ctxRing s s.team.asid { name := s.name, lanes := f.lanes, cls := clsRemote, source := 4, fpc := f.cur.pc, faddr := f.faddr,
                              fword := f.cur.word, fcode := f.fcode }
    else s) f

/-- A fault is raised: taken at once when nothing of the group is older and outstanding, otherwise pending; the oldest pending fault
stays (R386, R387). -/
def raise (s : State) (f : PendFault) : State :=
  if olderOutstanding s.grp f.cur.seq then
    let f := match s.grp.pendFault with
      | some g => if g.cur.seq ≤ f.cur.seq then g else f
      | none => f
    s.modGrp fun g => { g with pendFault := some f }
  else takePending s f

/-- A fault of the word being executed, in every lane of its mask (R382). -/
def raiseAll (s : State) (cls : Byte) (faddr : DWord := 0) (fcode : Word := 0) : State :=
  raise s { cur := s.cur, lanes := s.cur.mask, cls := cls, faddr := faddr, fcode := fcode }

/-- The return from a handler (R391), a `wrsys FRESUME` that retires: the handler lanes retire or go on at FPC + 4 × SKIP with the
priority of the record. FRONTIER where retiring would leave more than eight program entries; SYSREG from any other entry. -/
def handlerReturn (s : State) (v : Word) (c : Cur) : State :=
  let g := s.grp
  match g.frontier.find? (fun e => e.handler) with
  | none => raise s { cur := c, lanes := c.mask, cls := 0x06 }
  | some h =>
    if !g.fault.valid || !c.handler then raise s { cur := c, lanes := c.mask, cls := 0x06 }
    else if v.getLsbD 1 then
      let fr := (g.flow.retire h.mask).frontier
      if fr.isEmpty && g.live &&& ~~~h.mask ≠ 0 then raise s { cur := c, lanes := c.mask, cls := 0x08 }
      else if 8 < programEntries fr then raise s { cur := c, lanes := c.mask, cls := 0x09 }
      else retireLanes (s.modGrp fun g => { g with fault := { g.fault with valid := false } }) h.mask
    else
      let pc := g.fault.fpc + (if v.getLsbD 0 then 4 else 0)
      s.modGrp fun g =>
        { g with fault := { g.fault with valid := false },
                 frontier := addEntry (g.frontier.filter (fun e => !e.handler)) { pc := pc, prio := g.fault.prio, mask := h.mask },
                 runNo := g.runNo + 1, runLen := 0 }

/-! ### Stall frames (R361) -/

def emptyFrame (pc : DWord) : StallFrame := { pc := pc, counts := List.replicate 8 0 }

/-- Pushes a frame; beyond four, EXTRA rises. -/
def Group.pushFrame (g : Group) (pc : DWord) : Group :=
  if g.stall.length < 4 then { g with stall := emptyFrame pc :: g.stall } else { g with stallExtra := g.stallExtra + 1 }

def satAdd32 (a b : Word) : Word := BitVec.ofNat 32 (min (a.toNat + b.toNat) 0xFFFFFFFF)

/-- Pops a frame into the one below it; frame 0 is never popped. -/
def Group.popFrame (g : Group) : Group :=
  if g.stallExtra ≠ 0 then { g with stallExtra := g.stallExtra - 1 }
  else match g.stall with
    | f :: h :: r => { g with stall := { h with counts := List.zipWith satAdd32 f.counts h.counts } :: r }
    | _ => g

/-- Adds to a counter of the top frame. -/
def Group.countStall (g : Group) (cls n : Nat) : Group :=
  match g.stall with
  | f :: r => { g with stall := { f with counts := f.counts.modify cls (fun c => satAdd32 c (BitVec.ofNat 32 n)) } :: r }
  | [] => g

/-! ### Debug blocks (R363) -/

/-- Whether a write of a debug block applies to a word fetched at a clock: it was performed more than 64 clocks before. -/
def debugApplies (clk : Nat) (w : Option Nat × DebugBlock) : Bool := match w.1 with | some c => decide (c + 64 < clk) | none => true

/-- The debug block of a context as it applies to a word fetched at a clock. -/
def debugAt (s : State) (asid : BitVec 12) (clk : Nat) : DebugBlock :=
  match (look s.hub.debugLog asid.toNat []).find? (debugApplies clk) with
  | some w => w.2
  | none => look s.hub.debug asid.toNat {}

/-! ### Runs (R50) and the clock -/

/-- The helm's run closes in front of a word, if it has any. -/
def Group.closeRun (g : Group) (clk : Nat) : Group :=
  if g.runLen = 0 then g else { g with runNo := g.runNo + 1, runLen := 0, closed := (g.runNo, clk) :: g.closed.take 3 }

/-- The helm has processed a word at a clock: the run closes at B = 1, after 24 words, and where `close` says so. The word stays in the
trail while something older may still roll it back. -/
def Group.countWord (g : Group) (c : Cur) (clk : Nat) (close : Bool) : Group :=
  let g := { g with trail := (g.trail ++ [c]).filter (fun x => olderOutstanding g x.seq || faultBefore g x.seq), passBreak := none,
                       passSeq := if g.passBreak.isSome then some c.seq else g.passSeq }
  if close || c.word.getLsbD 30 || 24 ≤ g.runLen + 1 then
    { g with nextSeq := g.nextSeq + 1, runNo := g.runNo + 1, runLen := 0, closed := (g.runNo, clk) :: g.closed.take 3 }
  else { g with nextSeq := g.nextSeq + 1, runLen := g.runLen + 1 }

/-! ### The wide pipe: who holds it, who may win it (R51, R343) -/

/-- The next lane word of a group, with its run. -/
def nextLane (g : Group) : Option (Cur × Nat) :=
  g.fwd.findSome? fun e => match e with | .lane c r => some (c, r) | .value _ _ => none

/-- Whether the next lane word belongs to the run that has the pipe. -/
def inRun (g : Group) : Bool := match nextLane g with | some (_, r) => decide (r = g.pipeRun) | none => false

/-- Whether a group holds its quadrant's wide pipe: the run it won is not fully issued (R51). -/
def holdsPipe (g : Group) : Bool := g.live ≠ 0 && g.pipeRun ≠ 0 && (g.runNo = g.pipeRun || inRun g)

/-- Whether a result of the last run, or a fault point of it, has no clock yet: a return from memory, an atomic that is not performed, a
word that waits for a reply, a control word that waits to update the frontier (R52). Writes of drains (place 0) are of no run. -/
def Group.parkOpen (g : Group) : Bool :=
  g.pend.any (fun w => w.due.isNone && w.seq ≠ 0) || g.held.any (fun h => h.dest.isSome || h.lod.isSome) ||
    g.awaits.any (fun w => !w.cur.word.getLsbD 31) || g.ctl.isSome

/-- Whether a group is eligible at a clock (R51): the first lane word of its next run is in its queue, its park has ended, and neither a
`yield` (R216), a page request (R402), a save (R423), a fault nor the debug controls bar it. -/
def eligible (clock : Nat) (t : Team) (g : Group) : Bool :=
  (match nextLane g with
    | some (c, r) => r ≠ g.pipeRun && !faultBefore g (c.seq + 1) && g.yielded.all fun y => decide (r ≠ y.run)
    | none => false) &&
  g.live ≠ 0 && g.parkClk ≤ clock && !g.parkOpen && t.saving.isNone && t.pageWait.isNone &&
    (match g.wait with | .stopped _ => false | _ => true)

/-- Groups of a core's quadrant: the team and the group. -/
def groupsIn (s : State) (core quad : Nat) : List (Team × Group) :=
  (s.allTeams.filter (fun t => t.core = core)).flatMap fun t =>
    ((s.groupsOf t.uid).filter (fun g => g.quad = quad && g.live ≠ 0)).map fun g => (t, g)

/-- The key of a group (R343); R343 ends the key with the team, and the model orders the groups of one team by group-in-team index, so two of them
whose URGENT was set in one clock win in that order (DESIGN CHOICE, notes/assumptions/83.md). -/
def groupKey (x : Team × Group) : Nat := x.1.seqNo * 2 ^ 36 + x.1.tidx * 16 + x.2.gidx

/-- The lowest team by key, its groups in rotation after the one a record names (R343). -/
def nextInTurn (es : List (Team × Group)) (last : Team → Nat) : Option (Team × Group) :=
  match (sortBy groupKey es).head? with
  | none => none
  | some f =>
    let mine := sortBy groupKey (es.filter fun x => x.1.uid = f.1.uid)
    match mine.find? fun x => last f.1 < 16 && last f.1 < x.2.gidx with
    | some x => some x
    | none => mine.head?

/-- The winner among groups of a quadrant (R343): the one that set URGENT earliest, ties by key; otherwise the lowest team by key, its groups
in rotation after the last winner. -/
def arbitrate (es : List (Team × Group)) (quad : Nat) : Option (Team × Group) :=
  match (sortBy (fun x : Team × Group => x.2.urgent.getD 0) (sortBy groupKey (es.filter fun x => x.2.urgent.isSome))).head? with
  | some x => some x
  | none => nextInTurn es fun t => look t.lastWin quad 16

/-- The group that wins arbitration in a quadrant, which no run holds (R343). -/
def winner (s : State) (core quad : Nat) : Option (Team × Group) :=
  let all := groupsIn s core quad
  if all.any fun x => holdsPipe x.2 then none else arbitrate (all.filter fun x => eligible s.clock x.1 x.2) quad

/-- Whether every return-queue slot is reserved or filled (R44). -/
def retFull (g : Group) : Bool := decide (8 ≤ g.ret.length)

/-- Whether a lane word is a `qpush` or `redux`. -/
def fillsRet (w : Word) : Bool :=
  match decodeWord w with
  | some i => match i with | .qpush _ _ _ => true | .redux _ _ _ _ => true | _ => false
  | none => false

/-- Whether the pipe has a lane word of the group that it can issue (R46, R51, R54). -/
def issues (g : Group) : Bool :=
  match nextLane g with
  | some (c, r) => r = g.pipeRun && !(retFull g && fillsRet c.word) && !faultBefore g (c.seq + 1) && g.strictAt ≠ some c.seq
  | none => false

/-! ### The clock (R358, R362) -/

/-- Whether a group is parked at a clock (R52). -/
def parked (clock : Nat) (g : Group) : Bool := !(holdsPipe g || g.pipeRun = 0) && (g.parkOpen || decide (clock < g.parkClk))

/-- Whether a group could win the pipe at a clock if its next lane word were in its queue (Table 18.5, precedence 7): nothing bars it. -/
def mayWin (clock : Nat) (t : Team) (g : Group) : Bool :=
  g.parkClk ≤ clock && !g.parkOpen && g.pendFault.isNone && (g.yielded.all fun y => decide (g.runNo ≠ y.run)) && t.saving.isNone &&
    t.pageWait.isNone && (match g.wait with | .stopped _ => false | .page _ => false | _ => true)

/-- The stall class in a clock of a resident group that issues nothing (Table 18.5, precedence 2 to 8). -/
def stallClass (s : State) (clock : Nat) (t : Team) (g : Group) : Option Nat :=
  if parked clock g then some 4
  else match g.wait with
  | .bar _ _ => some 5
  | .cbar _ _ => some 5
  | .released _ => some 5
  | .ring _ _ _ => some 5
  | .mwait _ => some 6
  | .event => some 7
  | .spop => some 3
  | _ =>
    let rest := (groupsIn s t.core g.quad).filter fun x => !(x.1.uid = t.uid && x.2.gidx = g.gidx)
    let held := rest.any (fun x => holdsPipe x.2) || clock < (look (s.core t.core).pipes g.quad {}).next
    if holdsPipe g then (if inRun g then none else some 2)
    else if (nextLane g).isNone then
      (if held || !mayWin clock t g then none
       else match arbitrate ((t, g) :: rest.filter fun x => eligible clock x.1 x.2) g.quad with
        | some x => if x.1.uid = t.uid && x.2.gidx = g.gidx then some 2 else none
        | none => none)
    else if held && eligible clock t g then some 0
    else none

/-- The clocks after the present one, and before `n` have passed, in which stall classes of a quadrant may change with nothing moving: a park ends,
the pipe comes free. -/
def classClocks (s : State) (n core quad : Nat) : List Nat :=
  let all := (groupsIn s core quad).map (fun x => x.2.parkClk) ++ [(look (s.core core).pipes quad {}).next]
  (sortBy (fun c => c) (all.filter fun c => s.clock < c && c < s.clock + n)).eraseDups

/-- `n` clocks as stretches of clocks in which no stall class of a quadrant changes: the first clock of each, and how many. -/
def classSpans (s : State) (n core quad : Nat) : List (Nat × Nat) :=
  let cs := s.clock :: classClocks s n core quad
  List.zipWith (fun a b => (a, b - a)) cs (cs.drop 1 ++ [s.clock + n])

/-- The last clock by which older words that stand in flight pass their fault point. -/
def Group.passClock (g : Group) (seq : Nat) : Nat := (g.flight.filter fun f => decide (f.1 < seq)).foldl (fun m f => max m f.2) 0

/-- What has passed its fault point by a clock is no longer in flight; undo entries of words that are speculative no longer are free (R384), and
return-queue values of such words are available (R44). -/
def Group.passTo (g : Group) (clk : Nat) : Group :=
  Group.trimUndo { g with flight := g.flight.filter (fun f => decide (clk < f.2)),
                          ret := g.ret.map fun e => { e with ready := max e.ready (g.passClock e.seq) } }

/-- Each stretch of clocks of a list counts in the class, if any, that its first clock has. -/
def Group.countOver (g : Group) (cls : Nat → Option Nat) (l : List (Nat × Nat)) : Group :=
  l.foldl (fun x k => match cls k.1 with
    | some c => x.countStall c k.2
    | none => x) g

/-- `n` clocks pass for a group; one that issues nothing counts them (R362). -/
def tickGroup (s : State) (n : Nat) (t : Team) (g : Group) : Group :=
  let g := if g.live = 0 || issues g then g else g.countOver (fun k => stallClass s k t g) (classSpans s n t.core g.quad)
  g.passTo (s.clock + n)

/-- Whether a quadrant has a group that could issue, and issues nothing (Table 18.1). -/
def quadStalls (s : State) (core quad : Nat) : Bool :=
  let all := groupsIn s core quad
  match all.find? fun x => holdsPipe x.2 with
  | some x => !issues x.2
  | none => all.any fun x => eligible s.clock x.1 x.2

/-- The quadrants that hold groups. -/
def quadrantsUsed (s : State) : List (Nat × Nat) :=
  (s.allTeams.flatMap fun t => (s.groupsOf t.uid).map fun g => (t.core, g.quad)).eraseDups

/-- Clocks of a stretch that fall at the next tempo tick or after it, and so count in the period that it begins (R358). -/
def lateClocks (s : State) (from_ n : Nat) : Nat :=
  if s.trace.tempo then min n (from_ + n - (s.trace.t0 + s.trace.ticks * 2 ^ s.trace.k)) else 0

/-- `n` clocks from `from_` on in which a core stalls count (Table 18.1). -/
def State.countStalls (s : State) (core from_ n : Nat) : State :=
  let late := lateClocks s from_ n
  { s with stallCnt := change s.stallCnt core 0 (· + (n - late)), stallNext := change s.stallNext core 0 (· + late) }

/-- The same of clocks in which the wide pipe of one of its quadrants issues. -/
def State.countBusy (s : State) (core from_ n : Nat) : State :=
  let late := lateClocks s from_ n
  { s with busy := change s.busy core 0 (· + (n - late)), busyNext := change s.busyNext core 0 (· + late) }

/-- `n` clocks pass. -/
def State.tick (s : State) (n : Nat) : State :=
  let f (t : Team) : Team := { t with groups := t.groups.map (tickGroup s n t) }
  let c := (quadrantsUsed s).foldl (fun c q =>
    let idle := n - ((look (s.core q.1).pipes q.2 {}).next - s.clock)
    if quadStalls s q.1 q.2 then c.countStalls q.1 (s.clock + n - idle) idle else c) s
  { s with clock := s.clock + n, grp := tickGroup s n s.team s.grp, team := f s.team, teams := s.teams.map f, stallCnt := c.stallCnt,
           stallNext := c.stallNext }

/-- A uniform word has executed: its lanes go to `pc`, the run is counted, a clock of the helm passes. -/
def advanceTo (s : State) (pc : DWord) (close : Bool) : State :=
  if s.grp.live = 0 then s.tick 1
  else (s.modGrp fun g =>
    { (g.countWord s.cur s.clock close) with frontier := moveLanes g.frontier s.cur pc, wait := .ready }).tick 1

/-- The word after it comes next. -/
def advance (s : State) : State := advanceTo s (s.cur.pc + 4) false

/-- The helm stops in front of the word. -/
def stopHelm (s : State) (w : Wait) : State := (s.modGrp fun g => { g with wait := w }).tick 1

end Sys2Proof.Machine
end

