-- ==== Sys2Proof/Machine/Reset.lean ====
section
/-!
DEFINITION. The forced reset of a context (25 R421), one operation for its six causes, and the counts PSTAT reads (R418, R419).
-/
namespace Sys2Proof.Machine

def State.ctl (s : State) (asid : BitVec 12) : CtxCtl := look s.hub.ctl asid.toNat {}
def State.modCtl (s : State) (asid : BitVec 12) (f : CtxCtl → CtxCtl) : State :=
  { s with hub := { s.hub with ctl := change s.hub.ctl asid.toNat {} f } }

/-- Resident teams of a context; a slot that a finished cluster member holds counts (R30). -/
def residentTeams (s : State) (asid : BitVec 12) : List Team := s.allTeams.filter (fun t => t.asid = asid)

/-- Whether a command is not in progress, and waits for a Saved team: its record, or its start behind such a record (R266, R424). -/
def heldForSaved (s : State) (c : Command) : Bool :=
  (c.state = .finished || c.state = .queued) && s.saved.any fun v => v.uid = c.uid

/-- PSTAT.STATE (R419): a reset is one step of the model, so 3 is never seen. -/
def pstate (s : State) (asid : BitVec 12) : Nat :=
  if !(s.ctl asid).drain then 0
  else if (residentTeams s asid).isEmpty && s.commands.all (fun c => c.asid ≠ asid || heldForSaved s c) then 2 else 1

/-- Rays per (unit, scene, tag) change by one (R312). -/
def countRay (s : State) (unit : Nat) (scene : DWord) (tag : Nat) (up : Bool) : State :=
  let key := (unit, scene, tag)
  let old := ((s.rayCounts.find? (fun e => e.1 = key)).map (fun e => e.2)).getD 0
  let n := if up then old + 1 else old - 1
  let rest := s.rayCounts.filter (fun e => e.1 ≠ key)
  { s with rayCounts := if n = 0 then rest else rest ++ [(key, n)] }

/-- A ray leaves its unit, and its count falls. -/
def dropRay (s : State) (r : Ray) : State :=
  countRay { s with rays := s.rays.filter (fun x => x.id ≠ r.id) } r.core r.scene r.tag false

/-- The injection stub of a core whose teams a reset removes (R422): a request that a slice's port holds, the packet of which the core has injected only a part
(DESIGN CHOICE, notes/assumptions/90.md), is voided and its allowances return. -/
def voidRequests (s : State) (core : Nat) : State :=
  if s.injected.any fun r => r.src = core && r.waits then
    modRing { s with injected := s.injected.filter fun r => !(r.src = core && r.waits) } { source := 12, fcode := BitVec.ofNat 32 core }
  else s

/-- The forced reset of R421: launches end, teams, commands and rays of the context are removed, its fences are signalled. `soft` says
that a SOURCE 5 entry stands instead of the report: the PA and the structure code (R414). -/
def forcedReset (s : State) (asid : BitVec 12) (cause : Nat) (soft : Option (Nat × Nat) := none) : State :=
  let s := match soft with
    | some (pa, code) =>
      let e : RingEntry := { source := 5, faddr := BitVec.ofNat 64 pa, fcode := BitVec.ofNat 32 code }
      modRing (ctxRing s asid e) e
    | none => s
  let ended (l : Launch) : Launch :=
    if l.asid = asid && !l.finished then { l with ended := true, noDone := true, finished := true, live := 0 } else l
  let gone := (s.allTeams.filter (fun t => t.asid = asid)).map (fun t => t.seqNo) ++
    (s.saved.filter (fun v => v.asid = asid)).map (fun v => v.seqNo)
  let kept := (s.saved.filter (fun v => v.asid = asid)).flatMap (fun v => v.rays)
  let focus := s.team.asid = asid && s.team.uid ≠ 0
  let s := (sortBy id ((residentTeams s asid).map fun t => t.core).eraseDups).foldl voidRequests s
  let s := endUses s fun n => s.launches.any fun l => l.seqNo = n && l.asid = asid && !l.finished
  let s := { s with
    launches := s.launches.map ended,
    grp := if focus then {} else s.grp,
    team := if focus then {} else s.team,
    teams := s.teams.filter (fun t : Team => t.asid ≠ asid),
    saved := s.saved.filter (fun v : SavedTeam => v.asid ≠ asid),
    clusters := s.clusters.filter (fun c : Cluster => !gone.contains c.seqNo),
    commands := s.commands.filter (fun c : Command => c.asid ≠ asid),
    ctxRes := change s.ctxRes asid.toNat {} (fun r : CtxRes => { r with fences := [] }) }
  let mine := s.rays.filter (fun r => !s.commands.any (fun c => c.id = r.cmd)) ++ kept
  let s := mine.foldl dropRay s
  let s := s.modCtl asid fun c =>
    { c with cause := BitVec.ofNat 8 cause, resets := if c.resets = 0xFFFFFF then c.resets else c.resets + 1 }
  match soft with
  | some _ => s
  | none => modRing s { source := 13, fcode := BitVec.ofNat 32 (asid.toNat + cause * 65536) }

/-- The context of a running group is reset for touching a lost line (R414); the entry names the structure in which the line was lost (Table 24.3). -/
def lostReset (s : State) (asid : BitVec 12) (pa : Nat) : State :=
  forcedReset s asid 4 (some (128 * (pa / 128), look (s.die (homeOf (pa / 128))).lostCode (pa / 128) 9))

end Sys2Proof.Machine
end

