-- ==== Sys2Proof/Machine/Hub.lean ====
section
/-!
DEFINITION. The registers of the hub-resource region (05 R84) as privileged contexts and the host reach them: launch queues (16
R331), MOD_BOOTSTAT (01 R20), APERBASE, fabric and energy registers (17 R347 to R355), way masks (05 R98), context descriptors (R88),
debug blocks (18 R363), module fault registers (24 R412), context control blocks (25 R418) and the service block (26 R457). A bit
that is reserved or read-only ignores writes, and a reserved bit reads as zero (23 R395).
-/
namespace Sys2Proof.Machine

/-- First PA of the region. -/
def hubBase : Nat := 0x8000000000

/-- The bits of `be` come from `v`, the others stay; only the bits of `m` are held. -/
def mergeBits (old v be m : DWord) : DWord := ((old &&& ~~~be) ||| (v &&& be)) &&& m

def lowMask (n : Nat) : DWord := BitVec.ofNat 64 (2 ^ n - 1)
def maskRange (hi lo : Nat) : DWord := BitVec.ofNat 64 (2 ^ (hi + 1) - 2 ^ lo)

def State.queue (s : State) (n : Nat) : LaunchQueue := look s.hub.queues n {}
def State.modQueue (s : State) (n : Nat) (f : LaunchQueue → LaunchQueue) : State :=
  { s with hub := { s.hub with queues := change s.hub.queues n {} f } }
def State.modCtx (s : State) (n : Nat) (f : CtxDesc → CtxDesc) : State :=
  { s with hub := { s.hub with ctx := change s.hub.ctx n {} f } }

/-- A write of a debug block, which applies to words fetched more than 64 clocks later (R363); writes that newer ones replace for every word fetched from now on, and
for every lane word that stands in a queue, are forgotten. -/
def State.modDebug (s : State) (n : Nat) (f : DebugBlock → DebugBlock) : State :=
  let clk := (s.grp :: s.allTeams.flatMap fun t => t.groups).foldl (fun m g => g.fwd.foldl (fun m e => match e with
    | .lane c _ => min m c.clk
    | .value _ _ => m) m) s.clock
  let old := look s.hub.debug n {}
  let log := match look s.hub.debugLog n [] with
    | [] => [(none, old)]
    | l => l
  let live := log.takeWhile fun w => !debugApplies clk w
  let log := (some s.clock, f old) :: live ++ ((log.drop live.length).take 1).map fun w => (none, w.2)
  { s with hub := { s.hub with debug := put s.hub.debug n (f old) {}, debugLog := put s.hub.debugLog n log [] } }

/-- A context is created (R88): its resource slots are empty (R314). -/
def createCtx (s : State) (asid : Nat) : State :=
  let drop (c : Core) : Core := { c with residency := c.residency.filter fun e => e.asid.toNat ≠ asid }
  { s with ctxRes := change s.ctxRes asid {} (fun r : CtxRes => { r with slots := [] }),
           cores := (s.cores.map fun c => c.1).foldl (fun m k => change m k {} drop) s.cores }

/-- MOD_BOOTSTAT (Table 1.5). -/
def bootstat (s : State) : Nat :=
  s.stage + (if s.stage = 7 then 16 else 0) + (if s.bootFail then 32 else 0) + 65536 * s.fwver.toNat

/-- SVCCAP (Table 26.4). -/
def svccap (s : State) : Nat :=
  s.hub.capCores + 2 ^ 10 * s.hub.capSlices + 2 ^ 18 * s.hub.capChannels + 2 ^ 25 * s.hub.capPorts +
    2 ^ 32 * (if s.slalia.lost then 0 else s.slalia.lanes)

/-- A repair record as 32 bytes (Table 26.5). -/
def Repair.bytes (r : Repair) : Nat :=
  r.kind.toNat + 2 ^ 8 * r.action.toNat + 2 ^ 16 * r.ident.toNat + 2 ^ 32 * r.left.toNat + 2 ^ 64 * r.boot.toNat +
    2 ^ 128 * r.time.toNat

/-- A field of a context descriptor (Table 5.10): its masks are those of Tables 5.2, 6.1, 11.6, 23.4 and 24.2. -/
def CtxDesc.field (c : CtxDesc) (o : Nat) : DWord :=
  match o with
  | 0x00 => c.heapBase
  | 0x08 => c.heapLimit
  | 0x10 => c.heapOffset
  | 0x18 => c.ptRoot
  | 0x20 => c.lease.setWidth 64
  | 0x28 => c.pubAddr
  | 0x30 => c.trapVec
  | 0x38 => c.fring
  | 0x40 => c.saveBase
  | 0x48 => (if c.valid then 1 else 0) ||| (if c.priv then 2 else 0)
  | _ => 0

/-- Which of its bits are held. -/
def ctxMask (o : Nat) : DWord :=
  match o with
  | 0x00 => maskRange 63 16
  | 0x08 => maskRange 63 16
  | 0x10 => maskRange 63 16
  | 0x18 => maskRange 47 13
  | 0x20 => lowMask 16
  | 0x28 => maskRange 45 3
  | 0x30 => maskRange 63 2
  | 0x38 => maskRange 63 12 ||| lowMask 5
  | 0x40 => maskRange 63 16
  | 0x48 => lowMask 2
  | _ => 0

/-- Sets it; setting VALID creates the context (R88). -/
def CtxDesc.setField (c : CtxDesc) (o : Nat) (v : DWord) : CtxDesc :=
  match o with
  | 0x00 => { c with heapBase := v }
  | 0x08 => { c with heapLimit := v }
  | 0x10 => { c with heapOffset := v }
  | 0x18 => { c with ptRoot := v }
  | 0x20 => { c with lease := v.setWidth 32 }
  | 0x28 => { c with pubAddr := v }
  | 0x30 => { c with trapVec := v }
  | 0x38 => { c with fring := v }
  | 0x40 => { c with saveBase := v }
  | 0x48 => { c with valid := v.getLsbD 0, priv := v.getLsbD 1 }
  | _ => c

/-- PCTL (Table 25.1). -/
def CtxCtl.pctl (c : CtxCtl) : Nat :=
  c.drain.toNat + 4 * c.dlExp.toNat + 128 * c.dlEn.toNat + 256 * c.rayBudget.toNat

/-- The word of a debug block at an offset (Table 18.6); RESUME reads as zero. -/
def DebugBlock.word (b : DebugBlock) (o : Nat) : DWord :=
  match o with
  | 0x00 => (if b.brkEn then 1 else 0) ||| (if b.step then 2 else 0) ||| (if b.strict then 4 else 0)
  | 0x08 => b.strictName
  | _ =>
    if 0x100 ≤ o && o < 0x200 then
      let e := look b.entries ((o - 0x100) / 0x20) {}
      match o % 0x20 with
      | 0x00 => e.pc
      | 0x08 => e.name
      | 0x10 => e.ctl.setWidth 64
      | _ => 0
    else 0

/-- The optical ports that are out of service (R450). -/
def deadPorts (s : State) : DWord :=
  s.ports.foldl (fun m p => if p.2.outOfService then m ||| BitVec.ofNat 64 (2 ^ p.1) else m) 0

/-- The register at an offset of the region that is a multiple of 8. -/
def hubReg (s : State) (o : Nat) : DWord :=
  if o < 0x4000 then
    let q := s.queue (o / 64)
    match o % 64 with
    | 0x00 => q.base
    | 0x08 => q.cfg.setWidth 64
    | 0x10 => q.head.setWidth 64
    | 0x18 => q.tail.setWidth 64
    | _ => 0
  else if o = 0xF000 then BitVec.ofNat 64 (bootstat s)
  else if o = 0xF008 then s.hub.aperBase
  else if o = 0x10000 then s.hub.limctl.setWidth 64
  else if 0x20000 ≤ o && o < 0x20800 then look s.hub.fabRt ((o - 0x20000) / 8) 0 &&& ~~~(deadPorts s)
  else if o = 0x20800 then s.hub.fabId.setWidth 64
  else if 0x30000 ≤ o && o < 0x32000 then BitVec.ofNat 64 (look s.hub.energy ((o - 0x30000) / 8) 0)
  else if 0x50000 ≤ o && o < 0x50400 then (look s.hub.wayMask ((o - 0x50000) / 8) 0xFFFF).setWidth 64
  else if 0x100000 ≤ o && o < 0x200000 then (look s.hub.ctx ((o - 0x100000) / 256) {}).field (o % 256)
  else if 0x1000000 ≤ o && o < 0x2000000 then (look s.hub.debug ((o - 0x1000000) / 4096) {}).word (o % 4096)
  else if o = 0x2000000 then s.hub.modFring
  else if o = 0x2000008 then s.hub.modPol
  else if o = 0x2000010 then s.hub.modNote
  else if o = 0x2000018 then s.hub.peerTo
  else if 0x2000100 ≤ o && o < 0x2000168 then
    let d := (o - 0x2000100) / 8
    BitVec.ofNat 64 (look s.hub.serrCe d 0 + 2 ^ 32 * look s.hub.serrUe d 0)
  else if 0x3000000 ≤ o && o < 0x3040000 then
    let asid : BitVec 12 := BitVec.ofNat 12 ((o - 0x3000000) / 64)
    let c := s.ctl asid
    match o % 64 with
    | 0x00 => BitVec.ofNat 64 c.pctl
    | 0x08 => BitVec.ofNat 64 (pstate s asid + 16 * (residentTeams s asid).length +
        2 ^ 18 * (s.saved.filter (fun v => v.asid = asid)).length + 2 ^ 32 * c.cause.toNat + 2 ^ 40 * c.resets.toNat)
    | _ => 0
  else if o = 0x4000000 then
    BitVec.ofNat 64 (s.hub.svcReq.toNat + 2 * s.hub.degraded.toNat + 4 * s.repairs.length)
  else if o = 0x4000008 then BitVec.ofNat 64 (svccap s)
  else if 0x4001000 ≤ o && o < 0x4003000 then
    match s.repairs[(o - 0x4001000) / 32]? with
    | some r => BitVec.ofNat 64 (r.bytes / 2 ^ (8 * (o % 32)))
    | none => 0
  else 0

/-- PCTL written (R418, R419, R421). -/
def writePctl (s : State) (asid : BitVec 12) (v be : DWord) : State :=
  let c := s.ctl asid
  let w := mergeBits (BitVec.ofNat 64 c.pctl) v be (lowMask 21)
  let c' : CtxCtl := { c with drain := w.getLsbD 0, dlExp := w.extractLsb' 2 5, dlEn := w.getLsbD 7, rayBudget := w.extractLsb' 8 13,
                              drainAt := if w.getLsbD 0 && !c.drain then s.clock else c.drainAt }
  let s := s.modCtl asid fun _ => c'
  if (v &&& be).getLsbD 1 then forcedReset s asid 1 else s

/-- RESUME (R365): a stopped group goes on at once; whether it stops again after one word, STEP says as it applies to that word. -/
def resumeGroup (s : State) (asid : BitVec 12) (name : DWord) : State :=
  let hit (t : Team) (g : Group) : Bool := t.asid = asid && g.live ≠ 0 && (nameOf t.tidx t.launchId g.gidx).extractLsb' 0 60 = name.extractLsb' 0 60
  let go (g : Group) : Group := match g.wait with
    | .stopped _ => { g with wait := .ready, passBreak := (topEntry g.frontier).map (fun e => e.pc), stepping := true, age := 0,
                             urgent := none }
    | _ => g
  { s with grp := if hit s.team s.grp then go s.grp else s.grp,
           team := { s.team with groups := s.team.groups.map (fun g => if hit s.team g then go g else g) },
           teams := s.teams.map (fun t : Team => { t with groups := t.groups.map (fun g => if hit t g then go g else g) }) }

/-- A debug block written (Table 18.6). -/
def writeDebug (s : State) (asid o : Nat) (v be : DWord) : State :=
  let old := (look s.hub.debug asid {}).word o
  match o with
  | 0x00 =>
    let w := mergeBits old v be (lowMask 3)
    s.modDebug asid fun b => { b with brkEn := w.getLsbD 0, step := w.getLsbD 1, strict := w.getLsbD 2 }
  | 0x08 => s.modDebug asid fun b => { b with strictName := mergeBits old v be (lowMask 61) }
  | 0x10 => resumeGroup s (BitVec.ofNat 12 asid) (v &&& be)
  | _ =>
    if 0x100 ≤ o && o < 0x200 then
      s.modDebug asid fun b => { b with entries := change b.entries ((o - 0x100) / 0x20) {} fun e =>
        match o % 0x20 with
        | 0x00 => { e with pc := mergeBits old v be (maskRange 63 0) }
        | 0x08 => { e with name := mergeBits old v be (maskRange 63 0) }
        | 0x10 => { e with ctl := (mergeBits old v be (lowMask 10)).setWidth 10 }
        | _ => e }
    else s

/-- The bits of `be` are written at an offset that is a multiple of 8. -/
def hubSetReg (s : State) (o : Nat) (v be : DWord) : State :=
  let m (mask : DWord) : DWord := mergeBits (hubReg s o) v be mask
  if o < 0x4000 then
    match o % 64 with
    | 0x00 => s.modQueue (o / 64) fun q => { q with base := m (maskRange 47 7) }
    | 0x08 => s.modQueue (o / 64) fun q => { q with cfg := (m (lowMask 6)).setWidth 6 }
    | 0x10 => s.modQueue (o / 64) fun q => { q with head := (m (lowMask 32)).setWidth 32 }
    | _ => s
  else if o = 0xF008 then { s with hub := { s.hub with aperBase := m (maskRange 47 33) } }
  else if o = 0x10000 then { s with hub := { s.hub with limctl := (m (lowMask 1 ||| maskRange 13 8)).setWidth 32 } }
  else if 0x20000 ≤ o && o < 0x20800 then
    { s with hub := { s.hub with fabRt := put s.hub.fabRt ((o - 0x20000) / 8) (m (lowMask 24)) 0 } }
  else if o = 0x20800 then { s with hub := { s.hub with fabId := (m (lowMask 8)).setWidth 8 } }
  else if 0x50000 ≤ o && o < 0x50400 then
    { s with hub := { s.hub with wayMask := put s.hub.wayMask ((o - 0x50000) / 8) ((m (lowMask 16)).setWidth 16) 0xFFFF } }
  else if 0x100000 ≤ o && o < 0x200000 then
    let n := (o - 0x100000) / 256
    let v := m (ctxMask (o % 256))
    let s := if o % 256 = 0x48 && v.getLsbD 0 && !(look s.hub.ctx n {}).valid then createCtx s n else s
    s.modCtx n fun c => c.setField (o % 256) v
  else if 0x1000000 ≤ o && o < 0x2000000 then writeDebug s ((o - 0x1000000) / 4096) (o % 4096) v be
  else if o = 0x2000000 then { s with hub := { s.hub with modFring := m (lowMask 5 ||| maskRange 47 12) } }
  else if o = 0x2000008 then { s with hub := { s.hub with modPol := m (lowMask 2) } }
  else if o = 0x2000010 then { s with hub := { s.hub with modNote := m (maskRange 45 3) } }
  else if o = 0x2000018 then { s with hub := { s.hub with peerTo := m (lowMask 5) } }
  else if 0x3000000 ≤ o && o < 0x3040000 then
    if o % 64 = 0 then writePctl s (BitVec.ofNat 12 ((o - 0x3000000) / 64)) v be else s
  else if o = 0x4000000 then
    if (v &&& be).getLsbD 0 then { s with hub := { s.hub with svcReq := false } } else s
  else s

/-- Reads `n` bytes at an offset of the region. -/
def hubGet (s : State) (o n : Nat) : Nat :=
  let v := (List.range ((o % 8 + n + 7) / 8)).foldl (fun a i => a + (hubReg s (8 * (o / 8 + i))).toNat * 2 ^ (64 * i)) 0
  v / 256 ^ (o % 8) % 256 ^ n

/-- Writes them. -/
def hubSet (s : State) (o n v : Nat) : State :=
  let sh := v % 256 ^ n * 256 ^ (o % 8)
  let be := (256 ^ n - 1) * 256 ^ (o % 8)
  (List.range ((o % 8 + n + 7) / 8)).foldl (fun s i =>
    hubSetReg s (8 * (o / 8 + i)) (BitVec.ofNat 64 (sh / 2 ^ (64 * i))) (BitVec.ofNat 64 (be / 2 ^ (64 * i)))) s

/-- Offsets that BAR0 maps (Table 17.1). -/
def bar0Mapped (o : Nat) : Bool :=
  o < 0x4000 || o / 8 = 0xF000 / 8 || o / 8 = 0xF008 / 8 || o / 8 = 0x10000 / 8 || (0x20000 ≤ o && o < 0x20808) ||
    (0x30000 ≤ o && o < 0x32000) || (0x50000 ≤ o && o < 0x50400) || (0x100000 ≤ o && o < 0x200000)

end Sys2Proof.Machine
end

