-- ==== Sys2Proof/Machine/Operands.lean ====
section
/-!
DEFINITION. How lane words reach their operands: which registers a word reads in which cycle and writes (03 R55, Table 3.4, 07 R131),
its issue with bubbles, write slots and holds (R56, R58, R59), what a read sees (R53), and the landing of results. Sizes and widths
of memory operands (07 R137).
-/
namespace Sys2Proof.Machine

/-- What issue needs to know of a lane word. -/
structure LaneInfo where
  /-- registers of each read cycle (R55) -/
  reads : List (List Nat) := []
  /-- first v register written and how many -/
  dest : Nat := 0
  width : Nat := 0
  /-- issue clocks and latency (Table 3.4) -/
  issue : Nat := 1
  lat : Nat := 4
  /-- the result comes from memory, at no fixed time -/
  long : Bool := false
  /-- clocks from the last issue clock to the fault point (Table 3.3); none for a word that passes it at issue -/
  faultAt : Option Nat := some 3
  /-- the word writes a predicate, an index register or the indexed register at its latency -/
  late : Bool := false
  /-- the first read cycle takes all four banks (R57), and so do the write slots (R185) -/
  allBanks : Bool := false
  allSlots : Bool := false
  /-- the frontier changes at t + 4 -/
  control : Bool := false
  hold : Nat := 0
  /-- every register the word names must also be at most v63 (R320, R323) -/
  direct : Bool := false
  deriving DecidableEq, Repr

/-- Bytes of an LM size code (R137). -/
def lmSize (f : Nat) : Nat := match f with | 0 => 1 | 1 => 1 | 2 => 2 | 3 => 2 | 4 => 4 | 5 => 8 | 6 => 16 | _ => 32

/-- Registers that many bytes take. -/
def lmRegs (f : Nat) : Nat := max 1 (lmSize f / 4)

def pair (n : Nat) : List Nat := [n, n + 1]

/-- Coordinate registers of a level mode (Table 15.2). -/
def coordRegs (f : Nat) : Nat := match f with | 0 => 3 | 1 => 6 | 2 => 7 | _ => 2

/-- A two-source LR word. -/
def infoAB (d a b : BitVec 6) (h : BitVec 2) (lat : Nat) : LaneInfo :=
  { reads := [[a.toNat], [b.toNat]], dest := d.toNat, width := 1, lat := lat, hold := h.toNat }

def infoA (d a : BitVec 6) (h : BitVec 2) (lat : Nat) : LaneInfo :=
  { reads := [[a.toNat]], dest := d.toNat, width := 1, lat := lat, hold := h.toNat }

def infoABC (d a b c : BitVec 6) (lat : Nat) : LaneInfo :=
  { reads := [[a.toNat], [b.toNat], [c.toNat]], dest := d.toNat, width := 1, lat := lat }

/-- A float word with a type field: type 3 works on pairs (R133, R161). -/
def infoF (d a b : BitVec 6) (t : Nat) (h : BitVec 2) (slow : Bool) : LaneInfo :=
  if t = 3 then { reads := [pair a.toNat, pair b.toNat], dest := d.toNat, width := 2, issue := if slow then 4 else 1,
                  lat := if slow then 12 else 4, hold := h.toNat }
  else infoAB d a b h 4

/-- The operands and the timing of every lane word (R55, Table 3.4). -/
def laneInfo : Instr → LaneInfo
  | .iadd _ d a b _ h => infoAB d a b h 4
  | .isub _ d a b _ h => infoAB d a b h 4
  | .imul _ d a b f h => { infoAB d a b h 6 with width := if 3 ≤ f.toNat then 2 else 1 }
  | .imad _ d a b c => infoABC d a b c 6
  | .imnmx _ d a b _ h => infoAB d a b h 4
  | .logic _ d a b _ h => infoAB d a b h 4
  | .shift _ d a b f h => if f = 5 then { infoAB d a b h 4 with reads := [pair a.toNat, [b.toNat]] } else infoAB d a b h 4
  | .bfe _ d a b _ h => infoAB d a b h 4
  | .bfi _ d a b c => infoABC d a b c 4
  | .bitc _ d a _ h => infoA d a h 4
  | .isetp _ _ _ a b _ h => { infoAB 0 a b h 4 with width := 0, late := true }
  | .iaddi _ d a _ => infoA d a 0 4
  | .andi _ d a _ => infoA d a 0 4
  | .ori _ d a _ => infoA d a 0 4
  | .xori _ d a _ => infoA d a 0 4
  | .shifti _ d a _ _ => infoA d a 0 4
  | .dp4 _ d a b c => infoABC d a b c 6
  | .sad _ d a b c => infoABC d a b c 6
  | .iadd64 _ d a b _ h => { infoAB d a b h 4 with reads := [pair a.toNat, pair b.toNat], width := 2 }
  | .fadd _ d a b f h => infoF d a b (f.toNat / 4) h true
  | .fsub _ d a b f h => infoF d a b (f.toNat / 4) h true
  | .fmul _ d a b f h => infoF d a b (f.toNat / 4) h true
  | .ffma _ d a b c => infoABC d a b c 4
  | .hfma2 _ d a b c => infoABC d a b c 4
  | .dfma _ d a b c => { reads := [pair a.toNat, pair b.toNat, pair c.toNat], dest := d.toNat, width := 2, issue := 4, lat := 12 }
  | .bfma2 _ d a b c => infoABC d a b c 4
  | .fmnmx _ d a b f h => infoF d a b (f.toNat / 4) h false
  | .fsetp _ _ _ a b t h => { infoF 0 a b t.toNat h false with width := 0, late := true }
  | .sfu _ d a _ h => { infoA d a h 16 with issue := 2 }
  | .fround _ d a f h => { infoF d a a (f.toNat / 4) h true with reads := if 3 = f.toNat / 4 then [pair a.toNat] else [[a.toNat]] }
  | .cvt _ d a s _ t h =>
    { reads := [if s.toNat = 3 || s.toNat = 7 || s.toNat = 8 then pair a.toNat else [a.toNat]], dest := d.toNat,
      width := if t.toNat = 3 || t.toNat = 7 || t.toNat = 8 then 2 else 1, lat := 6, hold := h.toNat }
  | .fdot2 _ d a b c => infoABC d a b c 4
  | .fclamp _ d a b c => infoABC d a b c 4
  | .mov _ d a f h =>
    match f.toNat with
    | 0 => infoA d a h 4
    | 1 => { dest := d.toNat, width := 1, hold := h.toNat }
    | _ => { reads := [[a.toNat]], hold := h.toNat, late := true }
  | .movi _ d _ => { dest := d.toNat, width := 1 }
  | .movhi _ d _ => { reads := [[d.toNat]], dest := d.toNat, width := 1 }
  | .sel _ d a b _ => infoAB d a b 0 4
  | .xlane _ d a b _ h => infoAB d a b h 6
  | .vote _ d _ _ h => { dest := d.toNat, width := 1, lat := 6, hold := h.toNat }
  | .redux _ a _ h => { reads := [[a.toNat]], hold := h.toNat, faultAt := none }
  | .qpop _ d h => { dest := d.toNat, width := 1, hold := h.toNat }
  | .qpush _ a h => { reads := [[a.toNat]], hold := h.toNat, faultAt := none }
  | .ldx _ d _ _ => { reads := [[]], dest := d.toNat, width := 1, lat := 6, allBanks := true, faultAt := some 1 }
  | .stx _ d _ _ => { reads := [[d.toNat]], allBanks := true, allSlots := true, faultAt := some 1, late := true }
  | .xset _ _ a _ h => { reads := [[a.toNat]], hold := h.toNat, late := true }
  | .rdid _ d _ h => { dest := d.toNat, width := 1, hold := h.toNat }
  | .ld _ d a f _ => { reads := [[a.toNat], [a.toNat + 1]], dest := d.toNat, width := lmRegs f.toNat, long := true }
  | .st _ d a f _ => { reads := [[a.toNat], [a.toNat + 1]] ++ (List.range (lmRegs f.toNat)).map fun i => [d.toNat + i] }
  | .atom _ d a b _ h => { reads := [pair a.toNat, [b.toNat]], dest := d.toNat, width := 1, long := true, hold := h.toNat }
  | .cas _ d a b c => { reads := [pair a.toNat, [b.toNat], [c.toNat]], dest := d.toNat, width := 1, long := true }
  | .red _ a b _ h => { reads := [pair a.toNat, [b.toNat]], hold := h.toNat }
  | .lds _ d a f _ => { reads := [[a.toNat]], dest := d.toNat, width := lmRegs f.toNat, long := true }
  | .sts _ d a f _ => { reads := [[a.toNat]] ++ (List.range (lmRegs f.toNat)).map fun i => [d.toNat + i] }
  | .atoms _ d a b _ h => { reads := [[a.toNat], [b.toNat]], dest := d.toNat, width := 1, long := true, hold := h.toNat }
  | .pref _ a _ _ => { reads := [[a.toNat], [a.toNat + 1]] }
  | .ldlod _ d c _ f =>
    { reads := (List.range (coordRegs f.toNat)).map fun i => [c.toNat + i], dest := d.toNat, width := 1, long := true, direct := true }
  | .sample _ d c _ f =>
    { reads := (List.range (coordRegs f.toNat)).map fun i => [c.toNat + i], dest := d.toNat, width := 5, long := true, direct := true }
  | .bdiv _ _ _ _ _ => { control := true, faultAt := some 4 }
  | .join _ _ => { control := true, faultAt := some 4 }
  | .strike _ _ _ => { control := true, faultAt := some 4 }
  | .lexit _ _ => { control := true, faultAt := some 4 }
  | .callr _ _ _ _ _ => { control := true, faultAt := some 4 }
  | .lret _ => { control := true, faultAt := some 4 }
  | _ => {}

/-- Every v register a word names. -/
def LaneInfo.regs (i : LaneInfo) : List Nat := i.reads.flatten ++ (List.range i.width).map (fun k => i.dest + k)

/-- R131: every register lies in the allocation, and at most v63 where a rule limits it. -/
def LaneInfo.inAllocation (i : LaneInfo) (nregs : Nat) : Bool :=
  i.regs.all fun n => decide (n < nregs) && (!i.direct || decide (n ≤ 63))

/-! ### Issue -/

def State.pipe (s : State) : Pipe := look (s.core s.team.core).pipes s.grp.quad {}

def State.modPipe (s : State) (f : Pipe → Pipe) : State :=
  s.modCore s.team.core fun c => { c with pipes := change c.pipes s.grp.quad {} f }

/-- The last read cycle of a word whose last issue clock is `t`. -/
def LaneInfo.lastRead (i : LaneInfo) (t : Nat) : Nat := t + i.reads.length

/-- Whether a hold keeps its entry of the latch at a clock (R58). -/
def Hold.lives (h : Hold) (clk : Nat) : Bool :=
  h.placed = some true && h.from_ ≤ clk && (match h.until_ with | some u => decide (clk ≤ u) | none => true)

/-- The holds whose placing clock has come are placed or not, in the order of their clocks (R58): where the run lets them and one of the three
entries is free. -/
def settleHolds (ok : Hold → Bool) (upto : Nat) (hs : List Hold) : List Hold :=
  (sortBy (fun h : Hold => h.from_) (hs.filter fun h => h.placed.isNone && h.from_ ≤ upto)).foldl (fun hs h =>
    let room := (hs.filter fun x => x.lives h.from_).length < 3
    hs.map fun x => if x = h then { x with placed := some (ok h && room) } else x) hs

/-- Whether a hold belongs to a run of a group. -/
def Hold.ofRun (h : Hold) (uid gidx run : Nat) : Bool := h.uid = uid && h.gidx = gidx && h.run = run

/-- The latch as a word of a run finds it, whose last issue clock is `t`: the word follows every hold of its run, so the run does not end
before its read cycles. -/
def holdsAt (p : Pipe) (i : LaneInfo) (uid gidx run t : Nat) : List Hold :=
  settleHolds (fun h => h.ofRun uid gidx run) (i.lastRead t) p.holds

/-- Bank reads of a word whose last issue clock is `t`: (clock, bank), without the reads the latch serves. -/
def bankReads (i : LaneInfo) (holds : List Hold) (t : Nat) : List (Nat × Nat) :=
  let cycle (k : Nat) (rs : List Nat) : List (Nat × Nat) :=
    let clk := t + 1 + k
    let banks := (rs.filter fun r => !holds.any (fun h => h.reg = r && h.lives clk)).map (· % 4)
    (if i.allBanks && k = 0 then [0, 1, 2, 3] else banks).map fun b => (clk, b)
  (List.range i.reads.length).flatMap fun k => cycle k (i.reads.getD k [])

/-- Write slots it reserves (R59). -/
def writeSlots (i : LaneInfo) (t : Nat) : List (Nat × Nat) :=
  if i.long then []
  else if i.allSlots then [0, 1, 2, 3].map fun b => (t + i.lat, b)
  else (List.range i.width).map fun k => (t + i.lat + k, (i.dest + k) % 4)

/-- Whether reserving a slot gives its bank four reserved clocks in a row (R59). -/
def fourInRow (ws : List (Nat × Nat)) (w : Nat × Nat) : Bool :=
  let has (c : Nat) : Bool := ws.contains (c, w.2) || c = w.1
  (List.range 4).any fun k => k ≤ w.1 && has (w.1 - k) && has (w.1 - k + 1) && has (w.1 - k + 2) && has (w.1 - k + 3)

/-- The holds that serve a word (R58): those of its run that have served fewer than two words. -/
def servingHolds (p : Pipe) (i : LaneInfo) (uid gidx run t : Nat) : List Hold :=
  (holdsAt p i uid gidx run t).filter fun h => h.ofRun uid gidx run && h.serves ≠ 0

/-- Whether a word can issue with last issue clock `t` (R56, R59). -/
def slotFree (p : Pipe) (i : LaneInfo) (uid gidx run t : Nat) : Bool :=
  let rs := bankReads i (servingHolds p i uid gidx run t) t
  let ws := writeSlots i t
  rs.all (fun r => !p.reads.contains r) && ws.all (fun w => !p.writes.contains w) && ws.all (fun w => !fourInRow (p.writes ++ ws) w)

/-- The number of bubbles a word takes. -/
def bubbles (p : Pipe) (i : LaneInfo) (uid gidx run : Nat) : Nat → Nat → Nat
  | 0, _ => 0
  | fuel + 1, t => if slotFree p i uid gidx run t then 0 else 1 + bubbles p i uid gidx run fuel (t + 1)

/-- The run of the word being executed: that of its queue entry. -/
def runOf (s : State) : Nat :=
  s.grp.fwd.foldl (fun r e => match e with | .lane c n => if c.seq = s.cur.seq then n else r | .value _ _ => r) s.grp.pipeRun

/-- The word leaves the forward queue. -/
def dequeue (s : State) : State :=
  let mine (e : FwdEntry) : Bool := match e with
    | .lane c _ => decide (c.seq = s.cur.seq)
    | .value _ _ => false
  s.modGrp fun g => { g with fwd := removeFirst mine g.fwd }

/-- The hold a word asks for (R58): source A at its read cycle, B at its own, a result at its write clock; of a pair the low register. -/
def askHold (i : LaneInfo) (uid gidx run t : Nat) : List Hold :=
  let reg := match i.hold with
    | 1 => (i.reads.getD 0 []).head?
    | 2 => (i.reads.getD 1 []).head?
    | 3 => if i.long || i.width = 0 then none else some i.dest
    | _ => none
  match reg with
  | none => []
  | some r => [{ reg := r, from_ := if i.hold = 3 then t + i.lat else t + i.hold, serves := 2, run := run, uid := uid, gidx := gidx }]

/-- A word of a run has issued with last issue clock `t`: it was one of the two words that each hold of its run serves, and it asks for a hold
of its own. -/
def serveHolds (p : Pipe) (i : LaneInfo) (uid gidx run t : Nat) : List Hold :=
  let last := i.lastRead t
  let hs := (holdsAt p i uid gidx run t).map fun h =>
    if h.ofRun uid gidx run && h.serves ≠ 0 then
      { h with serves := h.serves - 1, until_ := if h.serves = 1 then some last else h.until_ }
    else h
  (hs.filter fun h => match h.until_ with | some u => decide (t ≤ u) | none => true) ++ askHold i uid gidx run t

/-- The clock in which the pipe can take the word being executed: inside a run as soon as the word before it is through and it stands in the
queue (R51); the first word of a run no earlier than now and than the end of the park (R52). -/
def issueStart (s : State) (fresh : Bool) : Nat :=
  if fresh then max (max s.clock s.pipe.next) s.grp.parkClk else max s.pipe.next s.cur.clk

/-- The first word of a run takes the wide pipe: every result of the run before has landed (R52). -/
def openRun (s : State) (run : Nat) : State :=
  if run ≠ s.grp.pipeRun then s.modGrp fun g => { g.landAll with pipeRun := run } else s

/-- The pipe once a word has issued with last issue clock `t`: its read, write and latch slots are taken (R56, R58, R59). -/
def issuePipe (i : LaneInfo) (uid gidx run t : Nat) (p : Pipe) : Pipe :=
  { p with
    next := t + 1,
    reads := (p.reads.filter (fun r => t < r.1)) ++ bankReads i (servingHolds p i uid gidx run t) t,
    writes := (p.writes.filter (fun w => t < w.1)) ++ writeSlots i t,
    holds := serveHolds p i uid gidx run t,
    lastRead := i.lastRead t }

/-- The group once a word has issued with last issue clock `t` after `b` bubbles: what is due has landed, the word stands in flight up to its
fault point, and the park lasts at least to the clock after its last result and its fault point (R52, Table 3.3). -/
def issueGroup (i : LaneInfo) (seq t b : Nat) (g : Group) : Group :=
  let g := g.landTo t
  let done := max (t + i.faultAt.getD 0)
    (if i.long then t else if i.width ≠ 0 then t + i.lat + i.width - 1 else if i.late then t + i.lat else t)
  { g with
    stall := if b = 0 then g.stall else (g.countStall 1 b).stall
    flight := match i.faultAt with
      | some k => if i.control then g.flight else g.flight ++ [(seq, t + k)]
      | none => g.flight
    parkClk := max g.parkClk (done + 1)
    units := g.units + i.issue }

/-- The bank of a register write. -/
def PendWrite.bank (w : PendWrite) : Nat := (w.cells.head?.map fun c => c.1 / 32 % 4).getD 0

/-- The first clock from `from_` on in which nothing has a bank's write slot (R59). -/
def openSlot (p : Pipe) (bank from_ : Nat) : Nat :=
  let free (t : Nat) : Bool := !p.writes.contains (t, bank) && !p.returns.contains (t, bank)
  from_ + (((List.range 1024).find? fun k => free (from_ + k)).getD 1024)

/-- The returns on their way to the groups of a quadrant, with the team and the group, by the clocks they would land in. -/
def waitingReturns (s : State) (core quad : Nat) : List (Nat × Nat × PendWrite) :=
  sortBy (fun x => x.2.2.due.getD 0) ((groupsIn s core quad).flatMap fun x =>
    (x.2.pend.filter fun w => w.long && w.due.isSome).map fun w => (x.1.uid, x.2.gidx, w))

/-- A return of a group gets another slot. -/
def Group.reslot (g : Group) (gidx : Nat) (w : PendWrite) (d : Nat) : Group :=
  if g.gidx = gidx && g.live ≠ 0 && g.pend.contains w then
    let g := { g with pend := removeFirst (· = w) g.pend }
    { (g.addPend { w with due := some d }) with parkClk := max g.parkClk (d + 1) }
  else g

def moveReturn (s : State) (uid gidx : Nat) (w : PendWrite) (d : Nat) : State := s.modGroups uid fun g => g.reslot gidx w d

/-- The slot a return keeps, or where an issued word has reserved it the next free one. -/
def keptSlot (p : Pipe) (bank d : Nat) : Nat := if p.writes.contains (d, bank) || p.returns.contains (d, bank) then openSlot p bank d else d

/-- One return on its way is given its slot anew. -/
def pushOne (s : State) (x : Nat × Nat × PendWrite) : State :=
  let d := x.2.2.due.getD 0
  let t := s.modPipe fun p => { p with returns := p.returns.filter (· ≠ (d, x.2.2.bank)) }
  let e := keptSlot t.pipe x.2.2.bank d
  (if e = d then t else moveReturn t x.1 x.2.1 x.2.2 e).modPipe fun p => { p with returns := p.returns ++ [(e, x.2.2.bank)] }

/-- Returns whose slots an issued word has reserved since wait for the next free ones, in their order (R59). -/
def pushBack (s : State) : State :=
  if s.pipe.returns.all fun r => !s.pipe.writes.contains r then s
  else (waitingReturns s s.team.core s.grp.quad).foldl pushOne (s.modPipe fun p => { p with returns := p.returns.filter fun r => s.clock ≤ r.1 })

/-- A lane word issues (R51 to R53, R56, R58, R59): it takes its bubbles and reserves its slots, and stands in flight up to its fault point. The
second component is its last issue clock. -/
def issueLane (s : State) (i : LaneInfo) : State × Nat :=
  let run := runOf s
  let start := issueStart s (run ≠ s.grp.pipeRun)
  let s := openRun s run
  let uid := s.team.uid
  let gidx := s.grp.gidx
  let b := bubbles s.pipe i uid gidx run 64 (start + i.issue - 1)
  let t := start + b + i.issue - 1
  let s := dequeue (s.tick (t + 1 - s.clock))
  let s := pushBack ((s.modPipe (issuePipe i uid gidx run t)).modGrp (issueGroup i s.cur.seq t b))
  let core := s.team.core
  ((s.countBusy core (t + 1 - i.issue) i.issue).countStalls core start b, t)

/-! ### Reading operands -/

/-- What register n of lane l reads at a clock (R53): the landed value with every write due by then; of an outstanding
long-latency write, either value. -/
def readV (g : Group) (clk free n l : Nat) : Word :=
  let key := 32 * n + l
  g.pend.foldl (fun x w =>
    if w.space = .v then
      match w.cells.find? (fun c => c.1 = key) with
      | some c => match w.due with
        | some d => if d ≤ clk then c.2 else x
        | none => if Config.freeRead free key then c.2 else x
      | none => x
    else x) (look g.v key 0)

/-- What predicate n reads in a lane at a clock (R178). -/
def readP (g : Group) (clk n l : Nat) : Bool :=
  if n = 7 then true
  else g.pend.foldl (fun x w =>
    if w.space = .p then
      match w.cells.find? (fun c => c.1 = 32 * n + l), w.due with
      | some c, some d => if d ≤ clk then c.2.getLsbD 0 else x
      | _, _ => x
    else x) ((look g.p n 0).getLsbD l)

/-- What index register k reads in a lane at a clock (R57, R186). -/
def readX (g : Group) (clk k l : Nat) : Word :=
  g.pend.foldl (fun x w =>
    match w.space with
    | .x fld => match w.cells.find? (fun c => c.1 = 32 * k + l), w.due with
      | some c, some d => if d ≤ clk then xInsert x fld c.2 else x
      | _, _ => x
    | _ => x) (g.xreg k l)

/-- The operand reader of an issued word: read cycle k, register n, lane l. -/
abbrev Rd := Nat → Nat → Nat → Word

def rdOf (s : State) (t : Nat) : Rd := fun k n l => readV s.grp (t + 1 + k) s.free n l

/-- A pair read in one cycle (R158). -/
def Rd.pair (rd : Rd) (k n l : Nat) : DWord := rd k (n + 1) l ++ rd k n l

/-- Strict read mode of the word being executed (R54): the debug block's STRICT with a matching STRICTNAME, as they apply to it (R363). -/
def strictMode (s : State) : Bool :=
  let b := debugAt s s.team.asid s.cur.clk
  let n := s.name
  b.strict && b.strictName.extractLsb' 0 56 = n.extractLsb' 0 56 &&
    (b.strictName.getLsbD 60 || b.strictName.extractLsb' 56 4 = n.extractLsb' 56 4)

/-- The v registers a word reads, each with its read cycle: those of its fields, and for `ldx` the indexed registers of its lanes (R55, R57). -/
def readRegs (s : State) (i : Instr) : List (Nat × Nat) :=
  ((laneInfo i).reads.zipIdx.flatMap fun x => x.1.map fun r => (r, x.2)) ++ match i with
    | .ldx _ _ x imm => (lanesOf s.cur.mask).map fun l =>
        let v := readX s.grp (s.pipe.next + 1) x.toNat l
        (((bits v.toNat 15 8 : Int) + bits v.toNat 7 0 + imm.toInt).toNat, 0)
    | _ => []

/-- v registers whose long-latency writes have no clock: waiting for a write slot, or still to be performed. -/
def Group.awaited (g : Group) : List Nat :=
  (g.pend.filter fun w => w.due.isNone && w.space = .v).flatMap (fun w => w.cells.map fun c => c.1 / 32) ++
    g.held.flatMap (fun h => match h.load, h.lod, h.dest with
      | some f, _, some key => (List.range (lmRegs f)).map (fun k => key / 32 + k)
      | none, some (l, _), _ => (List.range l.width).map fun k => l.d + k
      | none, none, some key => [key / 32]
      | _, _, _ => []) ++
    g.awaits.flatMap fun w => match w.kind with
      | .load f d => (List.range (lmRegs f)).map fun k => d + k
      | .atomic _ (some d) => [d]
      | .lod l _ => (List.range l.width).map fun k => l.d + k
      | _ => []

/-- A word of strict mode waits for outstanding long-latency writes of the registers it reads (R54). -/
def strictWait (s : State) (i : Instr) : Bool :=
  strictMode s && (readRegs s i).any fun r => s.grp.awaited.contains r.1

/-- The returns that would land after a word of strict mode has read their registers, each with the clocks by which the word is too early. -/
def strictLate (s : State) (i : Instr) : List (PendWrite × Nat) :=
  if !strictMode s then []
  else
    let t := max s.clock s.pipe.next + (laneInfo i).issue - 1
    let regs := readRegs s i
    s.grp.pend.flatMap fun w => match w.due with
      | some d => if w.long && w.space = .v then
          (regs.filter fun r => (w.cells.any fun c => c.1 / 32 = r.1) && t + 1 + r.2 < d).map fun r => (w, d - (t + 1 + r.2))
        else []
      | none => []

/-! ### Results -/

/-- What a fixed-latency word computes in one lane: its v registers from the destination on, and a predicate. -/
structure LaneOut where
  v : List Word := []
  p : Option (Nat × Bool) := none
  deriving DecidableEq, Repr

/-- The writes of a fixed-latency word (R53, R59, R160): register dest + k at t + L + k, the predicate at t + L. -/
def outWrites (i : LaneInfo) (seq t : Nat) (lanes : List Nat) (f : Nat → LaneOut) : List PendWrite :=
  (List.range i.width).map (fun k =>
    { seq := seq, due := some (t + i.lat + k), space := .v,
      cells := lanes.map fun l => (32 * (i.dest + k) + l, (f l).v.getD k 0) }) ++
  (let ps := lanes.filterMap fun l => (f l).p.map fun p => (32 * p.1 + l, if p.2 then (1 : Word) else 0)
   if ps.isEmpty then [] else [{ seq := seq, due := some (t + i.lat), space := .p, cells := ps }])

/-- The checks a lane word meets at the helm or at its fault point: registers in the allocation (R131), then locked destination
registers (R258); the class raised, if any. -/
def laneCheck (s : State) (i : LaneInfo) : Option Byte :=
  if !i.inAllocation s.grp.nregs then some 0x02
  else if i.width ≠ 0 && !i.long && (lockedRegs s.team s.grp.gidx).any (fun r => i.dest ≤ r && r < i.dest + i.width) then some 0x1D
  else none

/-- A fixed-latency lane word: every active lane computes from what it reads, and the results are on their way. -/
def laneFixed (i : LaneInfo) (s : State) (f : Rd → (Nat → Bool) → Nat → LaneOut) (pn : Nat := 7) : State :=
  match laneCheck s i with
  | some cls => raiseAll s cls
  | none =>
    let (s, t) := issueLane s i
    let lanes := lanesOf s.cur.mask
    let g := s.grp
    let out := f (rdOf s t) (fun l => readP g (t + 1) pn l)
    { s with grp := (outWrites i s.cur.seq t lanes out).foldl Group.addPend g, free := s.free + 1 }

/-- The outcome of a word that always completes. -/
abbrev done (s : State) : Host.Outcome State Fault Refusal := .next s

end Sys2Proof.Machine
end

