-- ==== Sys2Proof/Machine/Ports.lean ====
section
/-!
DEFINITION. Optical ports (17 R350 to R354, 22 R381): the striping, the transmit queue, waking groups, and the port an access to another
module leaves by.
-/
namespace Sys2Proof.Machine

/-- Groups in the striping. -/
def Port.active (p : Port) : BitVec 4 := ~~~(p.parked ||| p.waking ||| p.retired)

/-- Active wavelengths. -/
def Port.lambdas (p : Port) : Nat := ((List.range 4).filter fun g => p.active.getLsbD g).length * 4

/-- A stretch of clocks joins those noted. -/
def noteStretch (l : List (Nat × Nat)) (a b : Nat) : List (Nat × Nat) :=
  if b ≤ a then l
  else match l.getLast? with
    | some x => if a ≤ x.2 then l.dropLast ++ [(x.1, max x.2 b)] else l ++ [(a, b)]
    | none => [(a, b)]

/-- From the last count on, up to a clock: the clocks in which a flit leaves, and those in which one waits that has not begun to leave. -/
def Port.noteFlits (p : Port) (clock : Nat) : Port :=
  let all := p.depth + p.backlog
  let rate := 5 * p.lambdas
  let upTo (work : Nat) : Nat := if rate = 0 then clock else min clock (p.depthAt + (work + rate - 1) / rate)
  { p with sends := if rate = 0 then p.sends else noteStretch p.sends p.depthAt (upTo (p.busy + 84 * all)),
           waits := if all = 0 then p.waits else noteStretch p.waits p.depthAt (upTo (p.busy + 84 * (all - 1))) }

/-- The queue at a clock: with n wavelengths a flit takes 8/n ns, 84 parts of which 5n pass in a clock (R351). What waits for room enters as
flits leave (R381). -/
def Port.drain (p : Port) (clock : Nat) : Port :=
  let p := p.noteFlits clock
  let w := (clock - p.depthAt) * 5 * p.lambdas
  if w ≤ p.busy then { p with busy := p.busy - w, depthAt := clock }
  else
    let all := p.depth + p.backlog
    let gone := min all ((w - p.busy + 83) / 84)
    let rest := all - gone
    { p with depth := min 4096 rest, backlog := rest - min 4096 rest, busy := 84 * gone - (w - p.busy), sent := p.sent + gone, depthAt := clock }

/-- Groups leave or join the striping at a flit boundary: the flit that leaves ends at the old width (R351, R352). -/
def Port.restripe (p : Port) (clock : Nat) (f : Port → Port) : Port :=
  let p := p.drain clock
  let q := f p
  { q with busy := (p.busy * q.lambdas + p.lambdas - 1) / max 1 p.lambdas }

/-- The next wake begins: that of the lowest waking group (R352). -/
def Port.nextWake (p : Port) (clock : Nat) : Port :=
  { p with waker := ((List.range 4).find? fun g => p.waking.getLsbD g).map fun g => (g, clock + 2520) }

/-- Groups are parked; a wake of one of them ends at once (R352). -/
def parkPort (p : Port) (m : BitVec 4) (clock : Nat) : Port :=
  let p := p.restripe clock fun p => { p with parked := p.parked ||| (m &&& ~~~p.retired), waking := p.waking &&& ~~~m }
  match p.waker with
  | some (g, _) => if p.waking.getLsbD g then p else p.nextWake clock
  | none => p

/-- Parked groups are to wake, one at a time (R352). -/
def wakePort (p : Port) (m : BitVec 4) (clock : Nat) : Port :=
  let go := m &&& p.parked &&& ~~~p.retired
  let p := { p.drain clock with parked := p.parked &&& ~~~go, waking := p.waking ||| go }
  if p.waker.isSome then p else p.nextWake clock

/-- The running wake ends: its group joins the striping, and the next wake begins. -/
def joinPort (p : Port) (clock : Nat) : Port :=
  match p.waker with
  | none => p
  | some (g, _) => (p.restripe clock fun p => { p with waking := p.waking &&& ~~~(BitVec.ofNat 4 (2 ^ g)) }).nextWake clock

/-! ### Pontoon links (Table 1.2, R370, R446) -/

/-- UCIe modules of a link (Table 1.2, Table 26.1). -/
def linkModules (k : Nat) : Nat := if k < 8 then 8 else if k < 16 then 4 else 2

/-- Whether a link has a module left (R446). -/
def linkWorks (s : State) (k : Nat) : Bool := (List.range (linkModules k)).any fun m => !(look s.links k {}).failed.getLsbD m

/-- Ports that reach module m: those of FABRT that are in service (R354, R450). -/
def routePorts (s : State) (m : Nat) : List Nat :=
  (List.range 24).filter fun p => (look s.hub.fabRt m 0).getLsbD p && !(look s.ports p {}).outOfService

/-- The port an access to module m from source h leaves by (R354). -/
def portOf (s : State) (m h : Nat) : Option Nat :=
  let ps := routePorts s m
  ps[h % ps.length]?

/-- The links of an access to a line of device memory by die n (R370): from the die to its partition on the landing; from there to the home slice, unless the
partition serves the access by itself; for an access of the home die, its own link where the directory has a copy recalled or invalidated. -/
def lineLinks (s : State) (n line : Nat) (own : Bool) : List Nat :=
  let h := homeOf line
  if h = n then
    match dirEntry s line with
    | some e => if own || e.owner.isSome then routeLinks s n else []
    | none => []
  else routeLinks s n ++ if rdcServes s n line own then [] else routeLinks s h

/-- The links that an access of a unit of die n crosses, from source `src` at the ports: one to another module leaves by the optical die of its port. -/
def pathLinks (s : State) (n src : Nat) (t : Target) (own : Bool) : List Nat :=
  match t with
  | .device pa => lineLinks s n (pa / 128) own
  | .hub _ => routeLinks s n
  | .host _ _ => routeLinks s n
  | .peer m pa =>
    if m = s.hub.fabId.toNat then
      let h := homeOf (pa / 128)
      (if h = n then [] else routeLinks s n ++ routeLinks s h) ++ lineLinks s h (pa / 128) own
    else routeLinks s n ++ match portOf s m src with
      | some p => [16 + p / 6]
      | none => []
  | _ => []

/-- Whether an access is held at a link that retrains (R445). -/
def linkHeld (s : State) (n src : Nat) (t : Target) (own : Bool) : Bool :=
  !s.links.isEmpty && (pathLinks s n src t own).any fun k => (look s.links k {}).retraining

/-- The same of a range of `len` bytes, line by line. -/
def rangeHeld (s : State) (n src : Nat) (t : Target) (len : Nat) (own : Bool) : Bool :=
  match t with
  | .device pa => !s.links.isEmpty && (lineChunks pa len).any fun k => linkHeld s n src (.device (pa + k.1)) own
  | t => linkHeld s n src t own

/-- The island of a port's group (R17). -/
def portIsland (p : Nat) : Nat := 1008 + 4 * (p / 6) + (match p % 6 with | 0 => 0 | 1 => 0 | 2 => 1 | 3 => 1 | 4 => 2 | _ => 3)

/-- Flits for module m from source h enter the queue of their port, a request of its island (R17, R354, R357). -/
def sendFlits (s : State) (m h flits : Nat) (asid : BitVec 12) : State :=
  match portOf s m h with
  | some p =>
    let s := countServed s (portIsland p) asid
    { s with ports := change s.ports p {} fun x : Port =>
        let x := x.drain s.clock
        let x := if s.trace.tempo then x else { x with sends := [], waits := [] }
        let all := x.depth + x.backlog + flits
        { x with depth := min 4096 all, backlog := all - min 4096 all } }
  | none => s

/-- The flits of an access of `n` bytes: a header and, for a write or an atomic, the data (R351). -/
def accessFlits (n : Nat) (data : Bool) : Nat := 1 + if data then (n + 63) / 64 else 0

/-- What a port has begun to send once all that is queued has left. -/
def Port.goal (p : Port) : Nat := p.sent + p.depth + p.backlog

end Sys2Proof.Machine
end

