-- ==== Sys2Proof/Machine/Access.lean ====
section
/-!
DEFINITION. Lane-path accesses at their targets (10 R193, 06 R104, R110, R126, R127): what a lane's checks come to (24 R399, R407 to
R409, R414, 26 R447, R452), loads, stores and atomics, and the stores a group holds (23 R383, 12 R258).
-/
namespace Sys2Proof.Machine

/-! ### Writes that are not seen yet -/

def overlaps (a n b m : Nat) : Bool := decide (a < b + m) && decide (b < a + n)

/-- Writes that a test picks, with the earlier ones to the same bytes, so that every byte keeps its write order (R117); and the rest. -/
def pickWrites {α : Type} (clash : α → α → Bool) (pick : Nat → α → Bool) (l : List α) : List α × List α :=
  l.zipIdx.foldr (fun x acc =>
    if pick x.2 x.1 || acc.1.any (clash x.1) then (x.1 :: acc.1, acc.2) else (acc.1, x.1 :: acc.2)) ([], [])

/-- Whether an `xfence` has put a write before the accesses of a group on a path, or of a command that the group issued after it (R119). -/
def PastWrite.fenced (w : PastWrite) (uid gidx path : Nat) (cmd : Option Nat) : Bool :=
  w.ordered.any fun o => o.1 = uid && o.2.1 = gidx && o.2.2.1 = path && match cmd with | some n => decide (o.2.2.2 ≤ n) | none => true

/-- Whether an access of a group's command, or of its lanes, on a path follows a write (R105, R118): by an `xfence`, in lane order, or within
one command. -/
def PastWrite.before (w : PastWrite) (uid gidx path : Nat) (cmd : Option Nat) : Bool :=
  w.fenced uid gidx path cmd || (path = 0 && (w.path = 0 || w.fenced 0 0 0 none)) || (cmd.isSome && w.cmd = cmd)

/-- Writes that a test picks are seen from now on; with each, the earlier ones to its bytes, and those that an `xfence` has put before it for every
observer (R119). -/
def showPast (s : State) (pick : Nat → PastWrite → Bool) : State :=
  let clash (v w : PastWrite) : Bool :=
    (v.space = w.space && overlaps v.addr v.old.length w.addr w.old.length) || v.fenced w.uid w.gidx w.path w.cmd
  { s with past := (pickWrites clash pick s.past).2 }

/-- An access to bytes of a space meets the writes it may or must see: those are seen for good. -/
def seePast (s : State) (space a n uid gidx path : Nat) (cmd : Option Nat) : State :=
  let meets (w : PastWrite) : Bool := w.space = space && overlaps a n w.addr w.old.length
  if s.past.any meets then
    { showPast s (fun k w => meets w && (w.before uid gidx path cmd || Config.freePast (s.free + k) w.addr)) with
      free := s.free + s.past.length }
  else s

/-- Bytes as an access finds them that does not see the writes that are left. -/
def pastView (s : State) (space a : Nat) (bs : List Byte) : List Byte :=
  let mine := s.past.filter fun w => w.space = space && overlaps a bs.length w.addr w.old.length
  if mine.isEmpty then bs
  else bs.zipIdx.map fun x =>
    match mine.find? fun w => w.addr ≤ a + x.2 && a + x.2 < w.addr + w.old.length with
    | some w => w.old.getD (a + x.2 - w.addr) 0
    | none => x.1

/-- A lane-path write of `n` bytes to a space whose bytes are `m`, in front of the write. -/
def lanePast (s : State) (space : Nat) (m : Memory) (a n : Nat) : State :=
  { s with past := s.past ++ [{ space := space, addr := a, old := leBytes n (memRead m a n), path := 0, uid := s.team.uid, gidx := s.grp.gidx,
                                launch := s.team.seqNo }] }

/-- A lane-path read of a team's scratchpad or share sees the writes of engines that nothing puts after it, or does not (R118). -/
def laneView (s : State) (space a n v : Nat) : State × Nat :=
  let s := seePast s space a n s.team.uid s.grp.gidx 0 none
  (s, ofLeBytes (pastView s space a (leBytes n v)))

/-! ### Host memory -/

/-- Pending writes become visible to the host, in their order. -/
def showHost (s : State) (pick : Nat → HostWrite → Bool) : State :=
  let (go, rest) := pickWrites (fun v w : HostWrite => overlaps v.addr v.data.length w.addr w.data.length) pick s.hostPending
  go.foldl (fun s w => let s := noteCode s (some w.launch) true w.addr w.data.length
    { s with hostMem := memWrite s.hostMem w.addr w.data.length (ofLeBytes w.data) }) { s with hostPending := rest }

/-- Those that a test picks become visible. -/
def flushHost (s : State) (p : HostWrite → Bool) : State := showHost s fun _ w => p w

/-- A device write to host memory: in total store order on a page with TSO = 1 (R126), otherwise pending until it is published
(R125). -/
def hostWrite (s : State) (a n v path : Nat) (tso : Bool) : State :=
  if tso then
    let s := flushHost s fun w => overlaps a n w.addr w.data.length
    let s := noteCode s (some s.team.seqNo) true a n
    { s with hostMem := memWrite s.hostMem a n v }
  else
    { s with hostPending := s.hostPending ++ [{ addr := a, data := leBytes n v, uid := s.team.uid, gidx := s.grp.gidx,
                                                launch := s.team.seqNo, path := path }] }

/-- A device read of host memory: a pending write to its bytes may have become visible or not, whole, and one that has stays so (R106, R117,
R349); one that a system fence follows has been performed at the host (R120, R122), so every read from then on sees it. -/
def hostRead (s : State) (a n : Nat) : State × Nat :=
  let s := if s.hostPending.isEmpty then s
    else { showHost s (fun k w => overlaps a n w.addr w.data.length && (w.fenced || Config.freeHost (s.free + k) w.addr)) with
           free := s.free + s.hostPending.length }
  (s, memRead s.hostMem a n)

/-! ### Accesses at the target -/

/-- A load at the point of performance of die n that grants no lease beyond its own time: a `cas` that fails (R192), an access that bypasses the
caches (R354). -/
def pointLoad (s : State) (core d pa n : Nat) (c : Caching) (asid : BitVec 12) : State × Nat :=
  let line := pa / 128
  let s := reachRead (countRequest s (some core) d line false asid) d line c
  let (w, r) := stamps s d line
  let ct := max (s.core core).ctime w
  (setCtime (setStamps s d line w (max r ct) false) core ct, memRead s.mem pa n)

/-- A load at the point of performance of the core's own die. -/
def homeLoad (s : State) (core pa n : Nat) (c : Caching) (asid : BitVec 12) : State × Nat := pointLoad s core (dieOf core) pa n c asid

/-- How an access through a peer page of this module reaches its home: past the L1, the L2 and the RDC (R354). -/
def bypass : Caching := { policy := 3 }

/-- A store through a peer page of this module (R354), performed at the line's home. -/
def peerStore (s : State) (core pa n v : Nat) (asid : BitVec 12) : State :=
  let line := pa / 128
  let h := homeOf line
  let s := reachWrite (countRequest s (some core) h line true asid) h line bypass
  let (_, r) := stamps s h line
  let w := max (s.core core).ctime (r + 1)
  setCtime { noteCode (setStamps s h line w w true) (some s.team.seqNo) false pa n with mem := memWrite s.mem pa n v } core w

/-- This module's fabric number. -/
def fabId (s : State) : Nat := s.hub.fabId.toNat

/-- A lane-path load is issued (R109): the window of the core's last loads, if it is over, has raised its CTIME, and a window of 16 clocks is
open. -/
def noteLoad (s : State) (core : Nat) : State :=
  (settleCtime s core).modCore core fun c => { c with window := if c.loaded then c.window else 16 * (s.clock / 16), loaded := true }

/-- A team's scratchpad and operand-buffer share. -/
def scratchOf (s : State) (uid : Nat) : Memory := ((s.teamOf uid).map (fun t => t.scratch)).getD []
def shareOf (s : State) (uid : Nat) : Memory := ((s.teamOf uid).map (fun t => t.ob)).getD []

/-- A lane-path load of `n` bytes. -/
def loadTarget (s : State) (t : Target) (c : Caching) (n : Nat) : State × Nat :=
  let core := s.team.core
  let asid := s.team.asid
  let s := settleCtime s core
  match t with
  | .device pa => laneLoad s core pa n (leaseLen s asid) c asid
  | .hub pa => (s, hubGet s (pa - hubBase) n)
  | .host a _ => hostRead s a n
  | .peer m pa =>
    if m = fabId s then pointLoad s core (homeOf (pa / 128)) pa n bypass asid else (s, memRead (look s.peers m {}).mem pa n)
  | .share uid o => let (s, v) := scratchLoad s core uid o n; laneView s (2 * uid + 1) o n v
  | .scratch k o =>
    match ownerAt (teamsOfCore s k) (fun t => t.scratchSize) o with
    | some (uid, x) => let (s, v) := scratchLoad s core uid x n; laneView s (2 * uid + 1) x n v
    | none => (blockLoad s core none (8192 * k + o / 128), memRead (s.core k).array o n)
  | .opbuf k o =>
    match ownerAt (teamsOfCore s k) (fun t => t.obSize) o with
    | some (uid, x) =>
      laneView (blockLoad s core (some uid) (4096 + x / 128)) (2 * uid + 2) x n (memRead (shareOf s uid) x n)
    | none => (blockLoad s core none (8192 * k + 3072 + o / 128), memRead (s.core k).obArray o n)

/-- What an operation of an atomic makes of the old value (R191, R192): none where a `cas` fails. -/
def newValue (op : Nat) (cmp old data : Word) : Option Word :=
  if op = 10 then (if old = cmp then some data else none) else some (atomicOp op old data)

/-- A write of the series that covers a lost line, part by part; the line leaves the table once all of it has been written (R414). -/
def patchLine (s : State) (pa n : Nat) : State :=
  if isLost s pa then
    let h := homeOf (pa / 128)
    let new := (List.range (n / 4)).map fun k => pa / 4 + k
    let s := s.modDie h fun d => { d with patched := new ++ d.patched.filter (fun x => !new.contains x) }
    if (List.range 32).all fun q => (s.die h).patched.contains (32 * (pa / 128) + q) then
      regainLine s (pa / 128)
    else s
  else s

/-- A lane-path store of `n` bytes. -/
def storeTarget (s : State) (t : Target) (c : Caching) (n v : Nat) : State :=
  let core := s.team.core
  let s := settleCtime s core
  let shared (uid o : Nat) : State :=
    scratchStore (lanePast s (2 * uid + 1) (scratchOf s uid) o n) core uid o n v
  match t with
  | .device pa => patchLine (laneStore (lanePast s 0 s.mem pa n) core pa n v c s.team.asid) pa n
  | .hub pa => hubSet s (pa - hubBase) n v
  | .host a tso => if s.slalia.lost then s else hostWrite s a n v 0 tso
  | .peer m pa =>
    if m = fabId s then peerStore s core pa n v s.team.asid
    else { s with peers := change s.peers m {} fun p : Peer => { p with mem := memWrite p.mem pa n v } }
  | .share uid o => shared uid o
  | .scratch k o =>
    match ownerAt (teamsOfCore s k) (fun t => t.scratchSize) o with
    | some (uid, x) => shared uid x
    | none => (blockStore s core none (8192 * k + o / 128)).modCore k fun c => { c with array := memWrite c.array o n v }
  | .opbuf k o =>
    match ownerAt (teamsOfCore s k) (fun t => t.obSize) o with
    | some (uid, x) =>
      let s := lanePast s (2 * uid + 2) (shareOf s uid) x n
      (blockStore s core (some uid) (4096 + x / 128)).modTeam uid fun t => { t with ob := memWrite t.ob x n v }
    | none => (blockStore s core none (8192 * k + 3072 + o / 128)).modCore k fun c => { c with obArray := memWrite c.obArray o n v }

/-- The old value an atomic finds at its point of performance. -/
def oldAt (s : State) (t : Target) : Nat :=
  match t with
  | .device pa => memRead s.mem pa 4
  | .peer m pa => if m = fabId s then memRead s.mem pa 4 else memRead (look s.peers m {}).mem pa 4
  | .hub pa => hubGet s (pa - hubBase) 4
  | .host a _ => memRead s.hostMem a 4
  | .share uid o => memRead (scratchOf s uid) o 4
  | .scratch k o => match ownerAt (teamsOfCore s k) (fun t => t.scratchSize) o with
    | some (uid, x) => memRead (scratchOf s uid) x 4
    | none => memRead (s.core k).array o 4
  | .opbuf k o => match ownerAt (teamsOfCore s k) (fun t => t.obSize) o with
    | some (uid, x) => memRead (shareOf s uid) x 4
    | none => memRead (s.core k).obArray o 4

/-- An atomic or `cas` as one event (R105, R191, R192): the state and the old value. -/
def atomicTarget (s : State) (t : Target) (c : Caching) (op : Nat) (cmp data : Word) : State × Word :=
  let old := BitVec.ofNat 32 (oldAt s t)
  match newValue op cmp old data with
  | some x => (storeTarget s t c 4 x.toNat, old)
  | none =>
    match t with
    | .device pa => ((homeLoad (settleCtime s s.team.core) s.team.core pa 4 c s.team.asid).1, old)
    | t => ((loadTarget s t c 4).1, old)

/-- The target of a store or atomic lies in bytes that open chains lock (R258). -/
def lockedTarget (s : State) (t : Target) (n : Nat) : Bool :=
  match t with
  | .opbuf k o =>
    match ownerAt (teamsOfCore s k) (fun t => t.obSize) o with
    | some (uid, x) =>
      match s.teamOf uid with
      | some t => (List.range n).any fun i => lockedByte t (x + i)
      | none => false
    | none => false
  | _ => false

/-! ### What a lane's checks come to -/

/-- Why the target module refuses an inbound access (Table 24.4). -/
def inboundReason (s : State) (pa : Nat) : Option Nat :=
  if !s.hub.modPol.getLsbD 0 then some 1
  else if !backed pa then some 2
  else
    let d := s.die (pa / 2 ^ 36)
    if d.inReset || noService d pa then some 3
    else if isLost s pa then some 4
    else none

/-- A refusal of an access of a module at a PA is logged (R409). -/
def refusal (s : State) (pa d source : Nat) : State :=
  modRing s { source := 3, cls := clsRemote, faddr := BitVec.ofNat 64 pa, fcode := BitVec.ofNat 32 (d + 65536 * source) }

/-- The checks after translation: TARGET, REMOTE, the home die and lost lines. -/
def lineVerdict (s : State) (a : Access) (n : Nat) (r : XRes) : Verdict :=
  match r with
  | .fail cls code => .fail cls code
  | .pend l => .pend l
  | .home d l => .walk d l
  | .ok t leaf level =>
    match t with
    | .device pa =>
      if (s.die (homeOf (pa / 128))).inReset then .home (homeOf (pa / 128)) t (cachingOf leaf level)
      else if isLost s pa && !(s.team.priv && a = .write && n = 32) then .lost pa
      else .ok t (cachingOf leaf level)
    | .host _ _ =>
      if a = .atomic then .fail clsTarget (reason 1 0 0)
      else if s.slalia.lost then .fail clsTarget (reason 3 0 0)
      else .ok t {}
    | .peer m pa =>
      if m = fabId s then
        (if s.hub.modPol.getLsbD 0 && backed pa && (s.die (homeOf (pa / 128))).inReset then .home (homeOf (pa / 128)) t {} else .ok t {})
      else if (routePorts s m).isEmpty then .fail clsRemote (reason 1 0 0)
      else .ok t {}
    | t => .ok t {}

/-- What an access that goes through comes to where a link on its way retrains: it is held there (R445), as for a die in reset. -/
def verdict (s : State) (a : Access) (n : Nat) (r : XRes) : Verdict :=
  match lineVerdict s a n r with
  | .ok t c => if linkHeld s (dieOf s.team.core) s.team.core t (a = .write || a = .atomic) then .home (dieOf s.team.core) t c else .ok t c
  | v => v

/-- A lane's checks in the order of R399 and Table 23.7. -/
def checkLane (s : State) (n : Nat) (a : Access) (va : DWord) : State × Verdict :=
  let (s, r) := checkAccess s (.core s.team.core) s.team.asid s.team.priv s.team.seqNo va n a
  (s, verdict s a n r)

/-- The checks of every lane, in lane order. -/
def checkLanes (n : Nat) (a : Access) (s : State) (vas : List (Nat × DWord)) : State × List LaneAcc :=
  vas.foldl (fun acc x =>
    let (s, v) := checkLane acc.1 n a x.2
    (s, acc.2 ++ [{ lane := x.1, va := x.2, v := v }])) (s, [])

/-- Whether an access is sent to another module. -/
def remote (s : State) (v : Verdict) : Bool := match v with | .ok (.peer m _) _ => decide (m ≠ fabId s) | _ => false

/-- The lanes that go through, with their targets. -/
def passing (accs : List LaneAcc) : List (Nat × Target × Caching) :=
  accs.filterMap fun x => match x.v with | .ok t c => some (x.lane, t, c) | _ => none

/-- The lanes that do not. -/
def failing (accs : List LaneAcc) : List LaneAcc := accs.filter fun x => match x.v with | .ok _ _ => false | _ => true

/-- The VA and level of the lowest lane that met a PEND entry. -/
def pageOf (accs : List LaneAcc) : Option (DWord × Nat) :=
  accs.findSome? fun x => match x.v with | .pend l => some (x.va, l) | _ => none

/-- A page request that leaves the entry whole: no lane of the word has an effect (R402). -/
def pageWhole (s : State) (accs : List LaneAcc) : Bool :=
  (pageOf accs).isSome && (s.cur.handler ||
    (let c := s.cur
     let f := maskOf ((failing accs).map fun x => x.lane)
     let base := removeLanes s.grp.frontier c.mask
     let rest : FEntry := { pc := c.pc + 4, prio := c.prio, mask := c.mask &&& ~~~f }
     decide (8 < programEntries (addEntry (addEntry base rest) { pc := c.pc, prio := c.prio, mask := f }))))

/-- Raises what the failing lanes of a word met (R389, R402). -/
def raiseLanes (s : State) (accs : List LaneAcc) : State :=
  match failing accs with
  | [] => s
  | f :: r =>
    let (cls, code) : Byte × Word := match f.v with | .fail cls code => (cls, code) | _ => (clsXlate, 0)
    let lanes := if pageWhole s accs then s.cur.mask else maskOf ((f :: r).map fun x => x.lane)
    raise s { cur := s.cur, lanes := lanes, cls := cls, faddr := f.va, fcode := code, page := pageOf accs }

/-! ### Waiting for replies and dies (R407, R408, R414, R447) -/

/-- The access a memory word makes. -/
def MemKind.access : MemKind → Access
  | .load _ _ => .read
  | .store _ => .write
  | .atomic _ _ => .atomic
  | .lod _ _ => .read

/-- The lanes whose replies a word waits for. -/
def MemWord.need (s : State) (w : MemWord) : Nat := (w.accs.filter fun x => remote s x.v).length

/-- Whether an access goes to a host window. -/
def toHost (v : Verdict) : Bool := match v with | .ok (.host _ _) _ => true | _ => false

/-- The lanes whose replies from the host adapter a word waits for: those of a load (R407). -/
def MemWord.hostNeed (w : MemWord) : Nat := if w.kind.access = .read then (w.accs.filter fun x => toHost x.v).length else 0

/-- Why a memory word cannot pass its fault point yet: a lost line resets the context, once the word is not speculative; a home die is in
reset; replies of other modules are to come, a store to one being sent only once it is not speculative. -/
inductive MemWait where
  | lost (pa : Nat)
  | older
  | home
  | reply
  deriving DecidableEq, Repr

/-- Whether the home die of an access is in reset, or a link on its way retrains (R445, R447). -/
def closed (s : State) (die : Nat) (t : Target) (own : Bool) : Bool := (s.die die).inReset || linkHeld s (dieOf s.team.core) s.team.core t own

/-- Whether an access cannot be made for a die in reset, its own or that of a table entry, or for a link that retrains. -/
def Verdict.closed (s : State) (own : Bool) : Verdict → Bool
  | .home d t _ => Machine.closed s d t own
  | .walk d _ => (s.die d).inReset
  | _ => false

def memWait (s : State) (w : MemWord) : Option MemWait :=
  let spec := s.grp.speculative w.cur.seq
  match w.accs.findSome? fun x => match x.v with | .lost pa => some pa | _ => none with
  | some pa => some (if spec then .older else .lost pa)
  | none =>
    if !w.homeGone && w.accs.any (fun x => x.v.closed s (w.kind.access ≠ .read)) then some .home
    else if w.answers.length < w.need s then some (if spec && w.kind.access ≠ .read then .older else .reply)
    else if w.hosts < w.hostNeed && !s.slalia.lost then some .reply
    else none

/-- The bytes a lane of a memory word accesses; a texel's alignment has been checked when a walk for it waits. -/
def MemKind.bytes : MemKind → Nat
  | .load f _ => lmSize f
  | .store n => n
  | .atomic _ _ => 4
  | .lod _ _ => 1

/-- A walk that waited for a die in reset is made again once the die has returned (R447). -/
def walkAgain (s : State) (w : MemWord) : State × MemWord :=
  if w.homeGone || w.accs.all (fun x => match x.v with | .walk d _ => (s.die d).inReset || (s.die d).outOfService | _ => true) then (s, w)
  else
    let (s, accs) := w.accs.foldl (fun acc x =>
      match x.v with
      | .walk d _ =>
        if (s.die d).inReset || (s.die d).outOfService then (acc.1, acc.2 ++ [x])
        else let (s, v) := checkLane acc.1 w.kind.bytes w.kind.access x.va; (s, acc.2 ++ [{ x with v := v }])
      | _ => (acc.1, acc.2 ++ [x])) (s, ([] : List LaneAcc))
    (s, { w with accs := accs, since := none })

/-- An access of another module's pages, or of a host window, that was held at a link is sent once the link carries flits again (R445). -/
def reopen (s : State) (w : MemWord) : MemWord :=
  let own := decide (w.kind.access ≠ .read)
  let sends (t : Target) : Bool := match t with | .peer m _ => decide (m ≠ fabId s) | .host _ _ => true | _ => false
  if w.accs.any (fun x => match x.v with | .home d t _ => sends t && !closed s d t own | _ => false) then
    { w with since := none, accs := w.accs.map fun x => match x.v with
      | .home d t c => if sends t && !closed s d t own then { x with v := .ok t c } else x
      | _ => x }
  else w

/-- The word's accesses to other modules enter the queues of their ports (R354). -/
def sendWord (s : State) (w : MemWord) : State :=
  let (n, data) : Nat × Bool := match w.kind with
    | .load f _ => (lmSize f, false)
    | .store n => (n, true)
    | .atomic _ _ => (4, true)
    | .lod _ _ => (16, false)
  w.accs.foldl (fun s x => match x.v with
    | .ok (.peer m _) _ => if m = fabId s then s else sendFlits s m s.team.core (accessFlits n data) s.team.asid
    | _ => s) s

/-- The word waits; its wait for a reply or a die counts from now on. -/
def holdWord (s : State) (w : MemWord) (h : MemWait) : State :=
  let rest (g : Group) : List MemWord := g.awaits.filter fun x => x.cur.seq ≠ w.cur.seq
  let put (s : State) (w : MemWord) : State :=
    s.modGrp fun g => { g with awaits := insertBy (fun x : MemWord => x.cur.seq) w (rest g) }
  match h with
  | .older => put s w
  | .lost _ => put s w
  | _ => if w.since.isSome then put s w else put (if h = .reply then sendWord s w else s) { w with since := some s.clock }

/-- What this module as a target makes of an access through a peer page that names it (R354, R409). -/
def ownTarget (s : State) (x : LaneAcc) (t : Target) : LaneAcc :=
  match t with
  | .peer m pa =>
    if m = fabId s then (match inboundReason s pa with
      | some d => { x with v := .fail clsRemote (reason 3 0 d), refused := some pa }
      | none => { x with v := .ok t {} })
    else { x with v := .ok t {} }
  | _ => x

/-- What the lanes' checks come to once nothing is waited for: the answers that came, the loss of the host, and the home dies that did not return, become
verdicts. -/
def resolve (s : State) (w : MemWord) : List LaneAcc :=
  (w.accs.foldl (fun acc x =>
    let (ans, hosts, out) : List PeerAnswer × Nat × List LaneAcc := acc
    match x.v with
    | .home d t c =>
      let gone := w.homeGone || (s.die d).outOfService
      (ans, hosts, out ++ [match t with
        | .peer _ pa => if gone then { x with v := .fail clsRemote (reason 3 0 3), refused := some pa } else ownTarget s x t
        | _ => { x with v := if gone then .fail clsXlate (reason 8 c.level 0) else .ok t c }])
    | .walk _ l => (ans, hosts, out ++ [{ x with v := .fail clsXlate (reason 8 l 0) }])
    | .ok t _ =>
      if remote s x.v then
        match ans with
        | .nack r :: rest => (rest, hosts, out ++ [{ x with v := .fail clsRemote (reason 3 0 r.toNat) }])
        | .timeout p :: rest => (rest, hosts, out ++ [{ x with v := .fail clsRemote (reason 2 0 0), late := if p then some t else none }])
        | _ :: rest => (rest, hosts, out ++ [x])
        | [] => (ans, hosts, out ++ [x])
      else if toHost x.v && w.kind.access = .read then
        (if hosts = 0 then (ans, 0, out ++ [{ x with v := .fail clsTarget (reason 3 0 0) }]) else (ans, hosts - 1, out ++ [x]))
      else (ans, hosts, out ++ [ownTarget s x t])
    | _ => (ans, hosts, out ++ [x])) (w.answers, w.hosts, [])).2.2

/-- The refusals of this module as a target are logged (R409). -/
def logRefused (s : State) (accs : List LaneAcc) : State :=
  accs.foldl (fun s x => match x.refused, x.v with
    | some pa, .fail _ code => refusal s pa (bits code.toNat 23 16) (fabId s)
    | _, _ => s) s

/-- The word of the group that stands at a place, if it waits. -/
def Group.awaiting (g : Group) (seq : Nat) : Option MemWord := g.awaits.find? fun w => w.cur.seq = seq

/-- It waits no longer. -/
def Group.arrived (g : Group) (seq : Nat) : Group := { g with awaits := g.awaits.filter fun w => w.cur.seq ≠ seq }

/-! ### The lane order of a group (R110) -/

/-- Whether an older lane-order event of the group is still to be performed. -/
def Group.olderAccess (g : Group) (seq : Nat) : Bool :=
  g.held.any (fun h => decide (h.seq < seq)) || g.awaits.any (fun w => decide (w.cur.seq < seq)) ||
    g.commit.any fun e => decide (e.cur.seq < seq) && match e.effect with
      | .store _ _ _ => true
      | .load _ _ _ => true
      | .atom _ _ _ _ => true
      | _ => false

/-- An access joins those that are still to be performed, in the group's program order. -/
def Group.hold (g : Group) (h : HeldStore) : Group := { g with held := insertBy (fun x : HeldStore => x.seq) h g.held }

/-- The order in which G takes the lanes of a store or atomic (R107): any, where two of them touch the same bytes; the lines are asked for in lane order
(R367). -/
def laneOrder (s : State) (n : Nat) (xs : List (Nat × Target × Caching)) : List (Nat × Target × Caching) :=
  let at_ (t : Target) : Nat × Nat := match t with
    | .device pa => (0, pa) | .hub pa => (0, pa) | .host a _ => (1, a) | .peer m pa => (2 + m, pa)
    | .scratch k o => (1000 + k, o) | .opbuf k o => (2000 + k, o) | .share uid o => (3000 + uid, o)
  let unit (b : Nat) (x : Nat × Target × Caching) : Nat × Nat := ((at_ x.2.1).1, (at_ x.2.1).2 / b)
  if (xs.map (unit n)).eraseDups.length = xs.length then xs
  else (xs.map (unit 128)).eraseDups.flatMap fun k => sortBy (fun x => Config.freeOrder s.free x.1) (xs.filter fun x => unit 128 x = k)

/-- A held store or atomic is performed (R110); an atomic's old value goes to its destination. -/
def performStore (s : State) (h : HeldStore) : State :=
  match h.op with
  | none => storeTarget s h.target h.caching h.size h.data
  | some op =>
    let (s, old) := atomicTarget s h.target h.caching op h.cmp (BitVec.ofNat 32 h.data)
    match h.dest with
    | none => s
    | some key => s.modGrp fun g => g.addPend { seq := h.seq, due := none, space := .v, cells := [(key, old)], long := true, born := s.clock }

/-- Where a held access goes: a load of level-of-detail data to every texel it reads. -/
def HeldStore.targets (h : HeldStore) : List Target :=
  match h.lod with
  | some (_, x) => x.accs.filterMap fun a => match a.v with | .ok t _ => some t | _ => none
  | none => [h.target]

/-- Whether it is a load. -/
def HeldStore.reads (h : HeldStore) : Bool := h.load.isSome || h.lod.isSome

/-- The die that a held access waits for, which is in reset or has been taken out of service (R447). -/
def HeldStore.waits (s : State) (h : HeldStore) : Option Nat :=
  h.targets.findSome? fun t => match t with
    | .device pa =>
      let d := homeOf (pa / 128)
      if (s.die d).inReset || (s.die d).outOfService then some d else none
    | _ => none

/-- Whether its home die does not serve it, a link on its way retrains, or its line's request is held (R366, R445, R447). -/
def heldOut (s : State) (h : HeldStore) : Bool :=
  (h.waits s).isSome || h.targets.any fun t => match t with
    | .device pa => closed s (homeOf (pa / 128)) t (!h.reads) || s.injected.any fun x => x.src = s.team.core && x.line = pa / 128
    | t => linkHeld s (dieOf s.team.core) s.team.core t (!h.reads)

/-- The lines of accesses ask their slices (R366): whether all can be performed. -/
def askAll (s : State) (core : Nat) (ts : List Target) (own : Bool) : State × Bool :=
  ts.foldl (fun acc t => let (s, go) := askSlice acc.1 core t own; (s, acc.2 && go)) (s, true)

/-- Whether a held access can be performed: a store or atomic, and a load that leaves feedback, once it is not speculative, a load once no older
access of the group is outstanding; its bytes are not locked, and its home die is not in reset (R258, R383, R447). -/
def heldFree (s : State) (g : Group) (h : HeldStore) : Bool :=
  let plainLoad := h.load.isSome || (h.lod.isSome && !h.feeds)
  !heldOut s h && (if plainLoad then !({ g with held := [] } : Group).olderAccess h.seq
           else !g.speculative h.seq && (h.lod.isSome || !lockedTarget s h.target h.size))

/-- The held access that is performed next: every older word's come before it (R110); those of one word are separate events (R107), but lanes that leave
feedback leave it in lane order (R325). -/
def heldReady (s : State) (g : Group) : Option HeldStore :=
  match g.held with
  | [] => none
  | h :: r =>
    let mine := h :: r.filter fun x => x.seq = h.seq
    mine.find? fun x => heldFree s g x && (!x.feeds || mine.find? HeldStore.feeds = some x)

/-- Performs one store or atomic of a lane, or holds it. -/
def issueStore (s : State) (n : Nat) (op : Option Nat) (cmp : Nat → Word) (data : Nat → Nat) (dest : Option Nat) (va : Nat → DWord)
    (x : Nat × Target × Caching) : State :=
  let (l, t, c) := x
  let h : HeldStore := { seq := s.cur.seq, target := t, size := n, data := data l, op := op, cmp := cmp l,
                         dest := dest.map (fun d => 32 * d + l), caching := c, cur := s.cur, lane := l, va := va l, since := s.clock }
  if s.grp.speculative s.cur.seq || s.grp.olderAccess s.cur.seq || lockedTarget s t n then s.modGrp fun g => g.hold h
  else
    let (s, go) := askSlice s s.team.core t true
    if go then performStore s h else s.modGrp fun g => g.hold h

end Sys2Proof.Machine
end

