-- ==== Sys2Proof/Machine/Uniform.lean ====
section
/-!
DEFINITION. What uniform words share (11 R204 to R207): the commit buffer (03 R48), the stop in front of a register whose result has
not returned (Table 3.1), and uniform arithmetic.
-/
namespace Sys2Proof.Machine

/-- Nothing older than the word is outstanding: its effect may become architectural at once (R48). -/
def quiet (s : State) : Bool := !olderOutstanding s.grp s.cur.seq && s.grp.pendFault.isNone

/-- What applying a commit-buffer effect comes to: it is done, it waits, or it raised a fault or removed the group. -/
inductive Applied where
  | done (s : State)
  | wait (s : State)
  | stop (s : State)

/-- The word takes an entry of the commit buffer. -/
def pushCommit (s : State) (e : CommitEffect) : State :=
  s.modGrp fun g => { g with commit := g.commit ++ [{ cur := s.cur, effect := e }] }

/-- A word whose effect goes through the commit buffer (R48): where nothing older is outstanding its entry retires in the clock it is made
in, unless the effect has to wait; the helm stops while the buffer holds 24. -/
def commitOr (s : State) (e : CommitEffect) (apply : State → Applied) (after : State → State) : State :=
  if quiet s then
    match apply s with
    | .done s => after s
    | .wait s => after (pushCommit s e)
    | .stop s => s.tick 1
  else if 24 ≤ s.grp.commit.length then s.tick 1
  else after (pushCommit s e)

/-- Whether the newest writer of s register n has not returned its result (R205). -/
def regPending (g : Group) (n : Nat) : Bool :=
  g.commit.foldl (fun p e => match e.effect with
    | .regs sw _ => if sw.any (fun w => w.1 = n) then false else p
    | .frame _ sw => if sw.any (fun w => w.1 = n) then false else p
    | .load _ size sd => if n = sd || (size = 8 && n = sd + 1) then true else p
    | .atom _ _ _ sd => if n = sd then true else p
    | .command _ _ _ _ sd _ => if n = sd then true else p
    | _ => p) (g.owed.any fun o => o.2.any fun w => w.1 = n)

/-- A uniform word that reads s registers: the helm stops while one of them is pending (Table 3.1). -/
def uniform (s : State) (regs : List Nat) (f : State) : Host.Outcome State Fault Refusal :=
  done (if regs.any (regPending s.grp) then stopHelm s (.operand regs) else f)

/-- A fault that the helm finds at a word (R387): the word takes the helm's clock (R43). -/
def raiseHelm (s : State) (cls : Byte) (faddr : DWord := 0) (fcode : Word := 0) : State := (raiseAll s cls faddr fcode).tick 1

/-- Register writes of a retiring word. -/
def Group.retireRegs (g : Group) (sw : List (Nat × Word)) (cw : List (Nat × Bool)) : Group := (g.writeRegs sw cw).disown sw

/-- Writes of s and c registers through the commit buffer. -/
def uniformWrite (s : State) (sw : List (Nat × Word)) (cw : List (Nat × Bool)) : State :=
  commitOr s (.regs sw cw) (fun s => .done (s.modGrp fun g => g.retireRegs sw cw)) advance

/-- A word of one result register and two source registers. -/
def uniformAB (s : State) (d a b : BitVec 6) (f : Word → Word → Word) : Host.Outcome State Fault Refusal :=
  uniform s [a.toNat, b.toNat] (uniformWrite s [(d.toNat, f (s.grp.sreg a.toNat) (s.grp.sreg b.toNat))] [])

def uniformA (s : State) (d a : BitVec 6) (f : Word → Word) : Host.Outcome State Fault Refusal :=
  uniform s [a.toNat] (uniformWrite s [(d.toNat, f (s.grp.sreg a.toNat))] [])

/-- An add or subtract with its carry form. -/
def uniformAddSub (s : State) (sub : Bool) (d a b f : BitVec 6) : Host.Outcome State Fault Refusal :=
  let r := addSub 32 sub f.toNat (s.grp.sreg a.toNat).toNat (s.grp.sreg b.toNat).toNat
  uniform s [a.toNat, b.toNat] (uniformWrite s [(d.toNat, BitVec.ofNat 32 r.1)] (match carryDest f.toNat with
    | some n => [(n, r.2)]
    | none => []))

/-- `sadd` (R207). -/
def execSadd (_k : BitVec 1) (d a b f : BitVec 6) (s : State) : Host.Outcome State Fault Refusal := uniformAddSub s false d a b f

/-- `ssub` (R207). -/
def execSsub (_k : BitVec 1) (d a b f : BitVec 6) (s : State) : Host.Outcome State Fault Refusal := uniformAddSub s true d a b f

/-- `smul` (R207). -/
def execSmul (_k : BitVec 1) (d a b f : BitVec 6) (s : State) : Host.Outcome State Fault Refusal :=
  uniformAB s d a b fun x y => (mulOut f.toNat x y).headD 0

/-- `slogic` (R207). -/
def execSlogic (_k : BitVec 1) (d a b f : BitVec 6) (s : State) : Host.Outcome State Fault Refusal :=
  uniformAB s d a b (logicOp f.toNat)

/-- `sshift` (R207). -/
def execSshift (_k : BitVec 1) (d a b f : BitVec 6) (s : State) : Host.Outcome State Fault Refusal :=
  uniformAB s d a b fun x y => shiftOp f.toNat x y.toNat 0

/-- `smnmx` (R207). -/
def execSmnmx (_k : BitVec 1) (d a b f : BitVec 6) (s : State) : Host.Outcome State Fault Refusal :=
  uniformAB s d a b (minMax f.toNat)

/-- `sbitc` (R207). -/
def execSbitc (_k : BitVec 1) (d a f : BitVec 6) (s : State) : Host.Outcome State Fault Refusal :=
  uniformA s d a (bitCount f.toNat)

/-- `scmp` (R207). -/
def execScmp (_k : BitVec 1) (n p : BitVec 3) (a b : BitVec 6) (z : BitVec 1) (s : State) : Host.Outcome State Fault Refusal :=
  uniform s [a.toNat, b.toNat]
    (uniformWrite s [] [(p.toNat, intCompare n.toNat (z = 1) (s.grp.sreg a.toNat) (s.grp.sreg b.toNat))])

/-- `saddi` (R207). -/
def execSaddi (_k : BitVec 1) (d a : BitVec 6) (i : BitVec 12) (s : State) : Host.Outcome State Fault Refusal :=
  uniformA s d a fun x => x + i.signExtend 32

/-- `sandi` (R207). -/
def execSandi (_k : BitVec 1) (d a : BitVec 6) (i : BitVec 12) (s : State) : Host.Outcome State Fault Refusal :=
  uniformA s d a fun x => x &&& i.setWidth 32

/-- `sori` (R207). -/
def execSori (_k : BitVec 1) (d a : BitVec 6) (i : BitVec 12) (s : State) : Host.Outcome State Fault Refusal :=
  uniformA s d a fun x => x ||| i.setWidth 32

/-- `sxori` (R207). -/
def execSxori (_k : BitVec 1) (d a : BitVec 6) (i : BitVec 12) (s : State) : Host.Outcome State Fault Refusal :=
  uniformA s d a fun x => x ^^^ i.setWidth 32

/-- `sshifti` (R207). -/
def execSshifti (_k : BitVec 1) (d a : BitVec 6) (f : BitVec 4) (n : BitVec 5) (s : State) : Host.Outcome State Fault Refusal :=
  uniformA s d a fun x => shiftOp f.toNat x n.toNat 0

/-- `smovi` (R207). -/
def execSmovi (_k : BitVec 1) (d : BitVec 6) (i : BitVec 18) (s : State) : Host.Outcome State Fault Refusal :=
  uniform s [] (uniformWrite s [(d.toNat, signImm i)] [])

/-- `smovhi` (R207); it reads its destination. -/
def execSmovhi (_k : BitVec 1) (d : BitVec 6) (i : BitVec 18) (s : State) : Host.Outcome State Fault Refusal :=
  uniformA s d d (highImm i)

/-- `ssel` (R207). -/
def execSsel (_k : BitVec 1) (d a b : BitVec 6) (c : BitVec 3) (s : State) : Host.Outcome State Fault Refusal :=
  uniformAB s d a b fun x y => if s.grp.creg c.toNat then x else y

/-- `sbfe` (R207). -/
def execSbfe (_k : BitVec 1) (d a b f : BitVec 6) (s : State) : Host.Outcome State Fault Refusal :=
  uniformAB s d a b (extractField (f = 1))

end Sys2Proof.Machine
end

