-- ==== Sys2Proof/Machine/Barrier.lean ====
section
/-!
DEFINITION. Team barriers (11 R219 to R221), cluster barriers (R222), the event queue (R225, R226) and stage rings (R227, R228).
-/
namespace Sys2Proof.Machine

/-! ### Team barriers -/

/-- An arrive takes effect (R219, R220): it waits for the group's older stores and atomics to be performed. -/
def applyMark (s : State) (b : Nat) : Applied :=
  if s.grp.olderAccess s.cur.seq then .wait s
  else
    let x := look s.team.bars b {}
    let bit := s.grp.gidx
    if !x.expect.getLsbD bit || x.arrived.getLsbD bit then .stop (raiseAll s 0x0B)
    else
      let s := s.modGrp fun g => { g with bars := put g.bars b { phase := x.phase, held := true } {} }
      let s := { s with team := { s.team with
        bars := put s.team.bars b { x with arrived := x.arrived ||| BitVec.ofNat 16 (2 ^ bit) } {} } }
      .done (settleBarrier s s.team.uid b)

/-- Whether an arrive of the group at a barrier has still to retire. -/
def arrivePending (g : Group) (b : Nat) : Bool :=
  g.commit.any fun e => match e.effect with | .arrive k => k = b | _ => false

/-- Whether the phase of the group's last arrive has been released. -/
def barOpen (g : Group) (b : Nat) : Bool := !(look g.bars b {}).held && !arrivePending g b

/-- `tbar.mark` (R219). -/
def execTbarMark (_k : BitVec 1) (n : BitVec 4) (s : State) : Host.Outcome State Fault Refusal :=
  done (commitOr s (.arrive n.toNat) (fun s => applyMark s n.toNat) advance)

/-- `tbar.hold` (R219). -/
def execTbarHold (_k : BitVec 1) (n : BitVec 4) (s : State) : Host.Outcome State Fault Refusal :=
  done (if s.grp.wait = .passed || barOpen s.grp n.toNat then advance s else stopHelm s (.bar n.toNat false))

/-- `tbar.meet` (R219): the arrive, then the hold half, which alone is executed again once the arrive has taken effect (R463). -/
def execTbarMeet (_k : BitVec 1) (n : BitVec 4) (s : State) : Host.Outcome State Fault Refusal :=
  let b := n.toNat
  if s.grp.wait = .passed then done (advance s)
  else if s.grp.wait = .bar b true then done (if barOpen s.grp b then advance s else s.tick 1)
  else if !quiet s then done (s.tick 1)
  else match applyMark s b with
    | .done s => done (if barOpen s.grp b then advance s else stopHelm s (.bar b true))
    | .wait s => done (s.tick 1)
    | .stop s => done (s.tick 1)

/-- `.enrol` at retirement (R219). -/
def applyEnrol (s : State) (b : Nat) : Applied :=
  .done { s with team := { s.team with bars := change s.team.bars b {} fun x : Barrier =>
    { x with expect := x.expect ||| BitVec.ofNat 16 (2 ^ s.grp.gidx) } } }

/-- `tbar.enrol` (R219). -/
def execTbarEnrol (_k : BitVec 1) (n : BitVec 4) (s : State) : Host.Outcome State Fault Refusal :=
  done (commitOr s (.enrol n.toNat) (fun s => applyEnrol s n.toNat) advance)

/-! ### Cluster barriers -/

def clusterOf (s : State) (t : Team) : Option Cluster := s.clusters.find? fun c => c.seqNo = t.seqNo && c.cidx = t.cidx

/-- Whether a team's ARR bit is set. -/
def arrSet (s : State) (t : Team) (k : Nat) : Bool :=
  match clusterOf s t with
  | some c => (look c.arr k 0).getLsbD t.midx
  | none => false

/-- A cluster barrier releases: the waiting groups of each member, spread over BARWIN (R222, R345), and the members' CTIME. -/
def releaseCluster (s : State) (seqNo cidx k ctime : Nat) : State :=
  let win := bits s.hub.limctl.toNat 13 8
  let waits (g : Group) : Bool := match g.wait with | .cbar i _ => i = k | _ => false
  (s.allTeams.filter fun t => t.seqNo = seqNo && t.cidx = cidx).foldl (fun s t =>
    let idx := ((s.groupsOf t.uid).filter waits).map (fun g => g.gidx)
    let s := setCtime s t.core ctime
    s.modGroups t.uid fun g =>
      if waits g then { g with wait := .released (s.clock + (idx.filter (· < g.gidx)).length * win / idx.length) } else g) s

/-- A cluster arrive takes effect (R222). -/
def applyClusterMark (s : State) (k : Nat) : Applied :=
  if s.grp.olderAccess s.cur.seq then .wait s
  else match clusterOf s s.team with
    | none => .done s
    | some c =>
      let m := s.team.midx
      if (look c.arr k 0).getLsbD m then .stop (raiseAll s 0x0B)
      else
        let arr := look c.arr k 0 ||| BitVec.ofNat 16 (2 ^ m)
        let s := settleCtime s s.team.core
        let ct := max (look c.ctime k 0) (s.core s.team.core).ctime
        let size := s.team.clh * s.team.clw
        let full := arr = BitVec.ofNat 16 (2 ^ size - 1)
        let c' : Cluster := if full then
            { c with arr := put c.arr k 0 0, phase := c.phase ^^^ BitVec.ofNat 4 (2 ^ k), ctime := put c.ctime k 0 0 }
          else { c with arr := put c.arr k arr 0, ctime := put c.ctime k ct 0 }
        let s := { s with clusters := s.clusters.map fun x : Cluster => if x.seqNo = c.seqNo && x.cidx = c.cidx then c' else x }
        .done (if full then releaseCluster s c.seqNo c.cidx k ct else s)

/-- Whether the executing group may pass a `cbar.hold`: its team's ARR bit is clear and no arrive of its own has still to retire. -/
def clusterOpen (s : State) (k : Nat) : Bool :=
  !arrSet s s.team k && !(s.grp.commit.any fun e => match e.effect with | .clusterArrive i => i = k | _ => false)

/-- `cbar.mark` (R222). -/
def execCbarMark (_k : BitVec 1) (n : BitVec 2) (s : State) : Host.Outcome State Fault Refusal :=
  done (commitOr s (.clusterArrive n.toNat) (fun s => applyClusterMark s n.toNat) advance)

/-- `cbar.hold` (R222). -/
def execCbarHold (_k : BitVec 1) (n : BitVec 2) (s : State) : Host.Outcome State Fault Refusal :=
  done (if s.grp.wait = .passed || clusterOpen s n.toNat then advance s else stopHelm s (.cbar n.toNat false))

/-- `cbar.meet` (R222). -/
def execCbarMeet (_k : BitVec 1) (n : BitVec 2) (s : State) : Host.Outcome State Fault Refusal :=
  let k := n.toNat
  if s.grp.wait = .passed then done (advance s)
  else if s.grp.wait = .cbar k true then done (if clusterOpen s k then advance s else s.tick 1)
  else if !quiet s then done (s.tick 1)
  else match applyClusterMark s k with
    | .done s => done (if clusterOpen s k then advance s else stopHelm s (.cbar k true))
    | .wait s => done (s.tick 1)
    | .stop s => done (s.tick 1)

/-! ### The event queue -/

/-- The words of a record (Table 13.3). -/
def Record.words (r : Record) : List Word :=
  [r.tag, BitVec.ofNat 32 (r.status.toNat + 65536 * r.flags.toNat + 2 ^ 24 * r.unit.toNat), r.cookie, r.count]

/-- A removed record's command counts as seen by the team: its paths, their times, and its host writes (R119, R120, R125); what it wrote in
order stands before the `evpop` in G (R278, R296). -/
def settlePop (s : State) (r : Record) : State :=
  let s := setCtime s s.team.core r.order
  let seen := (List.range 9).foldl (fun m p => if r.paths.getLsbD p then change m p 0 (max r.wts) else m) s.team.seenWts
  { s with team := { s.team with seenWts := seen },
           hostPending := s.hostPending.map (fun w : HostWrite =>
             if w.cmd = some r.cmd && w.uid = s.team.uid then { w with popped := true } else w),
           past := s.past.map fun w : PastWrite =>
             if w.cmd = some r.cmd && w.uid = s.team.uid then { w with popped := true } else w }

/-- `evpop` (R225); a rollback puts the record back (R385). -/
def execEvpop (_k : BitVec 1) (d : BitVec 6) (c : BitVec 3) (s : State) : Host.Outcome State Fault Refusal :=
  if !quiet s && 24 ≤ s.grp.commit.length then done (s.tick 1)
  else match s.team.events with
    | [] => done (uniformWrite s [] [(c.toNat, false)])
    | r :: rest =>
      let s := { s with team := { s.team with events := rest } }
      let s := if quiet s then settlePop s r else s.modGrp fun g => { g with popped := g.popped ++ [.event s.cur.seq r] }
      done (uniformWrite s (List.zip [d.toNat, d.toNat + 1, d.toNat + 2, d.toNat + 3] r.words) [(c.toNat, true)])

/-- `evwait` (R226). -/
def execEvwait (_k : BitVec 1) (s : State) : Host.Outcome State Fault Refusal :=
  done (if s.team.events.isEmpty then stopHelm s .event else advance s)

/-! ### Stage rings -/

/-- The slot and lap phase of an item (R227). -/
def ringSlot (x : Ring) (n : Word) : Nat × Bool := (n.toNat % x.slots, n.toNat / x.slots % 2 = 1)

/-- The condition `ringwait` waits for. -/
def ringReady (t : Team) (r : Nat) (empty : Bool) (n : Word) : Bool :=
  let x := look t.rings r {}
  let (k, h) := ringSlot x n
  (if empty then !x.full.getLsbD k else x.full.getLsbD k) && x.ph.getLsbD k = h

/-- `ringwait` (R227). -/
def execRingwait (_k : BitVec 1) (a : BitVec 6) (e : BitVec 1) (r : BitVec 4) (s : State) : Host.Outcome State Fault Refusal :=
  let n := s.grp.sreg a.toNat
  uniform s [a.toNat]
    (if (look s.team.rings r.toNat {}).slots = 0 then raiseHelm s 0x0C
     else if ringReady s.team r.toNat (e = 1) n then advance s
     else stopHelm s (.ring r.toNat (e = 1) n))

/-- A ring post takes effect (R227, R228). -/
def applyPost (s : State) (r : Nat) (empty : Bool) (n : Word) : Applied :=
  if s.grp.olderAccess s.cur.seq then .wait s
  else
    let x := look s.team.rings r {}
    let (k, h) := ringSlot x n
    let bit : DWord := BitVec.ofNat 64 (2 ^ k)
    if x.slots = 0 || x.full.getLsbD k ≠ empty || x.ph.getLsbD k ≠ h then .stop (raiseAll s 0x0C)
    else
      let x := if empty then { x with full := x.full &&& ~~~bit, ph := x.ph ^^^ bit } else { x with full := x.full ||| bit }
      .done { s with team := { s.team with rings := put s.team.rings r x {} } }

/-- `ringpost` (R227). -/
def execRingpost (_k : BitVec 1) (a : BitVec 6) (e : BitVec 1) (r : BitVec 4) (s : State) : Host.Outcome State Fault Refusal :=
  let n := s.grp.sreg a.toNat
  uniform s [a.toNat] (commitOr s (.ringPost r.toNat (e = 1) n) (fun s => applyPost s r.toNat (e = 1) n) advance)

end Sys2Proof.Machine
end

