-- ==== Sys2Proof/Machine/UniformMem.lean ====
section
/-!
DEFINITION. Uniform memory words (11 R209 to R211) and the queue words (R212).
-/
namespace Sys2Proof.Machine

/-- Bytes of a uniform size code (R209). -/
def uniSize (z : BitVec 2) : Nat := match z.toNat with | 0 => 4 | 1 => 8 | 2 => 2 | _ => 1

/-- The address of `sld` and `sst` (R209). -/
def uniAddr (g : Group) (a : BitVec 6) (o : BitVec 10) (n : Nat) : DWord := g.spair a.toNat + BitVec.ofInt 64 (o.toInt * n)

/-- The checks of a uniform access and what follows from them: the target, or the state the word waits or stops in (R209, R387); a word that
waits for a reply or a die goes on with the checks it made. -/
def uniAccess (s : State) (kind : MemKind) (n : Nat) (addr : DWord) (k : State → Target → Caching → Applied) : Applied :=
  let seq := s.cur.seq
  let (s1, w) := match s.grp.awaiting seq with
    | some w => (s, w)
    | none =>
      let (s1, v) := checkLane s n kind.access addr
      (s1, ({ cur := s.cur, kind := kind, accs := [{ lane := 0, va := addr, v := v }] } : MemWord))
  let (s1, w) := walkAgain s1 (reopen s1 w)
  match memWait s1 w with
  | some (.lost pa) => .stop (lostReset s1 s.team.asid pa)
  | some h => .wait (holdWord s1 w h)
  | none =>
    let accs := resolve s1 w
    let s1 := logRefused (s1.modGrp fun g => g.arrived seq) accs
    match accs with
    | [] => .done s1
    | x :: _ => match x.v with
      | .ok t c => k s1 t c
      | v =>
        let s1 := match x.late with
          | some t => (match k s1 t {} with | .done s => s | .wait s => s | .stop s => s)
          | none => s1
        let (cls, code) : Byte × Word := match v with | .fail cls code => (cls, code) | _ => (clsXlate, 0)
        .stop (raise s1 { cur := s.cur, lanes := s.cur.mask, cls := cls, faddr := addr, fcode := code, page := pageOf accs })

/-- The registers a loaded value goes to (R209). -/
def loadWrites (n sd v : Nat) : List (Nat × Word) :=
  if n = 8 then [(sd, BitVec.ofNat 32 v), (sd + 1, BitVec.ofNat 32 (v / 2 ^ 32))] else [(sd, BitVec.ofNat 32 v)]

/-- Performs an `sld`, once every older lane-order event has been (R49, R110); the second component names the writes. -/
def applyLoad (s : State) (addr : DWord) (n sd : Nat) (k : State → List (Nat × Word) → State) : Applied :=
  if s.grp.olderAccess s.cur.seq then .wait s
  else uniAccess s (.load (if n = 8 then 5 else 4) sd) n addr fun s t c =>
    let (s, go) := askSlice s s.team.core t false
    if !go then .wait s
    else
      let (s, v) := loadTarget s t c n
      .done (k s (loadWrites n sd v))

/-- Performs an `sst`, or holds it behind older stores (R110, R210). -/
def applyStore (s : State) (addr : DWord) (n : Nat) (data : DWord) : Applied :=
  uniAccess s (.store n) n addr fun s t c =>
    .done (issueStore s n none (fun _ => 0) (fun _ => data.toNat % 256 ^ n) none (fun _ => addr) (0, t, c))

/-- Performs a `satom` (R211). -/
def applyAtom (s : State) (op : Nat) (addr : DWord) (data : Word) (sd : Nat) (k : State → List (Nat × Word) → State) : Applied :=
  if s.grp.olderAccess s.cur.seq then .wait s
  else uniAccess s (.atomic op none) 4 addr fun s t c =>
    let (s, go) := if lockedTarget s t 4 then (s, false) else askSlice s s.team.core t true
    if !go then .wait s
    else
      let (s, old) := atomicTarget s t c op 0 data
      .done (k s [(sd, old)])

/-- The result becomes architectural at once. -/
def landRegs (s : State) (sw : List (Nat × Word)) : State := s.modGrp fun g => g.retireRegs sw []

/-- The result is on its way (R205). -/
def oweRegs (s : State) (sw : List (Nat × Word)) : State := s.modGrp fun g =>
  let g := g.disown sw
  { g with owed := g.owed ++ [(s.cur.seq, sw)] }

/-- `sld` (R209). -/
def execSld (_k : BitVec 1) (d a : BitVec 6) (z : BitVec 2) (o : BitVec 10) (s : State) : Host.Outcome State Fault Refusal :=
  let n := uniSize z
  let addr := uniAddr s.grp a o n
  uniform s [a.toNat, a.toNat + 1]
    (commitOr s (.load addr n d.toNat) (fun s => applyLoad s addr n d.toNat landRegs) fun s => advance (noteLoad s s.team.core))

/-- `sst` (R209, R210). -/
def execSst (_k : BitVec 1) (d a : BitVec 6) (z : BitVec 2) (o : BitVec 10) (s : State) : Host.Outcome State Fault Refusal :=
  let n := uniSize z
  let addr := uniAddr s.grp a o n
  let data : DWord := if n = 8 then s.grp.spair d.toNat else (s.grp.sreg d.toNat).setWidth 64
  uniform s ([a.toNat, a.toNat + 1, d.toNat] ++ if n = 8 then [d.toNat + 1] else [])
    (commitOr s (.store addr n data) (fun s => applyStore s addr n data) advance)

/-- `satom` (R211). -/
def execSatom (_k : BitVec 1) (d a b f : BitVec 6) (s : State) : Host.Outcome State Fault Refusal :=
  let addr := s.grp.spair a.toNat
  let data := s.grp.sreg b.toNat
  uniform s [a.toNat, a.toNat + 1, b.toNat]
    (commitOr s (.atom f.toNat addr data d.toNat) (fun s => applyAtom s f.toNat addr data d.toNat landRegs) advance)

/-- `spush` (R212). -/
def execSpush (_k : BitVec 1) (a : BitVec 6) (s : State) : Host.Outcome State Fault Refusal :=
  uniform s [a.toNat]
    (if 16 ≤ s.grp.fwd.length then s.tick 1
     else advance (s.modGrp fun g => { g with fwd := g.fwd ++ [.value s.cur.seq (g.sreg a.toNat)] }))

/-- The return-queue value `spop` may take: the oldest, once it has completed and its word is not speculative (R44, Table 23.2). -/
def retReady (s : State) : Option RetEntry :=
  match s.grp.ret with
  | e :: _ => if e.ready ≤ s.clock && !s.grp.speculative e.seq then some e else none
  | [] => none

/-- `spop` (R212); what a younger `spop` took goes back in a rollback (R385). A word that waits for the slot issues from now on (R46). -/
def execSpop (_k : BitVec 1) (d : BitVec 6) (s : State) : Host.Outcome State Fault Refusal :=
  match retReady s with
  | none => done (stopHelm s .spop)
  | some e =>
    if !quiet s && 24 ≤ s.grp.commit.length then done (s.tick 1)
    else
      let s := if retFull s.grp then s.modPipe fun p => { p with next := max p.next s.clock } else s
      let s := s.modGrp fun g =>
        { g with ret := g.ret.drop 1, popped := if quiet s then g.popped else g.popped ++ [.ret s.cur.seq e] }
      done (uniformWrite s [(d.toNat, e.value)] [])

end Sys2Proof.Machine
end

