-- ==== Sys2Proof/Machine/Engine.lean ====
section
/-!
DEFINITION. Accesses of the engine paths (06 R117, R118): translation page by page (05 R93, 13 R274), what stops an access (24 R404,
25 R435, 26 R447, R452), reads and writes of ranges, and the entries engines make in the context fault ring.
-/
namespace Sys2Proof.Machine

/-- Who makes an engine access: the unit whose TLB translates, the context, the launch, the group the command is of, the path (Table
6.3), the command and its tag. -/
structure Agent where
  unit : Unit'
  /-- the core whose crossbar its requests enter, where it is a unit of a core (R357) -/
  core : Option Nat := none
  /-- its source number at the ports (R354) -/
  src : Nat := 0
  /-- its accesses are performed at the home of their line, reads among them (R310) -/
  atHome : Bool := false
  asid : BitVec 12
  priv : Bool
  launch : Nat
  uid : Nat
  gidx : Nat
  name : DWord
  path : Nat
  cmd : Option Nat := none
  tag : Word := 0

/-- A part of a range that lies in one 64 KiB granule: its offset in the range, its length, its VA and where it goes. -/
structure Chunk where
  off : Nat
  len : Nat
  va : DWord
  target : Target
  caching : Caching
  deriving DecidableEq, Repr

/-- What stops a range: a failed translation or permission, a PEND entry, a lost line, a home die in reset; each with the offset of
the first byte it stops. -/
inductive EngStop where
  | fail (cls : Byte) (code : Word) (va : DWord) (off : Nat)
  | pend (va : DWord) (level : Nat)
  | lost (va : DWord) (off : Nat)
  /-- the die, or none for a link that retrains (R445) -/
  | home (va : DWord) (die : Option Nat)
  deriving DecidableEq, Repr

/-- The granules of a range: offset and length (R274); an empty range has none. -/
def granules (va : DWord) (n : Nat) : List (Nat × Nat) :=
  let r := va.toNat % 65536
  (List.range (if n = 0 then 0 else (r + n + 65535) / 65536)).map fun k =>
    let lo := 65536 * k - r
    let hi := min n (65536 * (k + 1) - r)
    (lo, hi - lo)

/-- The offset of the first byte of a chunk of device memory that lies in a lost line (R414). -/
def firstLost (s : State) (pa len : Nat) : Option Nat :=
  let lines := (lostLines s (homeOf (pa / 128))).filter fun l => pa / 128 ≤ l && 128 * l < pa + len
  ((sortBy id lines).head?).map fun l => 128 * l - pa

/-- The lost lines of a range that a write does not cover whole. -/
def firstLostPart (s : State) (pa len : Nat) : Option Nat :=
  let lines := (lostLines s (homeOf (pa / 128))).filter fun l =>
    pa / 128 ≤ l && 128 * l < pa + len && !(pa ≤ 128 * l && 128 * l + 128 ≤ pa + len)
  ((sortBy id lines).head?).map fun l => 128 * l - pa

/-- Whether a wait of an agent is that of its access to an address for a die. -/
def HomeWait.of (h : HomeWait) (e : Agent) (va : DWord) (die : Nat) : Bool :=
  h.path = e.path && h.cmd = e.cmd && h.uid = e.uid && h.gidx = e.gidx && h.va = va && h.die = die

/-- Whether an agent's access to an address has waited 2^24 clocks for a die in reset (R447). -/
def homeOver (s : State) (e : Agent) (va : DWord) (die : Nat) : Bool :=
  s.homeWaits.any fun h => h.of e va die && decide (max h.since (s.die die).resetAt + 2 ^ 24 ≤ s.clock)

/-- It waits no longer. -/
def endWait (s : State) (e : Agent) (va : DWord) : State :=
  if s.homeWaits.isEmpty then s
  else { s with homeWaits := s.homeWaits.filter fun h => !(h.path = e.path && h.cmd = e.cmd && h.uid = e.uid && h.gidx = e.gidx && h.va = va) }

/-- Its wait counts from now on, unless it waits already. -/
def homeWait (s : State) (e : Agent) (va : DWord) (die : Option Nat) : State :=
  match die with
  | none => s
  | some d =>
    if s.homeWaits.any fun h => h.of e va d then s
    else { s with homeWaits := s.homeWaits ++
      [{ path := e.path, cmd := e.cmd, uid := e.uid, gidx := e.gidx, va := va, die := d, since := s.clock }] }

/-- The die in reset that a translated access waits for: its own, or that of the line of a page of this module (R447). -/
def waitsFor (s : State) (t : Target) : Option Nat :=
  match t with
  | .device pa => if (s.die (homeOf (pa / 128))).inReset then some (homeOf (pa / 128)) else none
  | .peer m pa =>
    if m = fabId s && s.hub.modPol.getLsbD 0 && backed pa && (s.die (homeOf (pa / 128))).inReset then some (homeOf (pa / 128)) else none
  | _ => none

/-- What stops a chunk once it is translated. -/
def chunkStop (s : State) (e : Agent) (a : Access) (t : Target) (va : DWord) (off len : Nat) (covers : Bool) (level : Nat) : Option EngStop :=
  match t with
  | .device pa =>
    if (waitsFor s t).isSome then
      (if homeOver s e va (homeOf (pa / 128)) then some (.fail clsXlate (reason 8 level 0) va off) else some (.home va (waitsFor s t)))
    else
      (if a = .write && covers then firstLostPart s pa len else firstLost s pa len).map fun o =>
        .lost (va + BitVec.ofNat 64 o) (off + o)
  | .host _ _ => if s.slalia.lost then some (.fail clsTarget (reason 3 0 0) va off) else none
  | .peer m pa =>
    if m = fabId s then
      (if (waitsFor s t).isSome && !homeOver s e va (homeOf (pa / 128)) then some (.home va (waitsFor s t))
       else (inboundReason s pa).map fun d => .fail clsRemote (reason 3 0 d) va off)
    else if (routePorts s m).isEmpty then some (.fail clsRemote (reason 1 0 0) va off)
    else none
  | _ => none

/-- How a packet that does not succeed ends: the reason, and whether the target has performed it; which of them, and whether it succeeds,
is a free value (R380, R408, R409). -/
def packetEnd (free : Nat) : Option (Word × Bool) :=
  match Config.freeOutcome free % 6 with
  | 0 => none
  | 5 => some (reason 2 0 0, Config.freeHost free 0)
  | d => some (reason 3 0 d, false)

/-- How another module answers the accesses of an engine to a granule of its pages: they succeed, or fail with a NACK or a timeout (R408); the writes of a copy
fail packet by packet (R380). -/
def peerFate (s : State) (e : Agent) (a : Access) (t : Target) : State × Option Word :=
  match t with
  | .peer m _ =>
    if m = fabId s || (e.path = 1 && a = .write) then (s, none) else ({ s with free := s.free + 1 }, (packetEnd s.free).map Prod.fst)
  | _ => (s, none)

/-- A refusal by this module of an engine's access to a page that names it is logged (R409). -/
def engRefused (s : State) (t : Target) (cls : Byte) (code : Word) : State :=
  match t with
  | .peer m pa => if m = fabId s && cls = clsRemote then refusal s pa (bits code.toNat 23 16) m else s
  | _ => s

/-- Translates a range page by page, up to the first thing that stops it. `allow` says which targets the access may reach; another one
fails as a data access (R465), with TARGET 0x04, of the reasons of Table 24.1 the one that speaks of a page of another target (DESIGN CHOICE, log 33). `covers` says that a write of a whole lost line goes through (R414). -/
def engMap (s : State) (e : Agent) (va : DWord) (n : Nat) (a : Access) (allow : Target → Bool) (covers : Bool := false) :
    State × List Chunk × Option EngStop :=
  (granules va n).foldl (fun acc g =>
    let (s, chunks, stop) : State × List Chunk × Option EngStop := acc
    match stop with
    | some _ => acc
    | none =>
      let gva := va + BitVec.ofNat 64 g.1
      let (s, r) := checkAccess s e.unit e.asid e.priv e.launch gva 1 a
      match r with
      | .fail cls code => (s, chunks, some (.fail cls code gva g.1))
      | .pend l => (s, chunks, some (.pend gva l))
      | .home d l =>
        if homeOver s e gva d then (endWait s e gva, chunks, some (.fail clsXlate (reason 8 l 0) gva g.1))
        else (s, chunks, some (.home gva (some d)))
      | .ok t leaf level =>
        if !allow t then (s, chunks, some (.fail clsTarget (reason 4 0 0) gva g.1))
        else match (if rangeHeld s e.unit.dieNo e.src t g.2 (a ≠ .read) then some (.home gva none) else chunkStop s e a t gva g.1 g.2 covers level) with
          | some (.lost v o) =>
            (s, chunks ++ [{ off := g.1, len := o - g.1, va := gva, target := t, caching := cachingOf leaf level }], some (.lost v o))
          | some (.fail cls code v o) => (engRefused (endWait s e gva) t cls code, chunks, some (.fail cls code v o))
          | some x => (s, chunks, some x)
          | none =>
            let c : Chunk := { off := g.1, len := g.2, va := gva, target := t, caching := cachingOf leaf level }
            match peerFate s e a t with
            | (s, some code) => (s, chunks, some (.fail clsRemote code gva g.1))
            | (s, none) => (s, chunks ++ [c], none))
    (s, [], none)

def anyTarget (_ : Target) : Bool := true
def deviceOnly (t : Target) : Bool := match t with | .device _ => true | _ => false
def deviceOrHost (t : Target) : Bool := match t with | .device _ => true | .host _ _ => true | _ => false

/-- A byte of a core's scratchpad array or operand buffer. -/
def arrayByte (s : State) (ob : Bool) (core o : Nat) : Byte :=
  match ownerAt (teamsOfCore s core) (fun t => if ob then t.obSize else t.scratchSize) o with
  | some (uid, x) => match s.teamOf uid with
    | some t => memByte (if ob then t.ob else t.scratch) x
    | none => 0
  | none => memByte (if ob then (s.core core).obArray else (s.core core).array) o

/-- Writes one. -/
def arrayPut (s : State) (ob : Bool) (core o : Nat) (b : Byte) : State :=
  match ownerAt (teamsOfCore s core) (fun t => if ob then t.obSize else t.scratchSize) o with
  | some (uid, x) => s.modTeam uid fun t =>
      if ob then { t with ob := memPut t.ob x b } else { t with scratch := memPut t.scratch x b }
  | none => s.modCore core fun c =>
      if ob then { c with obArray := memPut c.obArray o b } else { c with array := memPut c.array o b }

/-- The parts of a range of an array that lie in allocations: the team, the offset in its allocation, the length. -/
def ownerParts (ts : List Team) (size : Team → Nat) (off n : Nat) : List (Nat × Nat × Nat) :=
  match ts with
  | [] => []
  | t :: r =>
    let m := min n (size t - off)
    (if m = 0 then [] else [(t.uid, off, m)]) ++ ownerParts r size (off - size t) (n - m)

/-- The parts of a range of a core's scratchpad array or operand buffer. -/
def partsOf (s : State) (ob : Bool) (core o n : Nat) : List (Nat × Nat × Nat) :=
  ownerParts (teamsOfCore s core) (fun t => if ob then t.obSize else t.scratchSize) o n

/-- The blocks that a range of an array touches: of allocations by team and number, of other bytes by key (R108). -/
def blocksOf (s : State) (ob : Bool) (core o n : Nat) : List (Option Nat × Nat) :=
  let parts := partsOf s ob core o n
  let owned := (parts.map fun p => p.2.2).sum
  (parts.flatMap fun p => (List.range ((p.2.1 % 128 + p.2.2 + 127) / 128)).map fun k =>
    (some p.1, (if ob then 4096 else 0) + p.2.1 / 128 + k)) ++
  if owned = n then [] else
    (List.range (((o + owned) % 128 + (n - owned) + 127) / 128)).map fun k =>
      (none, 8192 * core + (if ob then 3072 else 0) + (o + owned) / 128 + k)

/-- An engine write reaches blocks (R108, R117): WTS = RTS + 1. -/
def engBlocks (s : State) (bs : List (Option Nat × Nat)) : State :=
  bs.foldl (fun s b =>
    let (_, r) := blockStamps s b.1 b.2
    { setBlock s b.1 b.2 (r + 1, r + 1) with engWts := max s.engWts (r + 1) }) s

/-- A write of an engine in front of the bytes of a space, which accesses of other paths may not see yet (R118); what a system command or
the context DMA writes, which stands in G (R278), every path sees at once (notes/assumptions/79.md). -/
def engPast (s : State) (e : Agent) (space a : Nat) (old : List Byte) : State :=
  if e.path = 8 then s else
  { s with past := s.past ++ [{ space := space, addr := a, old := old, path := e.path, uid := e.uid, gidx := e.gidx,
                                launch := e.launch, cmd := e.cmd, popped := e.cmd.isNone }] }

/-- What an engine finds at bytes of a space: other paths' writes that nothing orders before it, it sees or not (R118). What it does at the
line's home it does to the bytes as they stand; accesses on path LANE are made in lane order, those of system commands and the context DMA
in G (R278). -/
def engView (s : State) (e : Agent) (space a : Nat) (bs : List Byte) : State × List Byte :=
  if e.atHome || e.path = 0 || e.path = 8 then (s, bs)
  else
    let s := seePast s space a bs.length e.uid e.gidx e.path e.cmd
    (s, pastView s space a bs)

/-- Bytes of an array. -/
def arrayRead (s : State) (ob : Bool) (core o n : Nat) : List Byte := (List.range n).map fun i => arrayByte s ob core (o + i)

/-- Bytes of an array as an engine finds them. -/
def arrayView (s : State) (e : Agent) (ob : Bool) (core o n : Nat) : State × List Byte :=
  let (s, bs) := (partsOf s ob core o n).foldl (fun acc p =>
    let m := if ob then shareOf acc.1 p.1 else scratchOf acc.1 p.1
    let (s, b) := engView acc.1 e (2 * p.1 + if ob then 2 else 1) p.2.1 (leBytes p.2.2 (memRead m p.2.1 p.2.2))
    (s, acc.2 ++ b)) (s, ([] : List Byte))
  (s, bs ++ arrayRead s ob core (o + bs.length) (n - bs.length))

/-- Engine writes into an array. -/
def arrayWrite (s : State) (e : Agent) (ob : Bool) (core o : Nat) (bs : List Byte) : State :=
  let s := (partsOf s ob core o bs.length).foldl (fun s p =>
    let m := if ob then shareOf s p.1 else scratchOf s p.1
    engPast s e (2 * p.1 + if ob then 2 else 1) p.2.1 (leBytes p.2.2 (memRead m p.2.1 p.2.2))) s
  (List.range bs.length).foldl (fun s i => arrayPut s ob core (o + i) (bs.getD i 0)) (engBlocks s (blocksOf s ob core o bs.length))

/-- The packets of a chunk on another module's pages: blocks that end at multiples of 256 bytes of the VA (R380; for engines other than the copy
engine notes/assumptions/75.md): the VA and length of each. -/
def packetsOf (s : State) (c : Chunk) : List (Nat × Nat) :=
  match c.target with
  | .peer m _ =>
    if m = fabId s then []
    else
      let r := c.va.toNat % 256
      (List.range ((r + c.len + 255) / 256)).map fun k =>
        let lo := 256 * k - r
        (c.va.toNat + lo, min c.len (256 * (k + 1) - r) - lo)
  | _ => []

/-- The packets of a chunk enter the queue of their port: a header each, and the data of a write (R351, R354). -/
def sendChunk (s : State) (e : Agent) (c : Chunk) (data : Bool) : State :=
  match c.target with
  | .peer m _ =>
    if m = fabId s then s else sendFlits s m e.src ((packetsOf s c).map fun p => accessFlits p.2 data).sum e.asid
  | _ => s

/-- The die at which an engine's access to a line is made. -/
def Agent.die (e : Agent) (pa : Nat) : Nat := if e.atHome then homeOf (pa / 128) else e.unit.dieNo

/-- Reads a chunk. -/
def readChunk (s : State) (e : Agent) (c : Chunk) : State × List Byte :=
  match c.target with
  | .device pa =>
    let (s, v) := engineReadN s (e.die pa) pa c.len c.caching e.asid e.core
    engView s e 0 pa (leBytes c.len v)
  | .hub pa => (s, leBytes c.len (hubGet s (pa - hubBase) c.len))
  | .host a _ => let (s, v) := hostRead s a c.len; (s, leBytes c.len v)
  | .peer m pa =>
    if m = fabId s then
      let (s, v) := engineReadN s (homeOf (pa / 128)) pa c.len bypass e.asid e.core
      engView s e 0 pa (leBytes c.len v)
    else (sendChunk s e c false, memBytes (look s.peers m {}).mem pa c.len)
  | .share uid o => engView s e (2 * uid + 1) o (memBytes (scratchOf s uid) o c.len)
  | .scratch k o => arrayView s e false k o c.len
  | .opbuf k o => arrayView s e true k o c.len

/-- Lost lines that a write covers whole leave the table (R414). -/
def unloseAll (s : State) (pa n : Nat) : State := (lineChunks pa n).foldl (fun s k => unlose s (pa + k.1) k.2) s

/-- The naturally aligned 8-byte pieces of an engine's write, each of which is one event (R106): address and bytes. -/
def hostUnits (a : Nat) (bs : List Byte) : List (Nat × List Byte) :=
  (List.range ((a % 8 + bs.length + 7) / 8)).map fun k =>
    let lo := 8 * k - a % 8
    (a + lo, (bs.drop lo).take (8 * (k + 1) - a % 8 - lo))

/-- Writes a chunk; a copy's write to a host-window page is on path HOST (R349). -/
def writeChunk (s : State) (e : Agent) (c : Chunk) (bs : List Byte) : State :=
  let v := ofLeBytes bs
  let n := bs.length
  match c.target with
  | .device pa =>
    let s := engineWriteN (engPast s e 0 pa (memBytes s.mem pa n)) (e.die pa) pa n v c.caching e.asid e.core (some e.launch)
    if e.path = 1 || e.path = 8 then unloseAll s pa n else s
  | .hub pa => hubSet s (pa - hubBase) n v
  | .host a _ =>
    let unit (p : Nat × List Byte) : HostWrite :=
      { addr := p.1, data := p.2, uid := e.uid, gidx := e.gidx, launch := e.launch, path := if e.path = 1 then 8 else e.path, cmd := e.cmd }
    { s with hostPending := s.hostPending ++ (hostUnits a bs).map unit }
  | .peer m pa =>
    if m = fabId s then
      engineWriteN (engPast s e 0 pa (memBytes s.mem pa n)) (homeOf (pa / 128)) pa n v bypass e.asid e.core (some e.launch)
    else sendChunk { s with peers := change s.peers m {} fun p : Peer => { p with mem := memWrite p.mem pa n v } } e c true
  | .share uid o =>
    let s := engPast s e (2 * uid + 1) o (memBytes (scratchOf s uid) o n)
    let s := engBlocks s ((List.range ((o % 128 + n + 127) / 128)).map fun k => (some uid, o / 128 + k))
    s.modTeam uid fun t => { t with scratch := memWrite t.scratch o n v }
  | .scratch k o => arrayWrite s e false k o bs
  | .opbuf k o => arrayWrite s e true k o bs

/-- Reads every chunk of a range. -/
def readChunks (s : State) (e : Agent) (cs : List Chunk) : State × List Byte :=
  cs.foldl (fun acc c => let (s, b) := readChunk acc.1 e c; (s, acc.2 ++ b)) (s, [])

/-- Writes the bytes of a range through its chunks. -/
def writeChunks (s : State) (e : Agent) (cs : List Chunk) (bs : List Byte) : State :=
  cs.foldl (fun s c => writeChunk s e c ((bs.drop c.off).take c.len)) s

/-- Whether a store into an operand-buffer page or a copy meets a locked byte (R258). -/
def lockedChunk (s : State) (c : Chunk) : Bool :=
  match c.target with
  | .opbuf k o => (List.range c.len).any fun i => lockedTarget s (.opbuf k (o + i)) 1
  | _ => false

/-- A SOURCE 14 entry: an engine's data failure (R435). -/
def engEntry (s : State) (e : Agent) (cls : Byte) (code : Word) (va : DWord) : State :=
  ctxRing s e.asid { name := e.name, cls := cls, source := 14, faddr := va, fword := e.tag, fcode := code }

/-- A SOURCE 2 entry: a page request by an engine (R404). -/
def engPage (s : State) (e : Agent) (va : DWord) (level : Nat) : State :=
  ctxRing s e.asid { name := e.name, cls := clsXlate, source := 2, faddr := va, fcode := reason 7 level 0 }

/-- A `.tlbinv` whose match covers a context (R403, R404). -/
def tlbCovers (kind : Nat) (asid asid' : BitVec 12) : Bool := kind = 2 || asid = asid'

end Sys2Proof.Machine
end

