-- ==== Sys2Proof/Machine/MatArith.lean ====
section
/-!
DEFINITION. The arithmetic of the matrix engine: operands A and B (12 R241, R242), one step of the sum (04 R78 to R81), row bounds
(12 R255), promotion (R259), conversion for drains and stores (R252), and bounded tile records (R251).
-/
namespace Sys2Proof.Machine

/-- Half of Ulp(x, fmt) of R9. -/
def halfUlp (f : Fmt) (x : Dyadic) : Dyadic :=
  let emin : Int := 1 - (f.bias : Int)
  if x.m = 0 then { m := 1, e := emin - f.m - 1 }
  else
    let p := pow2 x.e
    let e := floorLog2 (x.m.natAbs * p.1) p.2
    { m := 1, e := min (f.bias : Int) (max emin e) - f.m - 1 }

/-- A signed integer as a value. -/
def fvalInt (x : Int) : FVal := .fin (decide (x < 0)) x.natAbs 0

/-- An exact real as a value. -/
def fvalD (d : Dyadic) : FVal := .fin (decide (d.m < 0)) d.m.natAbs d.e

/-- Bytes of an element of a raw format; 0 for K16. -/
def rawBytes (fmt : Nat) : Nat := match fmt with | 0 => 1 | 1 => 1 | 2 => 1 | 3 => 2 | 4 => 2 | _ => 0

/-- An element of a raw operand format (Table 12.3). -/
def rawVal (fmt x : Nat) : FVal :=
  match fmt with
  | 0 => e4m3.decode x
  | 1 => e5m2.decode x
  | 2 => fvalInt (signExt x 8)
  | 3 => f16.decode x
  | _ => bf16.decode x

/-- Elements and bytes of a K16 record (Table 4.8). -/
def k16Len (fmt : Nat) : Nat := match fmt with | 5 => 32 | 6 => 48 | _ => 64
def k16Bytes (fmt : Nat) : Nat := k16Len fmt / 2 + 1

def Reservation.afmt (r : Reservation) : Nat := bits r.w0.toNat 27 24
def Reservation.bfmt (r : Reservation) : Nat := bits r.w0.toNat 31 28
def Reservation.rowb (r : Reservation) : Nat := bits r.w0.toNat 47 32
def Reservation.base (r : Reservation) : Nat := 128 * bits r.w0.toNat 10 0
def Reservation.rowsc (r : Reservation) : Nat := bits r.w1.toNat 17 0
def Reservation.colsc (r : Reservation) : Nat := bits r.w1.toNat 37 20

/-- Elements of a row of A (R241). -/
def Reservation.rowElems (r : Reservation) : Nat :=
  if 5 ≤ r.afmt then r.rowb / k16Bytes r.afmt * k16Len r.afmt else r.rowb / rawBytes r.afmt

/-- Element e of row i of A (R241); K16 codes are expanded by their block scale (R74). -/
def aElem (ob : Memory) (r : Reservation) (i e : Nat) : FVal :=
  let row := r.base + i * r.rowb
  if 5 ≤ r.afmt then
    let l := k16Len r.afmt
    let rec' := row + e / l * k16Bytes r.afmt
    let j := e % l
    let b := (memByte ob (rec' + 1 + j / 2)).toNat
    fvalD ((ue4m4 (memByte ob rec').toNat).mul (k16Code (if j % 2 = 0 then b % 16 else b / 16)))
  else
    let z := rawBytes r.afmt
    rawVal r.afmt (memRead ob (row + e * z) z)

/-- Element (k, j) of B (R242): `reg h n l` is register vb + n of lane l of holder h. -/
def bElem (fmt kk holders : Nat) (reg : Nat → Nat → Nat → Word) (k j : Nat) : FVal :=
  let per := kk / holders
  let z := rawBytes fmt
  let off := (2 * (k % per) + j % 2) * z
  rawVal fmt ((reg (k / per) (off / 4) (j / 2)).toNat / 256 ^ (off % 4) % 256 ^ z)

/-- Exponent of the largest nonzero term, if there is one. -/
def topExp (ts : List Dyadic) : Option Int :=
  ts.foldl (fun (e : Option Int) (t : Dyadic) =>
    if t.m = 0 then e
    else
      let p := pow2 t.e
      let x := floorLog2 (t.m.natAbs * p.1) p.2
      match e with
      | some y => some (max x y)
      | none => some x) none

/-- A term cut off below 2^lsb, toward zero. -/
def truncTerm (lsb : Int) (t : Dyadic) : Dyadic :=
  if lsb ≤ t.e then t
  else
    let q := t.m.natAbs / 2 ^ (lsb - t.e).toNat
    { m := if t.m < 0 then -(q : Int) else q, e := lsb }

/-- What an element comes to: hi (or the whole element), lo, whether an i32 sum saturated, and the truncation term. -/
structure MatOut where
  hi : Word
  lo : Word := 0
  sat : Bool := false
  trunc : Dyadic := .zero

def posZero (x : Nat) : Nat := if x % 2 ^ 31 = 0 then 0 else x

/-- One output element of a floating class (R78, R80): the accumulator's value and the products. A lo half that rounds to zero is +0, as R78
leaves a zero accumulator: DESIGN CHOICE (notes/assumptions/76.md), R80 gives such a lo no sign. -/
def macFloat (window : Option Nat) (wide : Bool) (acc : FVal) (ps : List FVal) : MatOut :=
  let ts := acc :: ps
  let pos := ts.any fun t => t.isInf && !t.neg
  let neg := ts.any fun t => t.isInf && t.neg
  if ts.any FVal.isNan || (pos && neg) then { hi := BitVec.ofNat 32 f32.nan }
  else if pos || neg then { hi := BitVec.ofNat 32 (f32.inf neg) }
  else
    let ds := ts.map FVal.dy
    let (sum, trunc) : Dyadic × Dyadic :=
      match window, topExp ds with
      | some n, some e =>
        let lsb := e - (n : Int) + 1
        let cut := ds.map (truncTerm lsb)
        let sticky := (List.zip ds cut).filter fun x => (x.1.add x.2.neg).m ≠ 0
        (cut.foldl Dyadic.add .zero, { m := sticky.length, e := lsb })
      | _, _ => (ds.foldl Dyadic.add .zero, .zero)
    let hi := posZero (f32.roundD .rn sum false)
    let lo := if !wide || (f32.decode hi).isInf then 0 else posZero (f32.roundD .rn (sum.add (f32.decode hi).dy.neg) false)
    { hi := BitVec.ofNat 32 hi, lo := BitVec.ofNat 32 lo, trunc := trunc }

/-- One output element of class INT8. -/
def macInt (acc : Word) (ps : List FVal) : MatOut :=
  let s := ps.foldl (fun a p => a + p.dy.m * 2 ^ p.dy.e.toNat) acc.toInt
  let r := sat s (-2 ^ 31) (2 ^ 31 - 1)
  { hi := toWord r, sat := decide (s ≠ r) }

/-- A map of the values of a function, without those that an unlisted key reads as. -/
def tabulate {β : Type} [DecidableEq β] (n : Nat) (d : β) (f : Nat → β) : Sparse β :=
  (List.range n).filterMap fun k => if f k = d then none else some (k, f k)

/-- The value of an element of a tile: hi + lo on a wide tile (R252, R80). -/
def Tile.value (t : Tile) (k : Nat) : FVal :=
  let x := look t.elems k 0
  match t.type with
  | .zero => .fin false 0 0
  | .i32 => fvalInt x.toInt
  | .f32 => f32.decode x.toNat
  | .wide =>
    match f32.decode x.toNat, f32.decode (look t.plane k 0).toNat with
    | .fin n m e, .fin n' m' e' =>
      let d := (dyadicOf n m e).add (dyadicOf n' m' e')
      if d.m = 0 then .fin (n && n') 0 0 else fvalD d
    | .nan, _ => .nan
    | _, .nan => .nan
    | .inf n, .inf n' => if n = n' then .inf n else .nan
    | .inf n, _ => .inf n
    | _, .inf n => .inf n

/-- Magnitude code of the largest element of row i, over hi (R255). -/
def rowMax (hi : Sparse Word) (i : Nat) : Nat := (List.range 64).foldl (fun m j => max m ((look hi (64 * i + j) 0).toNat % 2 ^ 31)) 0

def infCode : Nat := 0x7F800000

/-- The bound of a row after a word (R255). -/
def rowBound (type : TileType) (e : Half) (mx : Nat) (sat : Bool) (trunc : Dyadic) : Half :=
  if sat || (type ≠ .i32 && infCode ≤ mx) then 0xFF00
  else
    let h := halfUlp32 (f32.decode mx).dy
    match type with
    | .wide =>
      let w : Dyadic := { h with e := max (h.e - 24) (-150) }
      BitVec.ofNat 16 (eb16AddReal e.toNat ((if mx = 0 then .zero else w).add trunc))
    | .i32 => e
    | _ => BitVec.ofNat 16 (eb16AddReal e.toNat ((if mx = 0 then .zero else h).add trunc))

/-- One step of `mma` on a tile (R247): A and B by row and column, the class. -/
def mmaStep (t : Tile) (cls : MatClass) (a : Nat → List FVal) (b : Nat → List FVal) : Tile :=
  let wide := t.type = .wide
  let type : TileType := if t.type = .zero then (if cls = .int8 then .i32 else .f32) else t.type
  let window : Option Nat := match cls with
    | .fp16 => some (if wide then 96 else 48)
    | .bf16 => some (if wide then 96 else 48)
    | _ => none
  let cols := (List.range 64).map b
  let out : List (List MatOut) := (List.range 64).map fun i =>
    let row := a i
    (List.range 64).map fun j =>
      let ps := List.zipWith FVal.mul row (cols.getD j [])
      if cls = .int8 then macInt (look t.elems (64 * i + j) 0) ps
      else macFloat window wide (t.value (64 * i + j)) ps
  let flat := out.flatten
  let numbered := List.zip (List.range flat.length) flat
  let elems : Sparse Word := numbered.filterMap fun x => if x.2.hi = 0 then none else some (x.1, x.2.hi)
  let los : Sparse Word := numbered.filterMap fun x => if x.2.lo = 0 then none else some (x.1, x.2.lo)
  let bounds := tabulate 64 0 fun i =>
    let row := out.getD i []
    rowBound type (look t.bounds i 0) (rowMax elems i) (row.any fun o => o.sat) (row.foldl (fun s o => s.add o.trunc) .zero)
  { t with type := type, elems := elems, plane := if wide then los else t.plane, bounds := bounds }

/-- Whether a row exceeds its threshold (R259). -/
def rowExceeds (t : Tile) (i : Nat) : Bool :=
  let mx := rowMax t.elems i
  match eb16Val (look t.bounds i 0).toNat, f32.decode t.threshold.toNat with
  | some e, .fin _ m x => decide (mx < infCode) && ((dyadicOf false m x).mul (f32.decode mx).dy).lt e
  | _, _ => false

def promotes (t : Tile) : Bool := (List.range 64).any (rowExceeds t)

/-- The tile as it stood before its chain, in wide mode (R259). -/
def widen (t : Tile) : Tile := { t with type := .wide, elems := t.plane, bounds := t.ckBounds, plane := [], ckBounds := [] }

/-- A scale read from the operand buffer (R252). -/
def scaleOf (ob : Memory) (o i : Nat) : FVal := if o = 0x3FFFF then .fin false 1 0 else f32.decode (memRead ob (o + 4 * i) 4)

def FVal.finite : FVal → Bool
  | .fin _ _ _ => true
  | _ => false

/-- A tile converted to a format (R252): the elements, 64i + j, and the bound of each row. -/
def convertTile (t : Tile) (ob : Memory) (f : Fmt) : List Nat × List Half :=
  let (ro, co) := t.scale.getD (0x3FFFF, 0x3FFFF)
  let cs := (List.range 64).map fun j => scaleOf ob co j
  let maxC := (cs.map fun c => c.dy.abs).foldl (fun m c => if m.lt c then c else m) .zero
  let rows := (List.range 64).map fun i =>
    let rs := scaleOf ob ro i
    let out := (List.range 64).map fun j =>
      match ((t.value (64 * i + j)).mul rs).mul (cs.getD j (.fin false 1 0)) with
      | .nan => f.nan
      | .inf n => f.inf n
      | .fin n m e => let p := pow2 e; f.round .rn n (m * p.1) p.2
    let mag := out.map fun x => x % 2 ^ (f.e + f.m)
    let mo := mag.foldl max 0
    let ob' : Half :=
      match eb16Val (look t.bounds i 0).toNat with
      | some e =>
        if f.maxCode < mo || !rs.finite || cs.any (fun c => !c.finite) then 0xFF00
        else BitVec.ofNat 16 (eb16Up (((e.mul rs.dy.abs).mul maxC).add (halfUlp f (f.decode mo).dy)))
      | none => 0xFF00
    (out, ob')
  ((rows.map fun r => r.1).flatten, rows.map fun r => r.2)

/-- Types of tile records (Table 12.6): element bytes and whether they are raw. -/
def recordBytes (y : Nat) : Nat := match y with | 2 => 8 | 3 => 2 | 4 => 2 | _ => 4

/-- Data bytes of a record, and all of it with its plane. -/
def recordData (y : Nat) : Nat := 4096 * recordBytes y
def recordSize (y : Nat) (bp : Bool) : Nat := recordData y + if bp then 128 else 0

/-- The bytes `mst` stores (R250 to R252). -/
def tileRecord (t : Tile) (ob : Memory) (y : Nat) (bp : Bool) : List Byte :=
  let raw := y = 1 || y = 2
  let f := match y with | 3 => f16 | 4 => bf16 | _ => f32
  let (out, obs) := if raw then ([], (List.range 64).map fun i => look t.bounds i 0) else convertTile t ob f
  let data : List Byte :=
    match y with
    | 1 => (List.range 4096).flatMap fun k => leBytes 4 (look t.elems k 0).toNat
    | 2 => (List.range 4096).flatMap fun k =>
        leBytes 4 (look t.elems k 0).toNat ++ leBytes 4 (if t.type = .wide then (look t.plane k 0).toNat else 0)
    | _ => out.flatMap fun x => leBytes (recordBytes y) x
  data ++ if bp then obs.flatMap fun b => leBytes 2 b.toNat else []

/-- The tile `mld` makes of a record. -/
def loadTile (t : Tile) (y : Nat) (bp : Bool) (bs : List Byte) : Tile :=
  let z := recordBytes y
  let data := bs.take (recordData y)
  let rec words : Nat → List Byte → List Nat
    | 0, _ => []
    | n + 1, l => ofLeBytes (l.take z) :: words n (l.drop z)
  let ws := List.zip (List.range 4096) (words 4096 data)
  let pl := List.zip (List.range 64) ((List.range 64).map fun i => ofLeBytes ((bs.drop (recordData y + 2 * i)).take 2))
  let part (sel : Nat → Word) : Sparse Word := ws.filterMap fun x => if sel x.2 = 0 then none else some (x.1, sel x.2)
  { t with
    type := match y with | 0 => .f32 | 1 => .i32 | _ => .wide,
    elems := part fun x => BitVec.ofNat 32 x,
    plane := if y = 2 then part (fun x => BitVec.ofNat 32 (x / 2 ^ 32)) else [],
    ckBounds := [],
    bounds := if bp then pl.filterMap (fun x => if x.2 = 0 then none else some (x.1, BitVec.ofNat 16 (eb16Norm x.2))) else [],
    chain := none }

end Sys2Proof.Machine
end

