-- ==== Sys2Proof/Machine/Matrix.lean ====
section
/-!
DEFINITION. The matrix engine: `gang` and operand-buffer reservations (12 R233 to R241), delivery and acceptance of joint words (R235
to R237), execution order and dependency slots (R243 to R245), the tile words (R247 to R254), chains and promotion (R257 to R261), and
deferred faults (23 R393).
-/
namespace Sys2Proof.Machine

/-- Words of a group whose role does not permit them are ROLE faults (R27, R28). -/
def roleCheck (s : State) (ok : Role → Bool) (f : State) : Host.Outcome State Fault Refusal :=
  done (if ok s.grp.role then f else raiseHelm s 0x04)

def matrixOnly (r : Role) : Bool := r = .matrix

/-! ### GANG and reservations -/

/-- The conditions of R234. -/
def gangOk (v : Word) (self : Nat) : Bool :=
  let n := bits v.toNat 2 0
  let h := bits v.toNat 5 3
  let m := gangMembers v
  2 ≤ n && n ≤ 6 && (h = 2 || h = 4) && h ≤ n && m.eraseDups.length = n && m.contains self &&
    ((List.range 6).all fun i => i < n || bits v.toNat (9 + 4 * i) (6 + 4 * i) = 0)

/-- `gang` at retirement (R234). -/
def applyGang (s : State) (v : Word) : Applied :=
  if gangOk v s.grp.gidx then .done (s.modGrp fun g => { g with gang := v }) else .stop (raiseAll s 0x16)

/-- Whether the words of an `obres` are accepted (R239). -/
def resvOk (w0 w1 : DWord) (share : Nat) : Bool :=
  let r : Reservation := { w0 := w0, w1 := w1 }
  let len := 128 * bits w0.toNat 23 12
  let unit := if 5 ≤ r.afmt then k16Bytes r.afmt else rawBytes r.afmt
  let scale (v : Nat) : Bool := v = 0x3FFFF || (v % 4 = 0 && v + 256 ≤ share)
  bits w0.toNat 11 11 = 0 && bits w0.toNat 63 48 = 0 && bits w1.toNat 19 18 = 0 && bits w1.toNat 63 38 = 0 &&
    len ≠ 0 && r.rowb ≠ 0 && r.afmt ≤ 7 && r.bfmt ≤ 4 && r.base + len ≤ share && 64 * r.rowb ≤ len && r.rowb % unit = 0 &&
    scale r.rowsc && scale r.colsc

/-- `obres` at retirement (R239). -/
def applyObres (s : State) (n : Nat) (w0 w1 : DWord) : Applied :=
  if !resvOk w0 w1 s.team.obSize || (lockedResv s.team).contains n then .stop (raiseAll s 0x18)
  else .done { s with team := { s.team with resv := put s.team.resv n { w0 := w0, w1 := w1, kpos := 0, held := true } {} } }

/-- `obrel` at retirement (R239). -/
def applyObrel (s : State) (n : Nat) : Applied :=
  if (lockedResv s.team).contains n then .stop (raiseAll s 0x18)
  else .done { s with team := { s.team with resv := change s.team.resv n {} (fun r : Reservation => { r with held := false }) } }

/-- `gang` (R234); the helm finds its fault (R387). -/
def execGang (_k : BitVec 1) (a : BitVec 6) (s : State) : Host.Outcome State Fault Refusal :=
  roleCheck s matrixOnly
    (if regPending s.grp a.toNat then stopHelm s (.operand [a.toNat])
     else
       let v := s.grp.sreg a.toNat
       if !gangOk v s.grp.gidx then raiseHelm s 0x16 else commitOr s (.gang v) (fun s => applyGang s v) advance)

/-- `obres` (R239); the helm finds bad words (R387), the lock is known at retirement. -/
def execObres (_k : BitVec 1) (o : BitVec 4) (a b : BitVec 6) (s : State) : Host.Outcome State Fault Refusal :=
  roleCheck s matrixOnly
    (if [a.toNat, a.toNat + 1, b.toNat, b.toNat + 1].any (regPending s.grp) then stopHelm s (.operand [a.toNat, a.toNat + 1, b.toNat, b.toNat + 1])
     else
       let w0 := s.grp.spair a.toNat
       let w1 := s.grp.spair b.toNat
       if !resvOk w0 w1 s.team.obSize then raiseHelm s 0x18
       else commitOr s (.obres o.toNat w0 w1) (fun s => applyObres s o.toNat w0 w1) advance)

/-- `obrel` (R239). -/
def execObrel (_k : BitVec 1) (o : BitVec 4) (s : State) : Host.Outcome State Fault Refusal :=
  roleCheck s matrixOnly (commitOr s (.obrel o.toNat) (fun s => applyObrel s o.toNat) advance)

/-! ### Acceptance (R235, R237) -/

/-- The class a word's reservation names, if it names one. -/
def wordClass (t : Team) (word : Word) : Option MatClass := resvClass (look t.resv (jointR word) {})

def isMma (word : Word) : Bool := majorOf word = 0x30 || majorOf word = 0x31

/-- Whether a word runs on the compute path; otherwise on the transfer path (R243). -/
def onCompute (word : Word) : Bool := let m := majorOf word; m = 0x30 || m = 0x31 || m = 0x32 || m = 0x36

/-- Words that a new one of a tile would be logged with, itself included (R257); 0 where it is not logged. -/
def chainCount (t : Team) (tile : Nat) (word : Word) : Nat :=
  let x := look t.tiles tile {}
  let step (n : Nat) (m : Nat) : Nat := match m with
    | 0x31 => 1
    | 0x30 => if n = 0 then 0 else n + 1
    | 0x36 => n
    | _ => 0
  let start := match x.chain with
    | some c => c.log.length
    | none => 0
  let pend := ((t.words.filter fun w => jointTile w.word = tile && !w.started).map fun w => majorOf w.word).foldl step start
  step pend (majorOf word)

/-- The vector group that is drain receiver of a quadrant (R253). -/
def receiver (s : State) (uid quad rsel : Nat) : Option Group :=
  (sortBy (fun g : Group => g.gidx) ((s.groupsOf uid).filter fun g => g.role = .vector && g.quad = quad))[rsel]?

/-- Whether an `mdrain` finds its four receivers (R253). -/
def drainOk (s : State) (uid : Nat) (word gang : Word) : Bool :=
  let top := jointVb word + if jointR word % 4 = 0 then 32 else 16
  (List.range 4).all fun q => match receiver s uid q (bits gang.toNat 31 30) with
    | some g => decide (top < g.nregs)
    | none => false

/-- The groups that are the receivers of an `mdrain`, by quadrant. -/
def drainGroups (s : State) (uid : Nat) (gang : Word) : List Nat :=
  (List.range 4).filterMap fun q => (receiver s uid q (bits gang.toNat 31 30)).map fun g => g.gidx

/-- What stands before OPERAND and CHAINLEN in the row of `mma` and `mchain` (Table 23.7), as it is at the word's acceptance: a reservation that is not
held, one of no operation class or with too few elements left, a tile of another type (notes/assumptions/84.md). -/
def earlierCheck (t : Team) (word : Word) : Bool × Bool × Bool :=
  let x := look t.tiles (jointTile word) {}
  let r := look t.resv (jointR word) {}
  (!r.held, match resvClass r with
    | none => (true, false)
    | some c => (decide (r.rowElems < r.kpos + c.k),
                 (x.type = .i32 && c ≠ .int8) || ((x.type = .f32 || x.type = .wide) && c = .int8)))

/-- What a word fails at acceptance: B registers out of range, a 17th logged word, a drain without receivers; of several checks of the row the
first. -/
def acceptFault (s : State) (t : Team) (word gang : Word) : Option Byte :=
  if isMma word then
    let vb := jointVb word
    let holders := bits gang.toNat 5 3
    let regs := match wordClass t word with
      | some c => (gangHolders gang).all fun h => match (s.groupsOf t.uid).find? (fun g => g.gidx = h) with
        | some g => decide (vb + bCount c holders ≤ 64) && decide (vb + bCount c holders ≤ g.nregs)
        | none => true
      | none => true
    let long := decide (16 < chainCount t (jointTile word) word)
    let (unheld, short, typed) := earlierCheck t word
    if regs && !long then none
    else if unheld then some 0x18
    else if !regs || short then some 0x19
    else if typed then some 0x1A
    else some 0x1C
  else if majorOf word = 0x35 && !drainOk s t.uid word gang then some 0x1E
  else none

/-- The loads of the operand buffer by a word, placed in G at its acceptance as lane-order loads of member 0 (R246): the share as they find it,
engine writes that nothing puts before them seen or not (R118, R373). -/
def operandLoads (s : State) (t : Team) (word gang : Word) : State × Memory :=
  let r := look t.resv (jointR word) {}
  let span (o n : Nat) : List Nat := (List.range ((o % 128 + n + 127) / 128)).map fun k => o / 128 + k
  let sc (v : Nat) : List Nat := if v = 0x3FFFF then [] else span v 256
  let s := (span r.base (128 * bits r.w0.toNat 23 12) ++ sc r.rowsc ++ sc r.colsc).foldl
    (fun s b => blockLoad s t.core (some t.uid) (4096 + b)) s
  let s := seePast s (2 * t.uid + 2) 0 t.obSize t.uid ((gangMembers gang).headD 0) 0 none
  (s, (s.past.filter fun w => w.space = 2 * t.uid + 2).foldr (fun w m => memWrite m w.addr w.old.length (ofLeBytes w.old)) t.ob)

/-- A latch accepts its pending word (R235, R244). -/
def acceptWord (s : State) (uid tile : Nat) : State :=
  match s.teamOf uid with
  | none => s
  | some t =>
    let x := look t.tiles tile {}
    match x.latch with
    | none => s
    | some l =>
      let o := nextOrder s t.core
      let s := s.modTeam uid fun t =>
        { t with tiles := change t.tiles tile {} (fun x => { x with latch := none }), matOrder := o + 1 }
      let clears := majorOf l.word = 0x32 || majorOf l.word = 0x33
      let cleared := t.words.any fun w => jointTile w.word = tile && (majorOf w.word = 0x32 || majorOf w.word = 0x33)
      if !x.faulted.isEmpty && !clears && !cleared then s
      else match acceptFault s t l.word l.gang with
        | some cls => deferFault s uid tile o l.word cls 0 0 (mask16 (gangMembers l.gang))
        | none =>
          let waits := (t.words.filter fun w => (jointWait l.word).testBit (jointSet w.word)).map fun w => w.order
          let (s, ob) := if isMma l.word then operandLoads s t l.word l.gang else (s, [])
          s.modTeam uid fun t =>
            { t with words := t.words ++ [{ order := o, word := l.word, gang := l.gang, val := l.val, waits := waits, ob := ob,
                                            receivers := if majorOf l.word = 0x35 then drainGroups s uid l.gang else [] }],
                     slots := change t.slots (jointSet l.word) 0 (· + 1) }

/-- The report of a deferred fault (R393): the reporting word raises it with DEFER = 1. -/
def reportDeferred (s : State) (d : Deferred) : State :=
  let bit : Half := BitVec.ofNat 16 (2 ^ s.grp.gidx)
  let rest := (s.team.deferred.map fun x => if x = d then { x with members := x.members &&& ~~~bit } else x).filter
    fun x => x.members ≠ 0
  raise { s with team := { s.team with deferred := rest } }
    { cur := s.cur, lanes := s.cur.mask, cls := d.cls, faddr := d.faddr, fcode := d.fcode, defer := true,
      tile := BitVec.ofNat 3 d.tile, fword := d.word }

/-- Deferred faults the executing group has still to report, oldest accepted first. -/
def ownDeferred (s : State) (p : Deferred → Bool) : Option Deferred :=
  (sortBy (fun d : Deferred => d.order) (s.team.deferred.filter fun d => d.members.getLsbD s.grp.gidx && p d)).head?

/-- The delivery of a joint word (R235); that of member 0's `mma` or `mchain` follows its older accesses (R246). -/
def deliver (s : State) (word : Word) (val : DWord) : Applied :=
  let tile := jointTile word
  let uid := s.team.uid
  let self := s.grp.gidx
  let gang := s.grp.gang
  let bit : Half := BitVec.ofNat 16 (2 ^ self)
  let x := look s.team.tiles tile {}
  let own := match x.latch with | some l => l.arrived.getLsbD self | none => false
  if own || (isMma word && (gangMembers gang).head? = some self && s.grp.olderAccess s.cur.seq) then .wait s
  else match ownDeferred s (fun d => d.tile = tile) with
    | some d => .stop (reportDeferred s d)
    | none =>
      let fits := (gangMembers gang).contains self && (match x.latch with
        | some l => l.word = word && l.gang = gang
        | none => true)
      if !fits then .stop (raiseAll s 0x17)
      else
        let l := x.latch.getD { word := word, gang := gang, arrived := 0 }
        let first := (gangMembers gang).head? = some self
        let l := { l with arrived := l.arrived ||| bit, val := if first then val else l.val }
        let s := { s with team := { s.team with tiles := change s.team.tiles tile {} (fun x => { x with latch := some l }) } }
        let live := liveMatrix s uid
        let members := gangMembers gang
        if members.all fun m => live.contains m then
          .done (if members.all (fun m => l.arrived.getLsbD m) then acceptWord s uid tile else s)
        else .done (checkLatch s uid tile)

/-- A joint word at the helm (R235, R236): it takes a commit-buffer entry with the registers it names. -/
def jointWord (i : Instr) (regs : List Nat) (val : State → DWord) (s : State) : Host.Outcome State Fault Refusal :=
  let word := (encode i).getD s.cur.word
  roleCheck s matrixOnly
    (if regs.any (regPending s.grp) then stopHelm s (.operand regs)
     else
       let v := val s
       commitOr s (.joint word v) (fun s => deliver s word v) advance)

/-- `mma` (R247). -/
def execMma (k : BitVec 1) (t : BitVec 3) (r : BitVec 4) (v : BitVec 6) (w : BitVec 8) (z : BitVec 3) (s : State) :
    Host.Outcome State Fault Refusal := jointWord (.mma k t r v w z) [] (fun _ => 0) s

/-- `mchain` (R247). -/
def execMchain (k : BitVec 1) (t : BitVec 3) (r : BitVec 4) (v : BitVec 6) (w : BitVec 8) (z : BitVec 3) (s : State) :
    Host.Outcome State Fault Refusal := jointWord (.mchain k t r v w z) [] (fun _ => 0) s

/-- `mclr` (R248). -/
def execMclr (k : BitVec 1) (t : BitVec 3) (w : BitVec 8) (z : BitVec 3) (s : State) : Host.Outcome State Fault Refusal :=
  jointWord (.mclr k t w z) [] (fun _ => 0) s

/-- `mld` (R250). -/
def execMld (k : BitVec 1) (t : BitVec 3) (p : BitVec 1) (y : BitVec 3) (v : BitVec 6) (w : BitVec 8) (z : BitVec 3) (s : State) :
    Host.Outcome State Fault Refusal := jointWord (.mld k t p y v w z) (pair v.toNat) (fun s => s.grp.spair v.toNat) s

/-- `mst` (R250). -/
def execMst (k : BitVec 1) (t : BitVec 3) (p : BitVec 1) (y : BitVec 3) (v : BitVec 6) (w : BitVec 8) (z : BitVec 3) (s : State) :
    Host.Outcome State Fault Refusal := jointWord (.mst k t p y v w z) (pair v.toNat) (fun s => s.grp.spair v.toNat) s

/-- `mdrain` (R253). -/
def execMdrain (k : BitVec 1) (t : BitVec 3) (y : BitVec 2) (v : BitVec 6) (w : BitVec 8) (z : BitVec 3) (s : State) :
    Host.Outcome State Fault Refusal := jointWord (.mdrain k t y v w z) [] (fun _ => 0) s

/-- `mbound` (R249). -/
def execMbound (k : BitVec 1) (t : BitVec 3) (v : BitVec 6) (w : BitVec 8) (z : BitVec 3) (s : State) :
    Host.Outcome State Fault Refusal := jointWord (.mbound k t v w z) [v.toNat] (fun s => (s.grp.sreg v.toNat).setWidth 64) s

/-- Whether a joint word of the executing group, older than its `mwait`, that sets a slot of the mask has not completed (R244). -/
def jointPending (s : State) (m : BitVec 8) : Bool :=
  let self := s.grp.gidx
  let hit (w : Word) : Bool := m.getLsbD (jointSet w)
  s.grp.commit.any (fun e => match e.effect with | .joint w _ => hit w | _ => false) ||
    (List.range 8).any (fun k => match (look s.team.tiles k {}).latch with
      | some l => l.arrived.getLsbD self && hit l.word
      | none => false) ||
    s.team.words.any (fun w => (gangMembers w.gang).contains self && hit w.word)

/-- `mwait` (R244); it reports the oldest deferred fault of a slot in its mask (R393). -/
def execMwait (_k : BitVec 1) (m : BitVec 8) (s : State) : Host.Outcome State Fault Refusal :=
  roleCheck s matrixOnly
    (if jointPending s m then stopHelm s (.mwait m)
     else match ownDeferred s (fun d => m.getLsbD d.slot.toNat) with
       | none => advance s
       | some d => if olderOutstanding s.grp s.cur.seq then s.tick 1 else (reportDeferred s d).tick 1)

/-! ### Start (R243, R247 to R253) -/

/-- The accepted words of every team of a core, oldest first. -/
def coreWords (s : State) (core : Nat) : List MatWord :=
  sortBy (fun w : MatWord => w.order) ((s.allTeams.filter fun t => t.core = core).flatMap fun t => t.words)

/-- The oldest word of a tile. -/
def headWord (t : Team) (tile : Nat) : Option MatWord := t.words.find? fun w => jointTile w.word = tile

/-- Whether a word may start (R243): it is the oldest of its tile and of its path, the path is idle, what it waits for has completed. -/
def canStart (s : State) (t : Team) (w : MatWord) : Bool :=
  !w.started && ((coreWords s t.core).find? fun x => onCompute x.word = onCompute w.word) = some w &&
    w.waits.all (fun o => !t.words.any fun x => x.order = o) && (w.waitVa.isNone || w.retry)

/-- The word leaves the engine and its slot (R244). -/
def wordDone (s : State) (uid order : Nat) : State :=
  s.modTeam uid fun t =>
    match t.words.find? (fun w => w.order = order) with
    | none => t
    | some w => { t with words := t.words.filter (fun w => w.order ≠ order), slots := change t.slots (jointSet w.word) 0 (· - 1) }

/-- A fault at start: deferred, and the word completes without effect (R393). -/
def startFault (s : State) (uid : Nat) (w : MatWord) (cls : Byte) (faddr : DWord := 0) (fcode : Word := 0) : State :=
  wordDone (deferFault s uid (jointTile w.word) w.order w.word cls faddr fcode (mask16 (gangMembers w.gang))) uid w.order

/-- The word has started; it ends after a number of clocks. -/
def started (s : State) (uid : Nat) (w : MatWord) (clocks : Nat) : State :=
  s.modTeam uid fun t =>
    { t with words := t.words.map (fun x => if x.order = w.order then { x with started := true, ends := s.clock + clocks } else x),
             units := t.units + clocks }

def modTile (s : State) (uid tile : Nat) (f : Tile → Tile) : State :=
  s.modTeam uid fun t => { t with tiles := change t.tiles tile {} f }

/-- The holders' registers as they stand now (R242), as `LogWord.b` lists them: `n` of them from `vb` on. -/
def bNow (s : State) (uid : Nat) (gang : Word) (vb n : Nat) : Sparse Word :=
  (gangHolders gang).zipIdx.flatMap fun h =>
    let g := ((s.groupsOf uid).find? fun g => g.gidx = h.1).map fun g => g.landTo s.clock
    let reg (k l : Nat) : Word := match g with
      | some g => g.vreg (vb + k) l
      | none => BitVec.ofNat 32 (ofLeBytes ((List.range 4).map fun i => Config.freeByte (s.free + 4 * (32 * k + l) + i)))
    (List.range n).flatMap fun k => (List.range 32).filterMap fun l =>
      let x := reg k l
      if x = 0 then none else some (32 * (64 * h.2 + k) + l, x)

/-- One step on a tile by a word with its operands (R247). -/
def stepTile (x : Tile) (r : Reservation) (c : MatClass) (w : LogWord) : Tile :=
  mmaStep x c (fun i => (List.range c.k).map fun e => aElem w.ob r i (w.kpos + e))
    (fun j => (List.range c.k).map fun k =>
      bElem r.bfmt c.k (max 1 (gangHolders w.gang).length) (fun h n l => look w.b (32 * (64 * h + n) + l) 0) k j)

/-- The start of `mma` and `mchain` (R247, R257). -/
def startMma (s : State) (uid : Nat) (t : Team) (w : MatWord) : State :=
  let tile := jointTile w.word
  let x := look t.tiles tile {}
  let r := look t.resv (jointR w.word) {}
  if !r.held then startFault s uid w 0x18
  else match resvClass r with
    | none => startFault s uid w 0x19
    | some c =>
      if r.rowElems < r.kpos + c.k then startFault s uid w 0x19
      else if (x.type = .i32 && c ≠ .int8) || ((x.type = .f32 || x.type = .wide) && c = .int8) then startFault s uid w 0x1A
      else
        let chain := majorOf w.word = 0x31
        let keep := c ≠ .int8 && (x.type = .zero || x.type = .f32)
        let x1 : Tile := if chain then
            { x with chain := some { log := [], checkpoint := keep }, plane := if keep then x.elems else x.plane,
                     ckBounds := if keep then x.bounds else x.ckBounds }
          else x
        let lw : LogWord := { word := w.word, gang := w.gang, kpos := r.kpos, ob := w.ob,
                              b := bNow s uid w.gang (jointVb w.word) (bCount c (bits w.gang.toNat 5 3)), scale := x.scale }
        let y := stepTile x1 r c lw
        let y := { y with
          scale := some (r.rowsc, r.colsc),
          chain := y.chain.map fun ch => { ch with log := ch.log ++ [lw] } }
        let s := s.modTeam uid fun t => { t with resv := put t.resv (jointR w.word) { r with kpos := r.kpos + c.k } {} }
        started { (modTile s uid tile fun _ => y) with free := s.free + 1 } uid w (if x.type = .wide then 128 else 64)

/-- Who `mld` and `mst` act for (R246). -/
def matAgent (t : Team) (w : MatWord) : Agent :=
  let m := (gangMembers w.gang).headD 0
  { unit := .core t.core, core := some t.core, src := t.core, asid := t.asid, priv := t.priv, launch := t.seqNo, uid := t.uid, gidx := m,
    name := nameOf t.tidx t.launchId m, path := 2, tag := w.word }

/-- What stops an `mld` or `mst`: a deferred fault, a page that is waited for (R404), the loss of the context (R414). -/
def matStop (s : State) (uid : Nat) (t : Team) (w : MatWord) (x : EngStop) : State :=
  match x with
  | .fail cls code va _ => startFault s uid w cls va code
  | .pend va level =>
    let s := if w.waitVa.map (·.toNat / 65536) = some (va.toNat / 65536) then s else engPage s (matAgent t w) va level
    s.modTeam uid fun t =>
      { t with words := t.words.map fun y => if y.order = w.order then { y with waitVa := some va, retry := false } else y }
  | .lost va _ => match (checkAccess s (.core t.core) t.asid t.priv t.seqNo va 1 .read).2 with
    | .ok (.device pa) _ _ => lostReset s t.asid pa
    | _ => s
  | .home va d => homeWait s (matAgent t w) va d

/-- Clocks of a transfer of a record type after its memory time (Table 12.5). -/
def transferClocks (y : Nat) : Nat := match y with | 2 => 64 | 3 => 16 | 4 => 16 | _ => 32

/-- The start of `mld` (R250). -/
def startMld (s : State) (uid : Nat) (t : Team) (w : MatWord) : State :=
  let y := jointR w.word % 8
  let bp := (jointR w.word).testBit 3
  if !canonical w.val then startFault s uid w clsCanon w.val
  else if w.val.toNat % 128 ≠ 0 then startFault s uid w clsAlign w.val
  else
    let (s, cs, stop) := engMap s (matAgent t w) w.val (recordSize y bp) .read anyTarget
    match stop with
    | some x => matStop s uid t w x
    | none =>
      let (s, bs) := readChunks s (matAgent t w) cs
      started (modTile s uid (jointTile w.word) fun x => { loadTile x y bp bs with faulted := x.faulted.filter (w.order < ·) })
        uid w (transferClocks y)

/-- The start of `mst` (R250); one that meets bytes locked by other tiles' chains waits (R258). -/
def startMst (s : State) (uid : Nat) (t : Team) (w : MatWord) : State :=
  let y := jointR w.word % 8
  let bp := (jointR w.word).testBit 3
  let x := look t.tiles (jointTile w.word) {}
  if !canonical w.val then startFault s uid w clsCanon w.val
  else if w.val.toNat % 128 ≠ 0 then startFault s uid w clsAlign w.val
  else
    let (s, cs, stop) := engMap s (matAgent t w) w.val (recordSize y bp) .write anyTarget
    match stop with
    | some x => matStop s uid t w x
    | none =>
      if (y = 1 && x.type ≠ .i32) || (y = 2 && x.type = .i32) then startFault s uid w 0x1A
      else if cs.any (lockedChunk (modTile s uid (jointTile w.word) fun x => { x with chain := none })) then s
      else
        let s := writeChunks { s with engWts := 0 } (matAgent t w) cs (tileRecord x t.ob y bp)
        let s := s.modTeam uid fun t => { t with seenWts := change t.seenWts 2 0 (max s.engWts) }
        started (modTile s uid (jointTile w.word) fun x => { x with chain := none }) uid w (transferClocks y)

/-- The writes of a drain into one receiver (R253): row u and its bound. -/
def drainWrites (q : Nat) (y vb : Nat) (out : List Nat) (obs : List Half) : List PendWrite :=
  let at_ (u j : Nat) : Nat := out.getD (64 * (16 * q + u) + j) 0
  let reg (n : Nat) (f : Nat → Nat) : PendWrite :=
    { seq := 0, due := none, space := .v, cells := (List.range 32).map fun l => (32 * n + l, BitVec.ofNat 32 (f l)) }
  let rows := (List.range 16).flatMap fun u =>
    if y = 0 then [reg (vb + 2 * u) (fun l => at_ u l), reg (vb + 2 * u + 1) (fun l => at_ u (l + 32))]
    else [reg (vb + u) fun l => at_ u l + 65536 * at_ u (l + 32)]
  rows ++ [reg (vb + if y = 0 then 32 else 16) fun l => if l < 16 then (obs.getD (16 * q + l) 0).toNat else 0]

/-- The start of `mdrain` (R253). -/
def startMdrain (s : State) (uid : Nat) (t : Team) (w : MatWord) : State :=
  let y := jointR w.word % 4
  if !drainOk s uid w.word w.gang || drainGroups s uid w.gang ≠ w.receivers then startFault s uid w 0x1E
  else
    let f := match y with | 1 => f16 | 2 => bf16 | _ => f32
    let (out, obs) := convertTile (look t.tiles (jointTile w.word) {}) t.ob f
    let s := (List.range 4).foldl (fun s q =>
      match receiver s uid q (bits w.gang.toNat 31 30) with
      | none => s
      | some g =>
        let go (g : Group) : Group := (drainWrites q y (jointVb w.word) out obs).foldl Group.addPend g
        s.modGroup uid g.gidx go) s
    started (modTile s uid (jointTile w.word) fun x => { x with chain := none }) uid w (if y = 0 then 32 else 16)

/-- The start of `mbound` (R249). -/
def startMbound (s : State) (uid : Nat) (w : MatWord) : State :=
  let v : Word := w.val.setWidth 32
  if v.getLsbD 31 || infCode < v.toNat then startFault s uid w 0x1B
  else started (modTile s uid (jointTile w.word) fun x => { x with threshold := v }) uid w 4

/-- The start of `mclr` (R248). -/
def startMclr (s : State) (uid : Nat) (w : MatWord) : State :=
  started (modTile s uid (jointTile w.word) fun x =>
    { x with type := .zero, elems := [], plane := [], bounds := [], ckBounds := [], chain := none,
             faulted := x.faulted.filter (w.order < ·) }) uid w 4

/-- Clocks until an `mchain` may start on a die under STAGGER (R345). -/
def staggerWait (clock die : Nat) : Nat := (8 * die + 64 - clock % 64) % 64

/-- Clocks until a word may start. -/
def startWait (s : State) (w : MatWord) : Nat :=
  if majorOf w.word = 0x31 && s.hub.limctl.getLsbD 0 && s.clock / 8 % 8 ≠ dieOf s.team.core then staggerWait s.clock (dieOf s.team.core) else 0

/-- MATRIX_WORD_START (R243): the oldest word of a tile starts. -/
def startWord (s : State) (tile : Nat) : State :=
  let uid := s.team.uid
  match headWord s.team tile with
  | none => s
  | some w =>
    if !canStart s s.team w then s
    else
      let m := majorOf w.word
      let late := startWait s w
      let s := if late = 0 then s else s.tick late
      let t := s.team
      let x := look t.tiles tile {}
      if m ≠ 0x32 && m ≠ 0x33 && x.faulted.any (· < w.order) then wordDone s uid w.order
      else match m with
        | 0x30 => startMma s uid t w
        | 0x31 => startMma s uid t w
        | 0x32 => startMclr s uid w
        | 0x33 => startMld s uid t w
        | 0x34 => startMst s uid t w
        | 0x35 => startMdrain s uid t w
        | _ => startMbound s uid w

/-! ### Completion and promotion -/

/-- The word a tile is executing, with what a test of it picks. -/
def runningWord (t : Team) (tile : Nat) (p : MatWord → Bool) : Option MatWord :=
  t.words.find? fun w => jointTile w.word = tile && w.started && p w

/-- MATRIX_WORD_COMPLETE (R245): the clock runs to the word's end. A logged word of a checkpointed chain whose bounds exceed the
threshold starts the promotion replay (R259); a drain's writes have all landed (R254). -/
def completeWord (s : State) (tile : Nat) : State :=
  let uid := s.team.uid
  match runningWord s.team tile (fun w => !w.replay) with
  | none => s
  | some w =>
    let s := if s.clock < w.ends then s.tick (w.ends - s.clock) else s
    let x := look s.team.tiles tile {}
    let logged := match x.chain with
      | some c => if c.checkpoint then c.log.length else 0
      | none => 0
    if isMma w.word && logged ≠ 0 && promotes x then
      s.modTeam uid fun t => { t with
        words := t.words.map fun y => if y.order = w.order then { y with replay := true, ends := s.clock + 8 + 128 * logged } else y,
        units := t.units + 8 + 128 * logged }
    else
      let mine (p : PendWrite) : Bool := p.seq = 0 && p.due.isNone
      let land (g : Group) : Group := { ((g.pend.filter mine).foldl Group.land g) with pend := g.pend.filter (fun p => !mine p) }
      let s := if majorOf w.word = 0x35 then s.modGroups uid land else s
      let s := if majorOf w.word = 0x33 || majorOf w.word = 0x34 then
          { s with hostPending := s.hostPending.map fun h : HostWrite => if h.uid = uid && h.path = 2 then { h with popped := true } else h }
        else s
      wordDone s uid w.order

/-- A tile replayed in wide mode (R259): every logged word again from the checkpoint. -/
def replayTile (t : Team) (x : Tile) (log : List LogWord) : Tile :=
  log.foldl (fun y l =>
    let r := look t.resv (jointR l.word) {}
    match resvClass r with
    | some c => stepTile y r c l
    | none => y) (widen x)

/-- PROMOTION_REPLAY_END (R259): the tile stands wide, the team's promotion registers count, and the word completes. -/
def endReplay (s : State) (tile : Nat) : State :=
  let uid := s.team.uid
  match runningWord s.team tile (fun w => w.replay) with
  | none => s
  | some w =>
    let s := if s.clock < w.ends then s.tick (w.ends - s.clock) else s
    let x := look s.team.tiles tile {}
    let log := match x.chain with
      | some c => c.log
      | none => []
    let y := replayTile s.team x log
    let s := modTile s uid tile fun _ => { y with chain := some { log := log, checkpoint := false } }
    let resv := log.foldl (fun m l => match resvClass (look m (jointR l.word) {}) with
      | some c => change m (jointR l.word) {} (fun r : Reservation => { r with kpos := l.kpos + c.k })
      | none => m) s.team.resv
    let s := { s with team := { s.team with resv := resv } }
    let s := { s with team := { s.team with
      promStat := s.team.promStat ||| BitVec.ofNat 8 (2 ^ tile), promCnt := s.team.promCnt + 1,
      promClk := s.team.promClk + BitVec.ofNat 64 (8 + 128 * log.length) } }
    wordDone s uid w.order

/-- R393: a promotion that cannot be completed leaves the checkpoint with every bound unbounded; the word that set it off, the last of the log, has no
effect: KPOS and the scale record stand as before it. -/
def failReplay (s : State) (uid tile : Nat) (w : MatWord) : State :=
  let last : Option LogWord := (s.teamOf uid).bind fun t : Team => (look t.tiles tile {}).chain.bind fun c : Chain => c.log.getLast?
  let s := modTile s uid tile fun x =>
    { x with type := .f32, elems := x.plane, plane := [], ckBounds := [], chain := none, bounds := (List.range 64).map (fun i => (i, 0xFF00)),
             scale := match last with | some l => l.scale | none => x.scale }
  let s := match last with
    | some l => s.modTeam uid fun t => { t with resv := change t.resv (jointR l.word) {} fun r : Reservation => { r with kpos := l.kpos } }
    | none => s
  startFault s uid w 0x1F 0 (reason 1 0 0)

/-- MATRIX_WORD_START (R243). -/
def execMatrixWordStart (tile : BitVec 3) (s : State) : Host.Outcome State Fault Refusal := done (settleTeam (startWord s tile.toNat))

/-- MATRIX_WORD_COMPLETE (R245). -/
def execMatrixWordComplete (tile : BitVec 3) (s : State) : Host.Outcome State Fault Refusal := done (settleTeam (completeWord s tile.toNat))

/-- PROMOTION_REPLAY_END (R259). -/
def execPromotionReplayEnd (tile : BitVec 3) (s : State) : Host.Outcome State Fault Refusal := done (settleTeam (endReplay s tile.toNat))

end Sys2Proof.Machine
end

