-- ==== Sys2Proof/Machine/Command.lean ====
section
/-!
DEFINITION. What every coprocessor command shares: its issue by the helm (13 R262), the operand checks at delivery (13 Tables 13.5 to
13.15, 14 Tables 14.8 and 14.10, 15 Table 15.6, 23 R396), its engine instance and queue (R265), its tag (R263), the read of its
descriptor (R264), and its record (R266, R267, 25 R435).
-/
namespace Sys2Proof.Machine

/-! ### Operand checks -/

/-- A descriptor address that is not canonical or not a multiple of `n` (R264). -/
def descBad (va : DWord) (n : Nat) : Bool := !canonical va || va.toNat % n ≠ 0

/-- The first check a list of (failed, FCODE) fails. -/
def firstBad (l : List (Bool × Nat)) : Option Nat := (l.find? (fun x => x.1)).map fun x => x.2

/-- `cop.sys` operands (Table 13.13, R284). -/
def sysOperands (fn : Nat) (a b : Nat) : Option Nat :=
  match fn with
  | 0x00 => firstBad [(a % 65536 ≠ 0, 0), (bits b 13 12 = 3 || bits b 31 14 ≠ 0 || (bits b 13 12 ≠ 0 && bits b 63 32 ≠ 0), 1)]
  | 0x01 => firstBad [(bits a 63 13 ≠ 0, 0), (b ≠ 0, 1)]
  | 0x02 => firstBad [(bits a 7 7 ≠ 0 || bits a 63 20 ≠ 0, 0), (b ≠ 0, 1)]
  | 0x03 =>
    let n := bits b 27 16
    firstBad [(a % 32 ≠ 0, 0), (bits b 1 0 = 3 || bits b 15 2 ≠ 0 || n = 0 || 256 < n || bits b 31 28 ≠ 0 || bits b 63 44 ≠ 0, 1)]
  | 0x04 => firstBad [(bits a 15 4 ≠ 0, 0), (Config.numCores ≤ bits b 9 0 || bits b 63 10 ≠ 0, 1)]
  | 0x05 =>
    firstBad [(bits a 15 4 ≠ 0, 0), ((Config.numCores ≤ bits b 9 0 && bits b 9 0 ≠ 0x3FF) || bits b 63 10 ≠ 0, 1)]
  | 0x06 =>
    let k := bits a 1 0
    firstBad [(2 ≤ k || bits a 63 14 ≠ 0 || (k = 0 && bits a 13 2 ≠ 0), 0),
      (if k = 0 then b = 0 || 2400000 < b else b ≠ 0, 1)]
  | 0x07 =>
    let k := bits b 4 0
    firstBad [(a % 4096 ≠ 0, 0), (k < 8 || 24 < k || bits b 7 7 ≠ 0 || bits b 31 8 = 0 || bits b 63 32 ≠ 0, 1)]
  | 0x08 => firstBad [(a % 4096 ≠ 0, 0), (Config.numCores ≤ bits b 9 0 || bits b 63 14 ≠ 0, 1)]
  | 0x09 =>
    let p := bits a 4 0
    let op := bits a 7 5
    firstBad [(bits a 63 8 ≠ 0 || 4 ≤ op || (24 ≤ p && p ≠ 31) || (p = 31 && op ≠ 3), 0),
      ((match op with
        | 0 => bits b 63 4 ≠ 0
        | 1 => bits b 63 4 ≠ 0
        | 2 => b = 0 || 4096 < b
        | _ => b ≠ 0), 1)]
  | _ => firstBad [(bits b 63 8 ≠ 0, 1), (descBad (BitVec.ofNat 64 a) 128, 2)]

/-- `cop.lod` operands (Table 15.6, R326). -/
def lodOperands (fn : Nat) (a b : Nat) : Option Nat :=
  let lo := b % 2 ^ 32
  match fn with
  | 0 => firstBad [(64 ≤ lo, 1), (a ≠ 0 && descBad (BitVec.ofNat 64 a) 32, 2)]
  | 1 => firstBad [(bits a 7 6 ≠ 0 || bits a 63 52 ≠ 0, 0), (lo ≠ 0, 1)]
  | 2 => firstBad [(bits a 11 6 ≠ 0 || bits a 63 52 ≠ 0, 0), (lo ≠ 0, 1)]
  | 3 => firstBad [(a % 16 ≠ 0, 0), (lo = 0 || 4096 < lo, 1)]
  | _ => firstBad [(a ≠ 0, 0), (3 ≤ lo, 1)]

/-- The FCODE of the COMMAND fault a command's operands raise, if they do (Table 23.3); the ray state apart. -/
def operandFault (major fn : Nat) (opa opb : DWord) : Option Nat :=
  let a := opa.toNat
  let b := opb.toNat
  match major with
  | 0x3A =>
    match fn with
    | 3 => firstBad [(2 ^ 32 ≤ a, 0), (bits b 13 13 ≠ 0 || bits b 15 14 = 3 || bits b 63 16 ≠ 0, 1)]
    | 4 => firstBad [(descBad opa 64, 0), (2 ^ 16 ≤ b, 1)]
    | _ => firstBad [(2 ^ 30 ≤ b, 1), (descBad opa 32, 2)]
  | 0x3B =>
    if 5 ≤ fn then firstBad [(descBad opa 64, 0), (2 ^ 32 ≤ b, 1)] else firstBad [(2 ^ 32 ≤ b, 1), (descBad opa 32, 2)]
  | 0x3D => firstBad [(descBad opa 32, 2), (descBad opb 32, 2)]
  | 0x3E => lodOperands fn a b
  | 0x3F => sysOperands fn a b
  | _ => firstBad [(descBad opa 32, 2)]

/-! ### Issue -/

def copyRoles (r : Role) : Bool := r = .copy || r = .general
def generalOnly (r : Role) : Bool := r = .general

/-- A coprocessor word at the helm (R262): role and privilege, its operands, whose faults the helm finds (R387), a commit-buffer entry. -/
def copWord (major fn : Nat) (d : BitVec 6) (a b : BitVec 5) (r : BitVec 1) (s : State) : Host.Outcome State Fault Refusal :=
  let ok := if major ≤ 0x39 then copyRoles s.grp.role else generalOnly s.grp.role
  let x := 2 * a.toNat
  let y := 2 * b.toNat
  done
    (if !ok then raiseHelm s 0x04
     else if major = 0x3F && !s.team.priv then raiseHelm s 0x05
     else if (pair x ++ pair y).any (regPending s.grp) then stopHelm s (.operand (pair x ++ pair y))
     else if 24 ≤ s.grp.commit.length then s.tick 1
     else match operandFault major fn (s.grp.spair x) (s.grp.spair y) with
     | some code => raiseHelm s 0x20 0 (BitVec.ofNat 32 code)
     | none =>
       let e : CommitEffect := .command major fn (s.grp.spair x) (s.grp.spair y) (if r = 1 then d.toNat else 64) (r = 1)
       advance (s.modGrp fun g => { g with commit := g.commit ++ [{ cur := s.cur, effect := e }] }))

/-- `cop.copy.g2s` (R270). -/
def execCopyG2s (_k : BitVec 1) (d : BitVec 6) (a b : BitVec 5) (r : BitVec 1) (s : State) : Host.Outcome State Fault Refusal :=
  copWord 0x38 0x00 d a b r s
/-- `cop.copy.s2g` (R270). -/
def execCopyS2g (_k : BitVec 1) (d : BitVec 6) (a b : BitVec 5) (r : BitVec 1) (s : State) : Host.Outcome State Fault Refusal :=
  copWord 0x38 0x01 d a b r s
/-- `cop.copy.g2ob` (R270). -/
def execCopyG2ob (_k : BitVec 1) (d : BitVec 6) (a b : BitVec 5) (r : BitVec 1) (s : State) : Host.Outcome State Fault Refusal :=
  copWord 0x38 0x02 d a b r s
/-- `cop.copy.s2ob` (R270). -/
def execCopyS2ob (_k : BitVec 1) (d : BitVec 6) (a b : BitVec 5) (r : BitVec 1) (s : State) : Host.Outcome State Fault Refusal :=
  copWord 0x38 0x03 d a b r s
/-- `cop.copy.g2st` (R270). -/
def execCopyG2st (_k : BitVec 1) (d : BitVec 6) (a b : BitVec 5) (r : BitVec 1) (s : State) : Host.Outcome State Fault Refusal :=
  copWord 0x38 0x04 d a b r s
/-- `cop.copy.s2gt` (R270). -/
def execCopyS2gt (_k : BitVec 1) (d : BitVec 6) (a b : BitVec 5) (r : BitVec 1) (s : State) : Host.Outcome State Fault Refusal :=
  copWord 0x38 0x05 d a b r s
/-- `cop.copy.g2obt` (R270). -/
def execCopyG2obt (_k : BitVec 1) (d : BitVec 6) (a b : BitVec 5) (r : BitVec 1) (s : State) : Host.Outcome State Fault Refusal :=
  copWord 0x38 0x06 d a b r s
/-- `cop.copy.k16` (R270). -/
def execCopyK16 (_k : BitVec 1) (d : BitVec 6) (a b : BitVec 5) (r : BitVec 1) (s : State) : Host.Outcome State Fault Refusal :=
  copWord 0x38 0x07 d a b r s
/-- `cop.copy.g2g` (R270). -/
def execCopyG2g (_k : BitVec 1) (d : BitVec 6) (a b : BitVec 5) (r : BitVec 1) (s : State) : Host.Outcome State Fault Refusal :=
  copWord 0x38 0x08 d a b r s
/-- `cop.gath.b32` (R271). -/
def execGathB32 (_k : BitVec 1) (d : BitVec 6) (a b : BitVec 5) (r : BitVec 1) (s : State) : Host.Outcome State Fault Refusal :=
  copWord 0x39 0x00 d a b r s
/-- `cop.gath.b64` (R271). -/
def execGathB64 (_k : BitVec 1) (d : BitVec 6) (a b : BitVec 5) (r : BitVec 1) (s : State) : Host.Outcome State Fault Refusal :=
  copWord 0x39 0x01 d a b r s
/-- `cop.gath.b128` (R271). -/
def execGathB128 (_k : BitVec 1) (d : BitVec 6) (a b : BitVec 5) (r : BitVec 1) (s : State) : Host.Outcome State Fault Refusal :=
  copWord 0x39 0x02 d a b r s
/-- `cop.trav.cast` (R306). -/
def execTravCast (_k : BitVec 1) (d : BitVec 6) (a b : BitVec 5) (r : BitVec 1) (s : State) : Host.Outcome State Fault Refusal :=
  copWord 0x3A 0x00 d a b r s
/-- `cop.trav.occl` (R306). -/
def execTravOccl (_k : BitVec 1) (d : BitVec 6) (a b : BitVec 5) (r : BitVec 1) (s : State) : Host.Outcome State Fault Refusal :=
  copWord 0x3A 0x01 d a b r s
/-- `cop.trav.shadow` (R309). -/
def execTravShadow (_k : BitVec 1) (d : BitVec 6) (a b : BitVec 5) (r : BitVec 1) (s : State) : Host.Outcome State Fault Refusal :=
  copWord 0x3A 0x02 d a b r s
/-- `cop.trav.resume` (R308). -/
def execTravResume (_k : BitVec 1) (d : BitVec 6) (a b : BitVec 5) (r : BitVec 1) (s : State) : Host.Outcome State Fault Refusal :=
  copWord 0x3A 0x03 d a b r s
/-- `cop.trav.query` (R311). -/
def execTravQuery (_k : BitVec 1) (d : BitVec 6) (a b : BitVec 5) (r : BitVec 1) (s : State) : Host.Outcome State Fault Refusal :=
  copWord 0x3A 0x04 d a b r s
/-- `cop.build.morton` (R297). -/
def execBuildMorton (_k : BitVec 1) (d : BitVec 6) (a b : BitVec 5) (r : BitVec 1) (s : State) : Host.Outcome State Fault Refusal :=
  copWord 0x3B 0x00 d a b r s
/-- `cop.build.sort` (R297). -/
def execBuildSort (_k : BitVec 1) (d : BitVec 6) (a b : BitVec 5) (r : BitVec 1) (s : State) : Host.Outcome State Fault Refusal :=
  copWord 0x3B 0x01 d a b r s
/-- `cop.build.emit` (R298). -/
def execBuildEmit (_k : BitVec 1) (d : BitVec 6) (a b : BitVec 5) (r : BitVec 1) (s : State) : Host.Outcome State Fault Refusal :=
  copWord 0x3B 0x02 d a b r s
/-- `cop.build.refit` (R299). -/
def execBuildRefit (_k : BitVec 1) (d : BitVec 6) (a b : BitVec 5) (r : BitVec 1) (s : State) : Host.Outcome State Fault Refusal :=
  copWord 0x3B 0x03 d a b r s
/-- `cop.build.update` (R299). -/
def execBuildUpdate (_k : BitVec 1) (d : BitVec 6) (a b : BitVec 5) (r : BitVec 1) (s : State) : Host.Outcome State Fault Refusal :=
  copWord 0x3B 0x04 d a b r s
/-- `cop.build.genpub` (R300). -/
def execBuildGenpub (_k : BitVec 1) (d : BitVec 6) (a b : BitVec 5) (r : BitVec 1) (s : State) : Host.Outcome State Fault Refusal :=
  copWord 0x3B 0x05 d a b r s
/-- `cop.build.genret` (R300). -/
def execBuildGenret (_k : BitVec 1) (d : BitVec 6) (a b : BitVec 5) (r : BitVec 1) (s : State) : Host.Outcome State Fault Refusal :=
  copWord 0x3B 0x06 d a b r s
/-- `cop.build.compact` (R300). -/
def execBuildCompact (_k : BitVec 1) (d : BitVec 6) (a b : BitVec 5) (r : BitVec 1) (s : State) : Host.Outcome State Fault Refusal :=
  copWord 0x3B 0x07 d a b r s
/-- `cop.strm.isect` (R273). -/
def execStrmIsect (_k : BitVec 1) (d : BitVec 6) (a b : BitVec 5) (r : BitVec 1) (s : State) : Host.Outcome State Fault Refusal :=
  copWord 0x3C 0x00 d a b r s
/-- `cop.strm.cisect` (R273). -/
def execStrmCisect (_k : BitVec 1) (d : BitVec 6) (a b : BitVec 5) (r : BitVec 1) (s : State) : Host.Outcome State Fault Refusal :=
  copWord 0x3C 0x01 d a b r s
/-- `cop.strm.merge` (R273). -/
def execStrmMerge (_k : BitVec 1) (d : BitVec 6) (a b : BitVec 5) (r : BitVec 1) (s : State) : Host.Outcome State Fault Refusal :=
  copWord 0x3C 0x02 d a b r s
/-- `cop.strm.diff` (R273). -/
def execStrmDiff (_k : BitVec 1) (d : BitVec 6) (a b : BitVec 5) (r : BitVec 1) (s : State) : Host.Outcome State Fault Refusal :=
  copWord 0x3C 0x03 d a b r s
/-- `cop.coll.allred` (R277). -/
def execCollAllred (_k : BitVec 1) (d : BitVec 6) (a b : BitVec 5) (r : BitVec 1) (s : State) : Host.Outcome State Fault Refusal :=
  copWord 0x3D 0x00 d a b r s
/-- `cop.coll.redscat` (R277). -/
def execCollRedscat (_k : BitVec 1) (d : BitVec 6) (a b : BitVec 5) (r : BitVec 1) (s : State) : Host.Outcome State Fault Refusal :=
  copWord 0x3D 0x01 d a b r s
/-- `cop.coll.allgath` (R276). -/
def execCollAllgath (_k : BitVec 1) (d : BitVec 6) (a b : BitVec 5) (r : BitVec 1) (s : State) : Host.Outcome State Fault Refusal :=
  copWord 0x3D 0x02 d a b r s
/-- `cop.coll.bcast` (R276). -/
def execCollBcast (_k : BitVec 1) (d : BitVec 6) (a b : BitVec 5) (r : BitVec 1) (s : State) : Host.Outcome State Fault Refusal :=
  copWord 0x3D 0x03 d a b r s
/-- `cop.lod.bind` (R327). -/
def execLodBind (_k : BitVec 1) (d : BitVec 6) (a b : BitVec 5) (r : BitVec 1) (s : State) : Host.Outcome State Fault Refusal :=
  copWord 0x3E 0x00 d a b r s
/-- `cop.lod.mrlset` (R327). -/
def execLodMrlset (_k : BitVec 1) (d : BitVec 6) (a b : BitVec 5) (r : BitVec 1) (s : State) : Host.Outcome State Fault Refusal :=
  copWord 0x3E 0x01 d a b r s
/-- `cop.lod.mrlrd` (R327). -/
def execLodMrlrd (_k : BitVec 1) (d : BitVec 6) (a b : BitVec 5) (r : BitVec 1) (s : State) : Host.Outcome State Fault Refusal :=
  copWord 0x3E 0x02 d a b r s
/-- `cop.lod.fbpop` (R327). -/
def execLodFbpop (_k : BitVec 1) (d : BitVec 6) (a b : BitVec 5) (r : BitVec 1) (s : State) : Host.Outcome State Fault Refusal :=
  copWord 0x3E 0x03 d a b r s
/-- `cop.lod.fbstat` (R327). -/
def execLodFbstat (_k : BitVec 1) (d : BitVec 6) (a b : BitVec 5) (r : BitVec 1) (s : State) : Host.Outcome State Fault Refusal :=
  copWord 0x3E 0x04 d a b r s
/-- `cop.sys.tlbinv` (R279). -/
def execTlbinv (_k : BitVec 1) (d : BitVec 6) (a b : BitVec 5) (r : BitVec 1) (s : State) : Host.Outcome State Fault Refusal :=
  copWord 0x3F 0x00 d a b r s
/-- `cop.sys.harvest` (R279). -/
def execHarvest (_k : BitVec 1) (d : BitVec 6) (a b : BitVec 5) (r : BitVec 1) (s : State) : Host.Outcome State Fault Refusal :=
  copWord 0x3F 0x01 d a b r s
/-- `cop.sys.rmapinv` (R280). -/
def execRmapinv (_k : BitVec 1) (d : BitVec 6) (a b : BitVec 5) (r : BitVec 1) (s : State) : Host.Outcome State Fault Refusal :=
  copWord 0x3F 0x02 d a b r s
/-- `cop.sys.profload` (R281). -/
def execProfload (_k : BitVec 1) (d : BitVec 6) (a b : BitVec 5) (r : BitVec 1) (s : State) : Host.Outcome State Fault Refusal :=
  copWord 0x3F 0x03 d a b r s
/-- `cop.sys.ctxsave` (R282). -/
def execCtxsave (_k : BitVec 1) (d : BitVec 6) (a b : BitVec 5) (r : BitVec 1) (s : State) : Host.Outcome State Fault Refusal :=
  copWord 0x3F 0x04 d a b r s
/-- `cop.sys.ctxrestore` (R282). -/
def execCtxrestore (_k : BitVec 1) (d : BitVec 6) (a b : BitVec 5) (r : BitVec 1) (s : State) : Host.Outcome State Fault Refusal :=
  copWord 0x3F 0x05 d a b r s
/-- `cop.sys.enset`, KIND 0 (R283). -/
def execEnsetAllowance (_k : BitVec 1) (d : BitVec 6) (a b : BitVec 5) (r : BitVec 1) (s : State) : Host.Outcome State Fault Refusal :=
  copWord 0x3F 0x06 d a b r s
/-- `cop.sys.enset`, KIND 1 (R283). -/
def execEnsetClearContext (_k : BitVec 1) (d : BitVec 6) (a b : BitVec 5) (r : BitVec 1) (s : State) :
    Host.Outcome State Fault Refusal := copWord 0x3F 0x06 d a b r s
/-- `cop.sys.trcctl` (R283). -/
def execTrcctl (_k : BitVec 1) (d : BitVec 6) (a b : BitVec 5) (r : BitVec 1) (s : State) : Host.Outcome State Fault Refusal :=
  copWord 0x3F 0x07 d a b r s
/-- `cop.sys.dump` (R283). -/
def execDump (_k : BitVec 1) (d : BitVec 6) (a b : BitVec 5) (r : BitVec 1) (s : State) : Host.Outcome State Fault Refusal :=
  copWord 0x3F 0x08 d a b r s
/-- `cop.sys.linkctl`, operation 0 (R284). -/
def execLinkctlPark (_k : BitVec 1) (d : BitVec 6) (a b : BitVec 5) (r : BitVec 1) (s : State) : Host.Outcome State Fault Refusal :=
  copWord 0x3F 0x09 d a b r s
/-- `cop.sys.linkctl`, operation 1 (R284). -/
def execLinkctlWake (_k : BitVec 1) (d : BitVec 6) (a b : BitVec 5) (r : BitVec 1) (s : State) : Host.Outcome State Fault Refusal :=
  copWord 0x3F 0x09 d a b r s
/-- `cop.sys.linkctl`, operation 2 (R284). -/
def execLinkctlSetWakeDepth (_k : BitVec 1) (d : BitVec 6) (a b : BitVec 5) (r : BitVec 1) (s : State) :
    Host.Outcome State Fault Refusal := copWord 0x3F 0x09 d a b r s
/-- `cop.sys.linkctl`, operation 3 (R284). -/
def execLinkctlReadStatus (_k : BitVec 1) (d : BitVec 6) (a b : BitVec 5) (r : BitVec 1) (s : State) :
    Host.Outcome State Fault Refusal := copWord 0x3F 0x09 d a b r s
/-- `cop.sys.launch` (R283). -/
def execLaunch (_k : BitVec 1) (d : BitVec 6) (a b : BitVec 5) (r : BitVec 1) (s : State) : Host.Outcome State Fault Refusal :=
  copWord 0x3F 0x0A d a b r s

/-! ### Instances, tags, records -/

/-- The instance that serves a command (Table 13.2); the collective engine is fixed by the communicator. -/
def engineOf (major fn core : Nat) : Engine :=
  match major with
  | 0x38 => .copy core
  | 0x39 => .gather (dieOf core) (core % 16)
  | 0x3A => .trav core
  | 0x3B => if fn = 7 then .compactor else .builder (dieOf core)
  | 0x3C => .stream core
  | 0x3D => .coll 0
  | 0x3E => .residency
  | _ => .system

/-- Places in its queue, and commands in progress at once. -/
def Engine.queueSize : Engine → Nat
  | .copy _ => 32 | .gather _ _ => 16 | .stream _ => 8 | .trav _ => 16 | .builder _ => 16 | .compactor => 8 | .residency => 16
  | .coll _ => 64 | .system => 16

def Engine.width : Engine → Nat
  | .copy _ => 8 | .gather _ _ => 4 | .stream _ => 2 | .trav _ => 16 | .builder _ => 1 | .compactor => 1 | .residency => 1
  | .coll _ => 16 | .system => 1

/-- UNIT of its records (Table 13.3). -/
def Engine.unitCode : Engine → Byte
  | .gather d s => BitVec.ofNat 8 (16 * d + s)
  | .coll x => BitVec.ofNat 8 (0x80 + x)
  | .system => 0xF0
  | _ => 0

/-- The tag of R263. -/
def tagOf (seq : Half) (gidx fn major : Nat) : Word :=
  BitVec.ofNat 32 (seq.toNat + 2 ^ 16 * gidx + 2 ^ 22 * fn + 2 ^ 29 * (major - 0x38))

def State.modCmd (s : State) (id : Nat) (f : Command → Command) : State :=
  { s with commands := s.commands.map fun c : Command => if c.id = id then f c else c }

def State.cmd (s : State) (id : Nat) : Option Command := s.commands.find? fun c => c.id = id

/-- Who the accesses of a command are made for, on a path. -/
def agentOf (c : Command) (path : Nat) : Agent :=
  { unit := match c.engine with
      | .copy _ => .core c.core
      | .stream _ => .core c.core
      | .trav _ => .core c.core
      | _ => .die (dieOf c.core),
    core := match c.engine with
      | .copy _ => some c.core
      | .stream _ => some c.core
      | .trav _ => some c.core
      | _ => none,
    src := match c.engine with
      | .coll x => 768 + x
      | _ => c.core,
    asid := c.asid, priv := c.priv, launch := c.launch, uid := c.uid, gidx := c.gidx, name := c.name, path := path, cmd := some c.id,
    tag := c.tag }

/-- The path of a command's data accesses (Table 6.3). -/
def pathOf (major : Nat) : Nat :=
  match major with
  | 0x38 => 1 | 0x39 => 3 | 0x3A => 4 | 0x3B => 5 | 0x3C => 6 | 0x3D => 7 | _ => 0

/-- The command has ended: STATUS and COUNT of its record. -/
def finishCmd (s : State) (id status count : Nat) : State :=
  s.modCmd id fun c => { c with state := .finished, status := BitVec.ofNat 16 status, count := count }

/-- A copy, stream or traversal command takes part in its team's energy (R356). -/
def noteEngine (s : State) (id : Nat) : State :=
  match s.cmd id with
  | some c => if c.major = 0x38 || c.major = 0x3A || c.major = 0x3C then s.modTeam c.uid fun t => { t with engines := true } else s
  | none => s

/-- Work of a command: the times of its writes and its packets count for its record (R119, R380); those of a system or residency command, and of writes to scene
records, stand in G before its `evpop` (R278, R296, R326). -/
def runFor (s : State) (id : Nat) (f : State → State) : State :=
  let ports := s.ports
  let s := noteEngine (f { s with engWts := 0, sceneWts := 0 }) id
  let goals := s.ports.filterMap fun x => if x.2.goal = (look ports x.1 {}).goal then none else some (x.1, x.2.goal)
  s.modCmd id fun c => { c with wts := max c.wts s.engWts, goals := goals ++ c.goals,
                                order := max c.order (if 0x3E ≤ c.major then s.engWts else s.sceneWts) }

/-- A command waits for a page (R404); the entry of each page is written once. -/
def waitPage (s : State) (c : Command) (e : Agent) (va : DWord) (level : Nat) : State :=
  let page := va.toNat / 65536
  let s := if c.pages.contains page then s else engPage s e va level
  s.modCmd c.id fun c =>
    { c with state := if c.state = .delivered then .delivered else .waiting va, retry := false,
             pages := if c.pages.contains page then c.pages else page :: c.pages }

/-- What ends or holds a command whose access stops (R404, R435): STATUS 0x0003, or 0x0006 for a peer page where `peer` says so, 0x0004
for a lost line; `count` are the units performed. -/
def stopCmd (s : State) (c : Command) (e : Agent) (x : EngStop) (count : Nat) (peer : Bool := false) : State :=
  match x with
  | .fail cls code va _ =>
    finishCmd (engEntry s e cls code va) c.id (if peer && cls = clsRemote then 6 else 3) (if peer && cls = clsRemote then 0 else count)
  | .lost va _ => finishCmd (engEntry s e 0 0 va) c.id 4 count
  | .pend va level => waitPage s c e va level
  | .home va d => homeWait s e va d

/-- Byte n of a descriptor's bytes; wider fields. -/
def fieldAt (d : List Byte) (o n : Nat) : Nat := ofLeBytes ((d.drop o).take n)

/-- The offset of the first bad field of a list of (offset, bad), in ascending offset (Table 25.5). -/
def badField (l : List (Nat × Bool)) : Option Nat := ((sortBy (fun x : Nat × Bool => x.1) (l.filter fun x => x.2)).head?).map fun x => x.1

/-- A canonical VA that is a multiple of `n`. -/
def vaOk (x n : Nat) : Bool := canonical (BitVec.ofNat 64 x) && x % n = 0

/-! ### Delivery (R262) -/

/-- A command is delivered: the operand checks, then it stands before its engine's queue. -/
def deliverCommand (s : State) (e : CommitEntry) (major fn : Nat) (opa opb : DWord) (sd : Nat) (r rayOk : Bool) : Applied :=
  match operandFault major fn opa opb with
  | some code => .stop (raise s { cur := e.cur, lanes := e.cur.mask, cls := 0x20, fcode := BitVec.ofNat 32 code })
  | none =>
    if !rayOk then .stop (raise s { cur := e.cur, lanes := e.cur.mask, cls := 0x20, fcode := 3 })
    else
      let c : Command := { id := s.nextCmd, engine := engineOf major fn s.team.core, major := major, fn := fn, opa := opa, opb := opb,
                           uid := s.team.uid, gidx := s.grp.gidx, asid := s.team.asid, priv := s.team.priv, core := s.team.core,
                           launch := s.team.seqNo, name := s.name, dest := if r then some sd else none }
      .wait { s with commands := s.commands ++ [c], nextCmd := s.nextCmd + 1 }

/-- The delivered command of the executing group that has not been accepted. -/
def deliveredCmd (s : State) : Option Command :=
  s.commands.find? fun c => c.state = .delivered && c.uid = s.team.uid && c.gidx = s.grp.gidx

/-! ### Descriptor reads -/

/-- A read made as lane-order loads of the issuing team (R264): the bytes, or what stops it. -/
def laneRange (s : State) (c : Command) (va : DWord) (n : Nat) (allow : Target → Bool) : State × List Byte × Option EngStop :=
  let e := { agentOf c 0 with unit := .core c.core }
  let (s, cs, stop) := engMap s e va n .read allow
  match stop with
  | some x => (s, [], some x)
  | none =>
    let (s, bs) := cs.foldl (fun acc k =>
      match k.target with
      | .device pa =>
        let s := (lineChunks pa k.len).foldl (fun s x => (homeLoad s c.core (pa + x.1) x.2 k.caching c.asid).1) acc.1
        (s, acc.2 ++ memBytes s.mem pa k.len)
      | _ => let (s, b) := readChunk acc.1 e k; (s, acc.2 ++ b)) (s, [])
    (s, bs, none)

/-- Bytes of the descriptor at OPA (13, 14, 15); 0 where the command names none. -/
def descBytes (major fn : Nat) (opa : DWord) : Nat :=
  match major with
  | 0x3A => if fn ≤ 2 then 32 else 0
  | 0x3B => if fn ≤ 4 then 32 else 0
  | 0x3E => if fn = 0 && opa ≠ 0 then 64 else 0
  | 0x3F => if fn = 0x0A then 128 else 0
  | _ => 32

/-! ### Acceptance (R262, R263) -/

/-- Whether a command counts as in progress at its instance. -/
def inProgress (c : Command) : Bool := match c.state with | .running => true | .waiting _ => true | _ => false

/-- Whether a command's packets have left their ports (R266, R380). -/
def leftPorts (s : State) (c : Command) : Bool :=
  c.goals.all fun g => let p := look s.ports g.1 {}; p.outOfService || decide (g.2 ≤ (p.drain s.clock).sent)

/-- Whether an access that a record waits for, as `Command.after` names it, is still to be performed. -/
def stillUnderWay (s : State) (x : Nat × Nat × Nat) : Bool :=
  if x.1 = 0 then ((s.cmd x.2.1).map fun c => !c.rest.isEmpty).getD false
  else
    (s.groupsOf x.1).any (fun g => g.gidx = x.2.1 && (g.held.any (fun h => h.seq = x.2.2) || g.awaits.any fun w => w.cur.seq = x.2.2)) ||
      (x.2.1 = 16 && ((s.teamOf x.1).map fun t => t.orphans.any fun h => h.seq = x.2.2).getD false)

/-- Whether every access that a command's record waits for has been performed (R266, R279, R380). -/
def performed (s : State) (c : Command) : Bool := leftPorts s c && !c.after.any (stillUnderWay s)

/-- The commands that hold places in progress of an instance. -/
def placeHolders (s : State) (e : Engine) : List Nat :=
  (s.commands.filter fun x => x.engine = e && (inProgress x || (x.state = .finished && !performed s x))).map fun x => x.id

/-- Whether all of them are held. -/
def placesFull (s : State) (e : Engine) : Bool := decide (e.width ≤ (placeHolders s e).length)

/-- The command enters its queue, behind the commands accepted before it: its tag, the result register, the end of its commit-buffer entry.
`ended` is the STATUS of a command that ends at acceptance. -/
def acceptCmd (s : State) (c : Command) (ended : Option (Nat × Nat)) : State :=
  let tag := tagOf s.team.cmdSeq s.grp.gidx c.fn c.major
  let s := { s with team := { s.team with cmdSeq := s.team.cmdSeq + 1 } }
  let s := s.modGrp fun g =>
    let g := Group.trimUndo { g with commit := g.commit.drop 1 }
    match c.dest with
    | some d => (g.setS d tag).disown [(d, tag)]
    | none => g
  let c : Command := match ended with
    | some (st, n) => { c with tag := tag, state := .finished, status := BitVec.ofNat 16 st, count := n }
    | none => { c with tag := tag, state := .queued, pages := [], retry := false, waitedOn := if placesFull s c.engine then placeHolders s c.engine else [] }
  { s with commands := s.commands.filter (fun x => x.id ≠ c.id) ++ [c] }

/-- Whether an instance's queue is full. -/
def queueFull (s : State) (e : Engine) : Bool := e.queueSize ≤ (s.commands.filter fun c => c.engine = e && c.state = .queued).length

/-! ### Records (R266) -/

/-- Whether the records of the commands that a command waited on have been placed, but for those that a full event queue holds back: in an instance that
performs one at a time every earlier command, in another those that held its places (R266). -/
def recordFirst (s : State) (c : Command) : Bool :=
  !(s.commands.takeWhile fun x => x.id ≠ c.id).any fun x =>
    x.engine = c.engine && x.state = .finished && (c.engine.width = 1 || c.waitedOn.contains x.id) &&
      ((s.teamOf x.uid).map fun t => decide (t.events.length < 64)).getD false

/-- Whether the instance of a command holds a record for its team, so that it starts no further command of it (R266). -/
def recordHeld (s : State) (c : Command) : Bool := s.commands.any fun y => y.engine = c.engine && y.uid = c.uid && y.state = .finished

/-- Whether a command may start (R265, R266): it is the first accepted of those its instance may start, and a place in progress is free; an
instance that holds a record starts no other command of its team. -/
def mayStart (s : State) (c : Command) : Bool :=
  c.state = .queued && !recordHeld s c &&
    (s.commands.find? fun x => x.engine = c.engine && x.state = .queued && !recordHeld s x).map (fun x => x.id) = some c.id &&
    !placesFull s c.engine

/-- The completion record of a command. -/
def Command.record (c : Command) : Record :=
  { tag := c.tag, status := c.status, flags := c.flags, unit := c.unit, cookie := c.cookie, count := BitVec.ofNat 32 c.count,
    paths := if pathOf c.major = 0 then 0 else BitVec.ofNat 9 (2 ^ pathOf c.major), cmd := c.id, wts := c.wts, order := c.order }

end Sys2Proof.Machine
end

