-- ==== Sys2Proof/Machine/Copy.lean ====
section
/-!
DEFINITION. The copy, gather and sparse stream commands (13 R268 to R274, 22 R379, R380, 25 R436). A command's accesses are made in the
step that starts it.
-/
namespace Sys2Proof.Machine

/-- The team of a command. -/
def cmdTeam (s : State) (c : Command) : Team := (s.teamOf c.uid).getD {}

/-! ### Scratchpad and operand-buffer ranges -/

/-- The team whose allocation a scratchpad offset with member bits names (R195). -/
def scratchOwner (s : State) (t : Team) (reg : Nat) : Option Team :=
  let m := reg / 2 ^ 28 % 16
  if m = 15 || m = t.midx then some t
  else if m < t.clh * t.clw then s.allTeams.find? (fun u => u.seqNo = t.seqNo && u.cidx = t.cidx && u.midx = m)
  else none

/-- Where `n` bytes at a scratchpad offset lie, if they lie in the allocation. -/
def scratchSpan (s : State) (t : Team) (reg n : Nat) : Option Target :=
  match scratchOwner s t reg with
  | some u => if reg % 2 ^ 28 + n ≤ u.scratchSize then some (.share u.uid (reg % 2 ^ 28)) else none
  | none => none

/-- Where `n` bytes at an offset of the team's operand-buffer share lie. -/
def obSpan (s : State) (t : Team) (o n : Nat) : Option Target :=
  if o + n ≤ t.obSize then some (.opbuf t.core (allocBase s t (fun u => u.obSize) + o)) else none

/-- Moves a target within its space. -/
def Target.plus (t : Target) (n : Nat) : Target :=
  match t with
  | .device pa => .device (pa + n)
  | .hub pa => .hub (pa + n)
  | .host a b => .host (a + n) b
  | .peer m pa => .peer m (pa + n)
  | .scratch c o => .scratch c (o + n)
  | .opbuf c o => .opbuf c (o + n)
  | .share u o => .share u (o + n)

/-! ### Copies -/

/-- Kinds of the sides of a copy (Table 13.5). -/
inductive Side where
  | g | s | ob
  deriving DecidableEq, Repr

/-- Source kind, destination kind, and shape: 0 linear, 1 tile, 2 records. -/
def copyForm (fn : Nat) : Side × Side × Nat :=
  match fn with
  | 0 => (.g, .s, 0) | 1 => (.s, .g, 0) | 2 => (.g, .ob, 0) | 3 => (.s, .ob, 0) | 4 => (.g, .s, 1) | 5 => (.s, .g, 1)
  | 6 => (.g, .ob, 1) | 7 => (.g, .ob, 2) | _ => (.g, .g, 0)

/-- The fields of Table 13.4. -/
structure CopyDesc where
  src : Nat
  dst : Nat
  len : Nat
  rows : Nat
  rowb : Nat
  rlen : Nat
  sstr : Nat
  dstr : Nat

def copyDesc (d : List Byte) : CopyDesc :=
  { src := fieldAt d 0 8, dst := fieldAt d 8 8, len := fieldAt d 16 4, rows := fieldAt d 16 2, rowb := fieldAt d 18 2,
    rlen := fieldAt d 20 1, sstr := fieldAt d 24 4, dstr := fieldAt d 28 4 }

/-- The rows of a copy: source offset, destination offset, bytes (R270). -/
def copyRows (shape : Nat) (d : CopyDesc) : List (Nat × Nat × Nat) :=
  match shape with
  | 0 => if d.len = 0 then [] else [(0, 0, d.len)]
  | 1 => (List.range d.rows).map fun r => (r * d.sstr, r * d.dstr, d.rowb)
  | _ => (List.range d.rows).map fun r => (r * d.sstr, r * d.rowb * d.rlen, d.rowb * d.rlen)

/-- Bytes from the start of a side to its end. -/
def extent (rows : List (Nat × Nat)) : Nat := rows.foldl (fun m r => max m (r.1 + r.2)) 0

/-- Whether a side breaks its limits (R269). -/
def sideBad (s : State) (t : Team) (k : Side) (x n align : Nat) : Bool :=
  match k with
  | .g => !vaOk x align
  | .s => 2 ^ 32 ≤ x || x % align ≠ 0 || (scratchSpan s t x n).isNone
  | .ob => x % align ≠ 0 || (obSpan s t x n).isNone

/-- The first bad field of a copy descriptor, in ascending offset (R269, Table 13.4). -/
def copyBad (s : State) (t : Team) (fn : Nat) (raw : List Byte) : Option Nat :=
  let d := copyDesc raw
  let (sk, dk, shape) := copyForm fn
  let rows := copyRows shape d
  let align := if fn = 8 || shape = 2 then 1 else 16
  badField [
    (0, sideBad s t sk d.src (extent (rows.map fun r => (r.1, r.2.2))) align),
    (8, sideBad s t dk d.dst (extent (rows.map fun r => (r.2.1, r.2.2))) align),
    (16, shape = 0 && (2 ^ 32 - 16 < d.len || d.len % align ≠ 0)),
    (18, shape = 1 && (d.rowb < 16 || 65520 < d.rowb || d.rowb % 16 ≠ 0)),
    (18, shape = 2 && d.rowb = 0),
    (20, if shape = 2 then !(d.rlen = 17 || d.rlen = 25 || d.rlen = 33) else shape = 1 && d.rlen ≠ 0),
    (20, shape = 0 && d.rlen ≠ 0),
    (21, fieldAt raw 21 3 ≠ 0),
    (24, shape = 1 && d.sstr % 16 ≠ 0),
    (28, shape = 1 && d.dstr % 16 ≠ 0)]

/-- What stops a part of a copy: the stop, and the first byte in copy order and the number of bytes of the granule it stops. -/
structure CopyStop where
  x : EngStop
  at_ : Nat
  len : Nat

/-- A granule is mapped, and the granules after it whatever stops it, since every page of a copy is checked before anything is written (R436). -/
def mapAll (s : State) (e : Agent) (va : DWord) (n : Nat) (write : Bool) : State × List Chunk × List CopyStop :=
  (granules va n).foldl (fun acc g =>
    let (s, chunks, stops) : State × List Chunk × List CopyStop := acc
    let (s, cs, st) := engMap s e (va + BitVec.ofNat 64 g.1) g.2 (if write then .write else .read) anyTarget write
    let got := cs.foldl (fun n c => n + c.len) 0
    (s, chunks ++ cs.map (fun c => { c with off := c.off + g.1 }), stops ++ match st with
      | some x => [{ x := x, at_ := g.1 + got, len := g.2 - got }]
      | none => [])) (s, [], [])

/-- The chunks of one row of a side, and what stops parts of it. -/
def sideChunks (s : State) (e : Agent) (t : Team) (k : Side) (x off n : Nat) (write : Bool) : State × List Chunk × List CopyStop :=
  let whole (tg : Target) : List Chunk := [{ off := 0, len := n, va := 0, target := tg, caching := {} }]
  match k with
  | .g => mapAll s e (BitVec.ofNat 64 (x + off)) n write
  | .s => (s, ((scratchSpan s t (x % 2 ^ 28 + x / 2 ^ 28 * 2 ^ 28 + off) n).map whole).getD [], [])
  | .ob => (s, ((obSpan s t (x + off) n).map whole).getD [], [])

/-- Maps every row of a side: its chunks with their places in copy order, and what stops parts of it. -/
def mapRows (s : State) (e : Agent) (t : Team) (k : Side) (x : Nat) (rows : List (Nat × Nat)) (write : Bool) :
    State × List (Nat × Chunk) × List CopyStop :=
  let r := rows.foldl (fun acc row =>
    let (s, out, stops, base) : State × List (Nat × Chunk) × List CopyStop × Nat := acc
    let (s, cs, st) := sideChunks s e t k x row.1 row.2 write
    (s, out ++ cs.map (fun c => (base + c.off, c)), stops ++ st.map (fun y => { y with at_ := base + y.at_ }), base + row.2)) (s, [], [], 0)
  (r.1, r.2.1, r.2.2.1)

/-- The parts of chunks among the first `n` bytes in copy order. -/
def cutChunks (n : Nat) (l : List (Nat × Chunk)) : List (Nat × Chunk) :=
  (l.filter fun x => x.1 < n).map fun x => (x.1, { x.2 with len := min x.2.len (n - x.1) })

/-- The pieces in which a copy writes bytes of an operand buffer: each aligned 8 bytes whole, or each record of `rlen` bytes (R72, R270). -/
def copyUnits (rlen a : Nat) (bs : List Byte) : List (Nat × List Byte) :=
  if rlen = 0 then hostUnits a bs
  else (List.range ((bs.length + rlen - 1) / rlen)).map fun k => (a + rlen * k, (bs.drop (rlen * k)).take rlen)

/-- Whether an open chain locks a byte of a piece of an operand buffer (R258). -/
def unitLocked (s : State) (core : Nat) (u : Nat × List Byte) : Bool := (List.range u.2.length).any fun i => lockedTarget s (.opbuf core (u.1 + i)) 1

/-- Writes a piece. -/
def putUnit (s : State) (e : Agent) (core : Nat) (u : Nat × List Byte) : State :=
  writeChunk s e { off := 0, len := u.2.length, va := 0, target := .opbuf core u.1, caching := {} } u.2

/-- Writes a chunk of a copy; what it leaves because of locks, by the team whose share it is and the offset in it. A byte of a packet that is not performed
keeps its value (R380). -/
def putChunk (s : State) (e : Agent) (rlen : Nat) (failed : Nat → Bool) (c : Chunk) (bs : List Byte) : State × List (Nat × Nat × List Byte) :=
  match c.target with
  | .opbuf core o =>
    if lockedChunk s c then
      let (rest, now) := (copyUnits rlen o bs).partition (unitLocked s core)
      (now.foldl (fun s u => putUnit s e core u) s,
       rest.filterMap fun u => (ownerAt (teamsOfCore s core) (fun t => t.obSize) u.1).map fun w => (w.1, w.2, u.2))
    else (writeChunk s e c bs, [])
  | .peer m pa =>
    let old := memBytes (look s.peers m {}).mem pa c.len
    (writeChunk s e c (if (packetsOf s c).isEmpty then bs
      else bs.zipIdx.map fun x => if failed (c.va.toNat + x.2) then old.getD x.2 0 else x.1), [])
  | _ => (writeChunk s e c bs, [])

/-- Reads every source byte, then writes the destination (R270); what it leaves because of locks. -/
def moveBytes (s : State) (e : Agent) (rlen : Nat) (src dst : List (Nat × Chunk)) (failed : Nat → Bool) : State × List (Nat × Nat × List Byte) :=
  let (s, bytes) := src.foldl (fun acc x => let (s, b) := readChunk acc.1 e x.2; (s, acc.2 ++ b)) (s, ([] : List Byte))
  dst.foldl (fun acc x =>
    let (s, more) := putChunk acc.1 e rlen failed x.2 ((bytes.drop x.1).take x.2.len)
    (s, acc.2 ++ more)) (s, [])

/-- A copy that has left locked bytes unwritten stays in progress (R258). -/
def keepRest (s : State) (id : Nat) (rest : List (Nat × Nat × List Byte)) : State :=
  if rest.isEmpty then s else s.modCmd id fun c => { c with state := .running, rest := rest }

/-- It goes on with what is locked no longer; the share of a Saved team is waited for (R424), and that of a team that is gone is no more. -/
def copyRest (s : State) (c : Command) : State :=
  let (s, rest) := c.rest.foldl (fun acc x =>
    let (s, rest) : State × List (Nat × Nat × List Byte) := acc
    match s.teamOf x.1 with
    | some t =>
      let u := (allocBase s t (fun u => u.obSize) + x.2.1, x.2.2)
      if unitLocked s t.core u then (s, rest ++ [x]) else (putUnit s (agentOf c 1) t.core u, rest)
    | none => if s.saved.any fun v => v.uid = x.1 then (s, rest ++ [x]) else (s, rest)) (s, [])
  s.modCmd c.id fun c => { c with rest := rest, state := if rest.isEmpty then .finished else .running }

/-- One SOURCE 14 entry for each distinct page of failures (R435). -/
def pageEntries (s : State) (e : Agent) (l : List (Byte × Word × DWord)) : State :=
  (l.foldl (fun acc x =>
    let (s, seen) : State × List Nat := acc
    let page := x.2.2.toNat / 65536
    if seen.contains page then acc else (engEntry s e x.1 x.2.1 x.2.2, page :: seen)) (s, [])).1

/-- A failure as its entry names it. -/
def CopyStop.entry (y : CopyStop) : Option (Byte × Word × DWord) :=
  match y.x with
  | .fail cls code va _ => some (cls, code, va)
  | .lost va _ => some (0, 0, va)
  | _ => none

/-- Whether what stops a destination is the failure of its packets: they have no route, or this module refuses them (R380). -/
def CopyStop.remote (y : CopyStop) : Bool := match y.x with | .fail cls _ _ _ => decide (cls = clsRemote) | _ => false

/-- Whether a stop is a lost line. -/
def CopyStop.lost (y : CopyStop) : Bool := match y.x with | .lost _ _ => true | _ => false

/-- What a copy whose pages fail comes to, in the order in which they are checked: it waits, where the first of them waits, or ends with an entry for each page
that has failed (R404, R435, R436). -/
def copyFails (s : State) (c : Command) (e : Agent) (y : CopyStop) (l : List CopyStop) : State :=
  match y.x with
  | .pend va level => waitPage s c e va level
  | .home va d => homeWait s e va d
  | x => finishCmd (pageEntries s e (l.filterMap CopyStop.entry)) c.id (match x with | .lost _ _ => 4 | _ => 3) 0

/-- A `cop.copy` (R268 to R270, R380, R436): with a packet that fails it ends with STATUS 6, once every other packet has been answered. Destination bytes that an
open chain locks hold the command in progress (R258). -/
def runCopy (s : State) (c : Command) : State :=
  let t := cmdTeam s c
  let e := agentOf c 1
  match copyBad s t c.fn c.desc with
  | some o => finishCmd s c.id 2 o
  | none =>
    let d := copyDesc c.desc
    let (sk, dk, shape) := copyForm c.fn
    let rows := copyRows shape d
    let total := rows.foldl (fun n r => n + r.2.2) 0
    let (s, src, sstops) := mapRows s e t sk d.src (rows.map fun r => (r.1, r.2.2)) false
    let (s, dst, dstops) := mapRows s e t dk d.dst (rows.map fun r => (r.2.1, r.2.2)) true
    let bad := sstops.filter (fun y => !y.lost) ++ dstops.filter (fun y => !y.remote)
    match bad with
    | y :: _ => copyFails s c e y bad
    | [] =>
      let rlen := if shape = 2 then max 1 d.rlen else 0
      let n := match sstops with
        | y :: _ => if shape = 2 then y.at_ / rlen * rlen else y.at_
        | [] => total
      let src := cutChunks n src
      let dst := cutChunks n dst
      let packets := dst.flatMap fun x => packetsOf s x.2
      let ends := (List.range packets.length).filterMap fun i => (packetEnd (s.free + i)).map fun r => (packets.getD i (0, 0), r)
      let failed (a : Nat) : Bool := ends.any fun x => x.1.1 ≤ a && a < x.1.1 + x.1.2 && !x.2.2
      let unsent := (dstops.filter fun y => y.at_ < n).filterMap CopyStop.entry
      let fails := sortBy (fun x : Byte × Word × DWord => x.2.2.toNat) (unsent ++ ends.map fun x => (clsRemote, x.2.1, BitVec.ofNat 64 x.1.1))
      let (s, rest) := moveBytes { s with free := s.free + packets.length } e rlen src dst failed
      let s := pageEntries s e (sstops.filterMap CopyStop.entry ++ fails)
      keepRest (match sstops, fails with
        | [], [] => finishCmd s c.id 0 total
        | _ :: _, _ => finishCmd s c.id 4 n
        | [], _ => finishCmd s c.id 6 0) c.id rest

/-! ### Gathers -/

/-- A `cop.gath` (R271). -/
def runGather (s : State) (c : Command) : State :=
  let t := cmdTeam s c
  let e := agentOf c 3
  let z := 4 * 2 ^ c.fn
  let base := fieldAt c.desc 0 8
  let idx := fieldAt c.desc 8 8
  let dst := fieldAt c.desc 16 4
  let n := fieldAt c.desc 20 4
  match badField [(0, !vaOk base z), (8, !vaOk idx 4), (16, dst % z ≠ 0 || (scratchSpan s t dst (z * n)).isNone), (20, 4096 < n),
      (24, fieldAt c.desc 24 8 ≠ 0)] with
  | some o => finishCmd s c.id 2 o
  | none =>
    let (s, out, stop) := (List.range n).foldl (fun acc i =>
      let (s, out, stop) : State × List Byte × Option EngStop := acc
      match stop with
      | some _ => acc
      | none =>
        let (s, cs, st) := engMap s e (BitVec.ofNat 64 (idx + 4 * i)) 4 .read anyTarget
        match st with
        | some x => (s, out, some x)
        | none =>
          let (s, k) := readChunks s e cs
          let (s, cs, st) := engMap s e (BitVec.ofNat 64 (base + z * ofLeBytes k)) z .read deviceOnly
          match st with
          | some x => (s, out, some x)
          | none => let (s, b) := readChunks s e cs; (s, out ++ b, none)) (s, [], none)
    let m := out.length / z
    let write (s : State) : State := match scratchSpan s t dst (z * m) with
      | some tg => if m = 0 then s else writeChunk s e { off := 0, len := z * m, va := 0, target := tg, caching := {} } out
      | none => s
    match stop with
    | none => finishCmd (write s) c.id 0 n
    | some (.pend va l) => waitPage s c e va l
    | some (.home va d) => homeWait s e va d
    | some x => stopCmd (write s) c e x m

/-! ### Sparse streams -/

/-- A stream as the engine reads it: its elements, and what stops it after them. -/
structure Strm where
  elems : List Nat
  stop : Option EngStop := none

/-- Why a merge ends early. -/
inductive StrmEnd where
  | done | unsorted | stop (x : EngStop)

/-- Reads a stream granule by granule (R274). -/
def readStream (s : State) (e : Agent) (va n : Nat) : State × Strm :=
  if n = 0 then (s, { elems := [] })
  else
    let (s, cs, stop) := engMap s e (BitVec.ofNat 64 va) (4 * n) .read anyTarget
    let (s, bs) := readChunks s e cs
    let m := bs.length / 4
    let rec words : Nat → List Byte → List Nat
      | 0, _ => []
      | k + 1, l => ofLeBytes (l.take 4) :: words k (l.drop 4)
    (s, { elems := words m bs, stop := stop })

/-- The head of a stream, checked against its predecessor. -/
def headOf (x : Strm) (prev : Option Nat) : Option Nat × Option StrmEnd :=
  match x.elems with
  | v :: _ => if (match prev with | some p => decide (v < p) | none => false) then (none, some .unsorted) else (some v, none)
  | [] => (none, x.stop.map StrmEnd.stop)

/-- The merge of R273: operation 0 intersection, 2 merge, 3 difference; every element of both streams is read (R379). -/
def mergeStreams (op : Nat) : Nat → Strm → Strm → Option Nat → Option Nat → List Nat → List Nat × StrmEnd
  | 0, _, _, _, _, out => (out.reverse, .done)
  | fuel + 1, a, b, pa, pb, out =>
    let (x, ex) := headOf a pa
    let (y, ey) := headOf b pb
    match ex, ey with
    | some r, _ => (out.reverse, r)
    | none, some r => (out.reverse, r)
    | none, none =>
      let a' : Strm := { a with elems := a.elems.drop 1 }
      let b' : Strm := { b with elems := b.elems.drop 1 }
      match x, y with
      | none, none => (out.reverse, .done)
      | some u, none => mergeStreams op fuel a' b (some u) pb (if op = 0 then out else u :: out)
      | none, some v => mergeStreams op fuel a b' pa (some v) (if op = 2 then v :: out else out)
      | some u, some v =>
        if u < v then mergeStreams op fuel a' b (some u) pb (if op = 0 then out else u :: out)
        else if v < u then mergeStreams op fuel a b' pa (some v) (if op = 2 then v :: out else out)
        else match op with
          | 0 => mergeStreams op fuel a' b' (some u) (some v) (u :: out)
          | 2 => mergeStreams op fuel a' b (some u) pb (u :: out)
          | _ => mergeStreams op fuel a' b' (some u) (some v) out

/-- Whether `n` elements from an address lie in more than one 64 KiB granule (R274). -/
def splits (va n : Nat) : Bool := n ≠ 0 && va / 65536 ≠ (va + 4 * n - 1) / 65536

/-- A `cop.strm` (R272 to R274, R379). -/
def runStream (s : State) (c : Command) : State :=
  let e := agentOf c 6
  let f (o n : Nat) : Nat := fieldAt c.desc o n
  let av := f 0 8
  let bv := f 8 8
  let ov := f 16 8
  let an := f 24 4 % 2 ^ 28
  let bn := f 28 4 % 2 ^ 28
  match badField [(0, !vaOk av 4), (8, !vaOk bv 4), (16, c.fn ≠ 1 && !vaOk ov 4), (27, 16 ≤ f 27 1), (31, 16 ≤ f 31 1)] with
  | some o => finishCmd s c.id 2 o
  | none =>
    let (s, a) := readStream s e av an
    let (s, b) := readStream s e bv bn
    let op := if c.fn = 1 then 0 else c.fn
    let (out, ended) := mergeStreams op (an + bn + 1) a b none none []
    let held := match ended with
      | .stop (.pend va l) => some (waitPage s c e va l)
      | .stop (.home va d) => some (homeWait s e va d)
      | _ => none
    match held with
    | some s => s
    | none =>
      let (s, cs, wstop) := if c.fn = 1 || out.isEmpty then (s, [], none)
        else engMap s e (BitVec.ofNat 64 ov) (4 * out.length) .write anyTarget
      match wstop with
      | some (.pend va l) => waitPage s c e va l
      | some (.home va d) => homeWait s e va d
      | _ =>
        let bytes := out.flatMap (leBytes 4)
        let s := writeChunks s e cs bytes
        let m := match wstop with
          | some _ => (cs.foldl (fun n k => n + k.len) 0) / 4
          | none => out.length
        let flags := (if splits av an then 1 else 0) + (if splits bv bn then 2 else 0) +
          (if c.fn ≠ 1 && splits ov m then 4 else 0)
        let s := s.modCmd c.id fun c => { c with flags := BitVec.ofNat 8 flags }
        match wstop, ended with
        | some x, _ => stopCmd s c e x m
        | none, .stop x => stopCmd s c e x m
        | none, .unsorted => finishCmd s c.id 5 m
        | none, .done => finishCmd s c.id 0 m

end Sys2Proof.Machine
end

