-- ==== Sys2Proof/Machine/Coll.lean ====
section
/-!
DEFINITION. The collectives (13 R275 to R277, 25 R435, R436). What the other modules of a communicator contribute is outside this
module: their elements and answers are free values (notes/assumptions/3.md).
-/
namespace Sys2Proof.Machine

/-- Bytes of an element or record (Table 13.11). -/
def collSize (dtype : Nat) : Nat := match dtype with | 1 => 2 | 2 => 2 | 4 => recordSize 1 true | _ => 4

/-- The float format of an element; a record's elements are f32. -/
def collFmt (dtype : Nat) : Fmt := match dtype with | 1 => f16 | 2 => bf16 | _ => f32

/-- The value of bits of one format rounded to another (R68, Table 4.4). -/
def refloat (f g : Fmt) (x : Nat) : Nat :=
  match f.decode x with
  | .nan => g.nan
  | .inf n => g.inf n
  | .fin n m e => let p := pow2 e; g.round .rn n (m * p.1) p.2

/-- The fold of R277 over the ranks' bits of one element. -/
def foldElem (dtype op : Nat) (xs : List Nat) : Nat :=
  let x0 := xs.headD 0
  let rest := xs.drop 1
  let f := collFmt dtype
  if dtype = 3 then

    match op with
    | 0 => xs.foldl (fun a x => (a + x) % 2 ^ 32) 0
    | 1 => rest.foldl (fun a b => if signExt b 32 < signExt a 32 then b else a) x0
    | _ => rest.foldl (fun a b => if signExt a 32 < signExt b 32 then b else a) x0
  else
    match op with
    | 0 => refloat f32 f (rest.foldl (fun a x => fAdd f32 .rn a (refloat f f32 x)) (refloat f f32 x0))
    | 1 => rest.foldl (fun a b => fMinMax f 0 a b) x0
    | _ => rest.foldl (fun a b => fMinMax f 1 a b) x0

/-- Little-endian items of `n` bytes. -/
def items (n : Nat) : Nat → List Byte → List Nat
  | 0, _ => []
  | k + 1, l => ofLeBytes (l.take n) :: items n k (l.drop n)

/-- The largest magnitude of a row of f32 bits, none if it holds an infinity or a NaN. -/
def rowLargest (row : List Nat) : Option Dyadic :=
  row.foldl (fun m x => match m, f32.decode x with
    | some d, .fin _ k e => let y : Dyadic := { m := k, e := e }; some (if d.lt y then y else d)
    | _, _ => none) (some Dyadic.zero)

/-- The bound of a row of a reduced record (R277): the ranks' bounds of the row, and the folded row after each rank. -/
def foldBound (op : Nat) (es : List Nat) (rows : List (List Nat)) : Nat :=
  if op ≠ 0 then es.foldl eb16Max 0
  else
    ((es.zip rows).drop 1).foldl (fun b x =>
      match eb16Val x.1, rowLargest x.2 with
      | some v, some m => eb16AddReal b (if m.m = 0 then v else v.add (halfUlp32 m))
      | _, _ => 0xFF00) (eb16Norm (es.headD 0))

/-- The reduction of one record over the ranks (R277). -/
def foldRecord (op : Nat) (recs : List (List Byte)) : List Byte :=
  let elems := recs.map fun r => items 4 4096 r
  let bounds := recs.map fun r => items 2 64 (r.drop (recordData 1))
  let out := (List.range 4096).map fun k => foldElem 0 op (elems.map fun e => e.getD k 0)
  let bs := (List.range 64).map fun i =>
    let rows := (List.range recs.length).map fun r =>
      (List.range 64).map fun j => foldElem 0 op ((elems.take (r + 1)).map fun e => e.getD (64 * i + j) 0)
    let b := foldBound op (bounds.map fun x => x.getD i 0xFF00) rows
    match rowLargest ((out.drop (64 * i)).take 64) with
    | some _ => b
    | none => 0xFF00
  out.flatMap (leBytes 4) ++ bs.flatMap (leBytes 2)

/-- The reduction of `n` elements or records. -/
def foldRanks (dtype op n : Nat) (xs : List (List Byte)) : List Byte :=
  let z := collSize dtype
  if dtype = 4 then (List.range n).flatMap fun i => foldRecord op (xs.map fun x => (x.drop (z * i)).take z)
  else
    let es := xs.map fun x => items z n x
    (List.range n).flatMap fun i => leBytes z (foldElem dtype op (es.map fun e => e.getD i 0))

/-- A communicator's fields (Table 13.10). -/
def commRanks (d : List Byte) : Nat := fieldAt d 0 2
def commMe (d : List Byte) : Nat := fieldAt d 2 2
def commMod (d : List Byte) (r : Nat) : Nat := fieldAt d (16 + r) 1

/-- The first bad field of a collective descriptor, in ascending offset. -/
def collBad (fn : Nat) (d : List Byte) (ranks : Nat) : Option Nat :=
  let dtype := fieldAt d 20 1
  badField [(0, !vaOk (fieldAt d 0 8) 1), (8, !vaOk (fieldAt d 8 8) 1), (16, fn = 1 && fieldAt d 16 4 % max 1 ranks ≠ 0),
    (20, 4 < dtype), (21, fn ≤ 1 && 2 < fieldAt d 21 1), (22, fn = 3 && ranks ≤ fieldAt d 22 2)]

/-- The first bad field of a communicator. -/
def commBad (s : State) (d : List Byte) : Option Nat :=
  badField [(0, commRanks d = 0 || 256 < commRanks d), (2, commRanks d ≤ commMe d), (8, fieldAt d 8 8 ≠ 0),
    (16 + commMe d, commMod d (commMe d) ≠ fabId s)]

/-- What a rank's DST receives (Table 13.12), from every rank's input. -/
def collResult (fn dtype op root me n : Nat) (xs : List (List Byte)) : List Byte :=
  let z := collSize dtype
  match fn with
  | 0 => foldRanks dtype op n xs
  | 1 => let c := n / max 1 xs.length; foldRanks dtype op c (xs.map fun x => (x.drop (z * c * me)).take (z * c))
  | 2 => xs.flatten
  | _ => xs.getD root []

/-- The messages of a collective to the modules of the other ranks leave by the port of source 768 + x, x the engine's optical die (R354), and queue their flits there
(R381). How many flits a rank is sent is free, none where it is sent nothing. -/
def collSend (s : State) (c : Command) (base : Nat) : State :=
  ((List.range (commRanks c.comm)).filter fun r => r ≠ commMe c.comm && commMod c.comm r ≠ fabId s).foldl (fun s r =>
    let n := Config.freeFlits base r
    if n = 0 then s else sendFlits s (commMod c.comm r) (768 + fieldAt c.comm 4 4 % 4) n c.asid) s

/-- A `cop.coll` (R275 to R277). Of a bad field in the collective descriptor and one in the communicator, COUNT names the first (DESIGN CHOICE,
notes/assumptions/96.md). -/
def runColl (s : State) (c : Command) : State :=
  let e := agentOf c 7
  let ranks := commRanks c.comm
  let me := commMe c.comm
  match (collBad c.fn c.desc ranks).orElse fun _ => commBad s c.comm with
  | some o => finishCmd s c.id 2 o
  | none =>
    let f (o n : Nat) : Nat := fieldAt c.desc o n
    let n := f 16 4
    let dtype := f 20 1
    let z := collSize dtype
    let others := (List.range ranks).filter fun r => r ≠ me
    let outcome := if others.isEmpty then 0 else Config.freeOutcome s.free % 3
    if outcome = 2 then finishCmd { s with free := s.free + 1 } c.id 0xA 0
    else if outcome = 1 || others.any (fun r => commMod c.comm r ≠ fabId s && (routePorts s (commMod c.comm r)).isEmpty) then
      finishCmd { collSend s c s.free with free := s.free + 1 } c.id 6 0
    else
      let (s, src, stop) :=
        if c.fn = 3 && me ≠ f 22 2 then (s, [], none) else engMap s e (BitVec.ofNat 64 (f 0 8)) (z * n) .read deviceOnly
      match stop with
      | some x => stopCmd s c e x 0
      | none =>
        let (s, mine) := readChunks s e src
        let base := s.free
        let s := { collSend s c base with free := base + 1 }
        let xs := (List.range ranks).map fun r =>
          if r = me then mine else (List.range (z * n)).map fun k => Config.freeRank base r k
        let out := collResult c.fn dtype (f 21 1) (f 22 2) me n xs
        let (s, dst, stop) := engMap s e (BitVec.ofNat 64 (f 8 8)) out.length .write deviceOnly
        match stop with
        | some x => stopCmd s c e x 0
        | none => finishCmd (writeChunks s e dst out) c.id 0 (out.length / z)

end Sys2Proof.Machine
end

