-- ==== Sys2Proof/Machine/Scene.lean ====
section
/-!
DEFINITION. Scene data: boxes, cluster records, scene records and WN8 nodes (14 R285 to R295), and the accesses that builders,
compactor and traversal units make to them (14 R296, R465).
-/
namespace Sys2Proof.Machine

/-! ### Accesses that may fail -/

/-- Why a scene operation ends: an access that stops, or a STATUS with its COUNT. -/
inductive SceneStop where
  | access (x : EngStop)
  | status (st count : Nat)
  deriving DecidableEq, Repr

/-- An operation on scene data; what it did before it stops leaves no effect. -/
abbrev SceneM (α : Type) := StateT State (Except SceneStop) α

/-- A read of `n` bytes of device memory. -/
def sceneRead (e : Agent) (va n : Nat) : SceneM (List Byte) := fun s =>
  let (s, cs, stop) := engMap s e (BitVec.ofNat 64 va) n .read deviceOnly
  match stop with
  | some x => .error (.access x)
  | none => let (s, bs) := readChunks s e cs; .ok (bs, s)

def sceneNat (e : Agent) (va n : Nat) : SceneM Nat := do return ofLeBytes (← sceneRead e va n)

/-- A write to device memory. -/
def sceneWrite (e : Agent) (va : Nat) (bs : List Byte) : SceneM PUnit := fun s =>
  let (s, cs, stop) := engMap s e (BitVec.ofNat 64 va) bs.length .write deviceOnly
  match stop with
  | some x => .error (.access x)
  | none => .ok (⟨⟩, writeChunks s e cs bs)

/-- A write to a scene record. It is ordered in G (R296), so it is among the writes that the `evpop` of its command follows, and no access of
another path misses it. -/
def recordWrite (e : Agent) (va : Nat) (bs : List Byte) : SceneM PUnit := fun s =>
  let (s, cs, stop) := engMap s e (BitVec.ofNat 64 va) bs.length .write deviceOnly
  match stop with
  | some x => .error (.access x)
  | none =>
    let mine (w : PastWrite) : Bool := w.space = 0 && cs.any fun c => match c.target with
      | .device pa => overlaps pa c.len w.addr w.old.length
      | _ => false
    let past := (showPast s fun _ w => mine w).past
    let t := writeChunks { s with engWts := 0 } e cs bs
    .ok (⟨⟩, { t with past := past, engWts := max s.engWts t.engWts, sceneWts := max s.sceneWts t.engWts })

/-- Every page of a range is translated before anything is written (R436). -/
def sceneCheck (e : Agent) (va n : Nat) (a : Access) : SceneM PUnit := fun s =>
  let (s, _, stop) := engMap s e (BitVec.ofNat 64 va) n a deviceOnly
  match stop with
  | some x => .error (.access x)
  | none => .ok (⟨⟩, s)

def sceneFail {α : Type} (st count : Nat) : SceneM α := fun _ => .error (.status st count)

/-- A fresh free value's index. -/
def sceneFree : SceneM Nat := fun s => .ok (s.free, { s with free := s.free + 1 })

/-! ### Boxes -/

/-- A box by its f32 bits: minima, maxima. -/
structure Box where
  lo : List Nat
  hi : List Nat
  deriving DecidableEq, Repr

/-- The value of finite f32 bits. -/
def valOf (x : Nat) : Dyadic := (f32.decode x).dy
def finite32 (x : Nat) : Bool := (f32.decode x).finite

/-- Finite on every axis, minimum not above maximum (Table 14.1, R437). -/
def Box.wellFormed (b : Box) : Bool :=
  (b.lo ++ b.hi).all finite32 && (b.lo.zip b.hi).all fun x => (valOf x.1).le (valOf x.2)

/-- The union of two boxes; equal bounds keep the first. -/
def Box.union (a b : Box) : Box :=
  { lo := (a.lo.zip b.lo).map fun x => if (valOf x.2).lt (valOf x.1) then x.2 else x.1,
    hi := (a.hi.zip b.hi).map fun x => if (valOf x.1).lt (valOf x.2) then x.2 else x.1 }

def unionBoxes (l : List Box) : Option Box :=
  l.foldl (fun acc b => match acc with | some a => some (a.union b) | none => some b) none

/-- x · 2^k rounded down, and up. -/
def Dyadic.floorAt (x : Dyadic) (s : Int) : Int :=
  let p := pow2 (x.e - s)
  x.m * p.1 / p.2
def Dyadic.ceilAt (x : Dyadic) (s : Int) : Int := -(x.neg.floorAt s)

/-- The least integer s ≥ −128 with an extent at most 255 · 2^s (R290). -/
def scaleFor (ext : Dyadic) : Int :=
  if ext.m ≤ 0 then -128
  else
    let p := pow2 ext.e
    let k := floorLog2 (ext.m.natAbs * p.1) p.2
    max (-128) (if ext.le { m := 255, e := k - 7 } then k - 7 else k - 6)

/-- ORIGIN + q · 2^SCALE rounded to f32 (R290). -/
def decodeBound (mode : Mode) (origin : Nat) (scale : Int) (q : Nat) : Nat :=
  f32.roundD mode ((valOf origin).add { m := q, e := scale }) (match mode with | .rd => !(origin = 0 && q = 0) | _ => false)

/-- A = 2 (w_x w_y + w_y w_z + w_z w_x) (R292). -/
def Box.area (b : Box) : Dyadic :=
  let w := (b.lo.zip b.hi).map fun x => (valOf x.2).add (valOf x.1).neg
  let x := w.getD 0 .zero
  let y := w.getD 1 .zero
  let z := w.getD 2 .zero
  ({ m := 2, e := 0 } : Dyadic).mul (((x.mul y).add (y.mul z)).add (z.mul x))

/-! ### Nodes (R289) -/

/-- A WN8 node (Table 14.3). -/
structure Node where
  origin : List Nat := [0, 0, 0]
  scale : List Nat := [0, 0, 0]
  count : Nat := 0
  root : Bool := false
  rebuilt : Bool := false
  /-- six bytes per child -/
  qbox : List (List Nat) := List.replicate 8 [0, 0, 0, 0, 0, 0]
  kinds : List Nat := List.replicate 8 0
  refs : List Nat := List.replicate 8 0
  qm : Nat := 0x3C00
  gen : Nat := 0
  refits : Nat := 0
  fence : Nat := 0
  parent : Nat := 0xFFFFFFFF
  nodes : Nat := 1
  deriving DecidableEq, Repr

def nodeOf (b : List Byte) : Node :=
  let f (o n : Nat) : Nat := fieldAt b o n
  { origin := [f 0 4, f 4 4, f 8 4], scale := [f 12 1, f 13 1, f 14 1], count := f 15 1 % 16, root := bitAt (f 15 1) 4,
    rebuilt := bitAt (f 15 1) 5,
    qbox := (List.range 8).map (fun c => (List.range 6).map fun k => f (16 + 6 * c + k) 1),
    kinds := (List.range 8).map (fun c => f (64 + c) 1), refs := (List.range 8).map (fun c => f (72 + 4 * c) 4),
    qm := f 104 2, gen := f 106 2, refits := f 108 2, fence := f 110 2, parent := f 112 4, nodes := f 116 4 }

def Node.bytes (n : Node) : List Byte :=
  n.origin.flatMap (leBytes 4) ++ n.scale.flatMap (leBytes 1) ++
    leBytes 1 (n.count + (if n.root then 16 else 0) + if n.rebuilt then 32 else 0) ++
    n.qbox.flatMap (fun q => q.flatMap (leBytes 1)) ++ n.kinds.flatMap (leBytes 1) ++ n.refs.flatMap (leBytes 4) ++
    leBytes 2 n.qm ++ leBytes 2 n.gen ++ leBytes 2 n.refits ++ leBytes 2 n.fence ++ leBytes 4 n.parent ++ leBytes 4 n.nodes ++
    leBytes 8 0

def Node.kind (n : Node) (c : Nat) : Nat := n.kinds.getD c 0
def Node.ref (n : Node) (c : Nat) : Nat := n.refs.getD c 0

/-- Children whose boxes count: neither empty nor pending nor reserved. -/
def Node.final (n : Node) (c : Nat) : Bool := n.kind c = 1 || n.kind c = 2 || n.kind c = 3

/-- The decoded box of a child (R290). -/
def Node.box (n : Node) (c : Nat) : Box :=
  let q := n.qbox.getD c []
  let d (mode : Mode) (k o : Nat) : Nat := decodeBound mode (n.origin.getD k 0) (signExt (n.scale.getD k 0) 8) (q.getD (o + k) 0)
  { lo := (List.range 3).map fun k => d .rd k 0, hi := (List.range 3).map fun k => d .ru k 3 }

/-- ORIGIN, SCALE and the QBOXes of the children that have a box, from those boxes (R290); the other QBOXes stay. -/
def Node.fit (n : Node) (boxes : List (Option Box)) : Node :=
  match unionBoxes (boxes.filterMap id) with
  | none => n
  | some u =>
    let scale := (List.range 3).map fun k => scaleFor ((valOf (u.hi.getD k 0)).add (valOf (u.lo.getD k 0)).neg)
    let q (b : Box) : List Nat :=
      let off (l : List Nat) (k : Nat) : Dyadic := (valOf (l.getD k 0)).add (valOf (u.lo.getD k 0)).neg
      ((List.range 3).map fun k => ((off b.lo k).floorAt (scale.getD k 0)).toNat) ++
        (List.range 3).map fun k => ((off b.hi k).ceilAt (scale.getD k 0)).toNat
    { n with
      origin := u.lo,
      scale := scale.map fun x => (x % 256).toNat,
      qbox := (List.range 8).map fun c => match boxes.getD c none with
        | some b => q b
        | none => n.qbox.getD c [] }

/-! ### Records -/

/-- A cluster record (Table 14.1). -/
structure ClusterRec where
  box : Box
  voff : Nat
  ntri : Nat
  nvert : Nat
  opaq : Bool
  inst : Bool

def readCluster (e : Agent) (clust i : Nat) : SceneM ClusterRec := do
  let b ← sceneRead e (clust + 32 * i) 32
  let f (o n : Nat) : Nat := fieldAt b o n
  return { box := { lo := [f 0 4, f 4 4, f 8 4], hi := [f 12 4, f 16 4, f 20 4] }, voff := f 24 4, ntri := f 28 1 % 128,
           nvert := f 29 1 % 128, opaq := bitAt (f 30 1) 0, inst := bitAt (f 30 1) 1 }

/-- A generation slot (Table 14.6). -/
structure Gen where
  tag : Nat
  state : Nat
  root : Nat
  clust : Nat
  vert : Nat
  ret : Nat
  retCnt : Nat
  retCap : Nat
  deriving DecidableEq, Repr

/-- A scene record (Table 14.5). -/
structure Scene where
  va : Nat
  base : Nat
  stride : Nat
  cap : Nat
  tri : Nat
  inst : Nat
  free : Nat
  gens : List Gen
  deriving DecidableEq, Repr

def genOff (g : Nat) : Nat := 48 + 40 * g

def readScene (e : Agent) (va : Nat) : SceneM Scene := do
  let b ← sceneRead e va 128
  let f (o n : Nat) : Nat := fieldAt b o n
  return { va := va, base := f 0 8, stride := f 8 8, cap := f 16 4, tri := f 24 8, inst := f 32 8, free := f 40 8,
           gens := (List.range 2).map (fun g =>
             let o := genOff g
             { tag := f o 2, state := f (o + 2) 1, root := f (o + 4) 4, clust := f (o + 8) 8, vert := f (o + 16) 8,
               ret := f (o + 24) 8, retCnt := f (o + 32) 4, retCap := f (o + 36) 4 }) }

/-- The slot in a state, if one is (Table 14.7). -/
def Scene.slotIn (sc : Scene) (st : Nat) : Option Nat := (List.range 2).find? fun g => (sc.gens[g]?).map (fun x => x.state) = some st

def Scene.gen (sc : Scene) (g : Nat) : Gen := sc.gens.getD g ⟨0, 0, 0, 0, 0, 0, 0, 0⟩
def Scene.setGen (sc : Scene) (g : Nat) (f : Gen → Gen) : Scene :=
  { sc with gens := (List.range 2).map fun k => if k = g then f (sc.gen k) else sc.gen k }

/-- VA of node (d, k) (R288). -/
def Scene.nodeVa (sc : Scene) (d k : Nat) : Nat := sc.base + d * sc.stride + 128 * k
def Scene.refVa (sc : Scene) (ref : Nat) : Nat := sc.nodeVa (ref / 2 ^ 29) (ref % 2 ^ 29)

/-- The line that holds a byte takes a time, if it can be reached. -/
def stampVa (e : Agent) (va w : Nat) (s : State) : State :=
  match engMap s e (BitVec.ofNat 64 va) 1 .write deviceOnly with
  | (s, [c], none) => (match c.target with | .device pa => setStamps s (e.die pa) (pa / 128) w w true | _ => s)
  | (s, _, _) => s

/-- BUILD writes to a root copy are seen by what reads it from now on (R302). -/
def revealRoot (e : Agent) (sc : Scene) (k d : Nat) (s : State) : State :=
  match engMap s e (BitVec.ofNat 64 (sc.nodeVa d k)) 128 .read deviceOnly with
  | (s, cs, none) => showPast s fun _ w => w.path = 5 && w.space = 0 && cs.any fun c => match c.target with
      | .device pa => overlaps pa c.len w.addr w.old.length
      | _ => false
  | _ => s

/-- One event writes TAG and STATE of both slots (R374): where they lie in two lines, both take the event's time. What a builder wrote to the root
copies of the generation that becomes current is seen by its rays (R302). -/
def writeGens (e : Agent) (sc : Scene) : SceneM PUnit := do
  let two (g : Nat) : List Byte := leBytes 2 (sc.gen g).tag ++ leBytes 1 (sc.gen g).state ++ leBytes 1 0
  sceneCheck e (sc.va + genOff 0) 44 .write
  let before := (← get).engWts
  modify fun s => { s with engWts := 0 }
  recordWrite e (sc.va + genOff 0) (two 0)
  recordWrite e (sc.va + genOff 1) (two 1)
  modify fun s =>
    let s := stampVa e (sc.va + genOff 1) s.engWts (stampVa e (sc.va + genOff 0) s.engWts s)
    let s := (List.range 8).foldl (fun s d => match sc.slotIn 2 with
      | some g => revealRoot e sc (sc.gen g).root d s
      | none => s) s
    { s with engWts := max before s.engWts }

def readNode (e : Agent) (sc : Scene) (ref : Nat) : SceneM Node := do return nodeOf (← sceneRead e (sc.refVa ref) 128)
def writeNode (e : Agent) (sc : Scene) (ref : Nat) (n : Node) : SceneM PUnit := sceneWrite e (sc.refVa ref) n.bytes

end Sys2Proof.Machine
end

