-- ==== Sys2Proof/Machine/Build.lean ====
section
/-!
DEFINITION. The builder engines and the compactor (14 R292 to R302, 21 R374 to R376, 25 R436, R437).
-/
namespace Sys2Proof.Machine

/-! ### Fences (R301) -/

def fencesOf (s : State) (asid : BitVec 12) : List Nat := (look s.ctxRes asid.toNat {}).fences

def openFences (s : State) (asid : BitVec 12) (fs : List Nat) : State :=
  { s with ctxRes := change s.ctxRes asid.toNat {} (fun r : CtxRes => { r with fences := r.fences ++ fs }) }

/-- FENCE_SIGNAL: the fence closes and the branches parked on it go on (R301, R306). -/
def signalFence (s : State) (asid : BitVec 12) (f : Nat) : State :=
  let ours (r : Ray) : Bool := ((s.cmd r.cmd).map fun c => c.asid) = some asid
  let free (r : Ray) : Ray :=
    if ours r then
      { r with todo := (r.parked.filter (fun x : Nat × RayTask => x.1 = f)).map (fun x => x.2) ++ r.todo,
               parked := r.parked.filter fun x : Nat × RayTask => x.1 ≠ f }
    else r
  { s with ctxRes := change s.ctxRes asid.toNat {} (fun r : CtxRes => { r with fences := r.fences.filter fun x => x ≠ f }),
           rays := s.rays.map free }

def signalAll (s : State) (asid : BitVec 12) (fs : List Nat) : State := fs.foldl (fun s f => signalFence s asid f) s

/-! ### Pools (R288) -/

def Scene.bitmapVa (sc : Scene) (d : Nat) : Nat := sc.free + d * 128 * ((sc.cap + 1023) / 1024)

/-- Sets or clears the bit of a node; whether it changed. -/
def setNodeBit (e : Agent) (sc : Scene) (d k : Nat) (on : Bool) : SceneM Bool := do
  let va := sc.bitmapVa d + k / 8
  let old ← sceneNat e va 1
  if old.testBit (k % 8) = on then return false
  else do
    sceneWrite e va (leBytes 1 (if on then old + 2 ^ (k % 8) else old - 2 ^ (k % 8)))
    return true

/-- The lowest bit from byte `k` on that is clear in every bitmap of `ds`. -/
def clearBit (e : Agent) (sc : Scene) (ds : List Nat) : Nat → Nat → SceneM Nat
  | 0, _ => sceneFail 8 0
  | fuel + 1, k => do
    let used ← ds.foldlM (fun m d => do return m ||| (← sceneNat e (sc.bitmapVa d + k) 1)) 0
    match (List.range 8).find? fun b => !used.testBit b && 8 * k + b < sc.cap with
    | some b => return 8 * k + b
    | none => clearBit e sc ds fuel (k + 1)

/-- Takes the lowest node slot that is clear in every pool of `ds`. -/
def takeSlot (e : Agent) (sc : Scene) (ds : List Nat) : SceneM Nat := do
  let k ← clearBit e sc ds ((sc.cap + 7) / 8) 0
  ds.forM fun d => do let _ ← setNodeBit e sc d k true
  return k

def pools : List Nat := List.range 8

/-! ### Morton codes (R297) -/

/-- The centroid of a box, f32 bits per axis. -/
def centroid (b : Box) : List Nat :=
  (b.lo.zip b.hi).map fun x => f32.roundD .rn (((valOf x.1).add (valOf x.2)).mul { m := 1, e := -1 }) false

/-- Sat(floor(1024 (c - lo) / (hi - lo)), 0, 1023), 0 for an empty range. -/
def mortonAxis (c lo hi : Nat) : Nat :=
  let n := (valOf c).add (valOf lo).neg
  let d := (valOf hi).add (valOf lo).neg
  if d.m ≤ 0 then 0
  else
    let p := pow2 (n.e - d.e)
    (sat (1024 * n.m * p.1 / (d.m * p.2)) 0 1023).toNat

def interleave (x y z : Nat) : Nat :=
  (List.range 10).foldl (fun a b => a + (x / 2 ^ b % 2) * 2 ^ (3 * b + 2) + (y / 2 ^ b % 2) * 2 ^ (3 * b + 1) + (z / 2 ^ b % 2) * 2 ^ (3 * b)) 0

/-- Codes of boxes against the centroid box of those that are well formed; a malformed one has code 0. -/
def mortonCodes (bs : List (Option Box)) : List Nat :=
  let cs := bs.map fun b => b.map centroid
  let range := unionBoxes (cs.filterMap fun c => c.map fun x => { lo := x, hi := x })
  cs.map fun c => match c, range with
    | some x, some r =>
      let q (k : Nat) : Nat := mortonAxis (x.getD k 0) (r.lo.getD k 0) (r.hi.getD k 0)
      interleave (q 0) (q 1) (q 2)
    | _, _ => 0

/-- The well-formed box of a cluster record. -/
def ClusterRec.good (c : ClusterRec) : Option Box := if c.box.wellFormed then some c.box else none

def malformed (l : List (Option Box)) : Nat := if l.any (fun b => b.isNone) then 0xB else 0

/-- `n` free bytes: what a work area holds afterwards (R297, R436). -/
def freeBytes (n : Nat) : SceneM (List Byte) := do
  let f ← sceneFree
  return (List.range n).map fun i => Config.freeByte (f * 2 ^ 48 + i)

/-- A command's outcome: STATUS and COUNT, or what stops it. -/
def runScene (s : State) (c : Command) (e : Agent) (m : SceneM (Nat × Nat)) : State :=
  match m s with
  | .ok (r, s) => finishCmd s c.id r.1 r.2
  | .error (.status st n) => finishCmd (signalAll s c.asid c.opened) c.id st n
  | .error (.access x) =>
    let s := match x with
      | .fail _ _ _ _ => signalAll s c.asid c.opened
      | .lost _ _ => signalAll s c.asid c.opened
      | _ => s
    stopCmd s c e x 0

/-- `cop.build.morton` (R297). -/
def runMorton (s : State) (c : Command) : State :=
  let e := agentOf c 5
  let f (o n : Nat) : Nat := fieldAt c.desc o n
  let key := f 8 8
  let n := f 20 4
  match badField [(0, !vaOk (f 0 8) 32), (8, !vaOk key 8), (20, n = 0 || 2 ^ 28 < n), (24, f 24 8 ≠ 0)] with
  | some o => finishCmd s c.id 2 o
  | none => runScene s c e do
    let first := f 16 4
    sceneCheck e (f 0 8 + 32 * first) (32 * n) .read
    sceneCheck e key (8 * n) .write
    let bs ← (List.range n).mapM fun j => do return (← readCluster e (f 0 8) (first + j)).good
    sceneWrite e key (((mortonCodes bs).zip (List.range n)).flatMap fun x => leBytes 4 x.1 ++ leBytes 4 (first + x.2))
    return (malformed bs, n)

/-- Pairs (code, cluster index). -/
def readPairs (e : Agent) (key lo hi : Nat) : SceneM (List (Nat × Nat)) := do
  let b ← sceneRead e (key + 8 * lo) (8 * (hi - lo))
  return (items 8 (hi - lo) b).map fun x => (x % 2 ^ 32, x / 2 ^ 32)

/-- `cop.build.sort` (R297). -/
def runSort (s : State) (c : Command) : State :=
  let e := agentOf c 5
  let f (o n : Nat) : Nat := fieldAt c.desc o n
  let key := f 0 8
  let n := f 16 4
  match badField [(0, !vaOk key 8), (8, !vaOk (f 8 8) 1), (16, n = 0 || 2 ^ 28 < n), (20, f 20 4 ≠ 0), (24, f 24 8 ≠ 0)] with
  | some o => finishCmd s c.id 2 o
  | none => runScene s c e do
    sceneCheck e key (8 * n) .read
    sceneCheck e key (8 * n) .write
    sceneCheck e (f 8 8) (8 * n) .write
    let ps ← readPairs e key 0 n
    sceneWrite e (f 8 8) (← freeBytes (8 * n))
    sceneWrite e key ((sortBy (fun x : Nat × Nat => x.1) ps).flatMap fun x => leBytes 4 x.1 ++ leBytes 4 x.2)
    return (0, n)

/-! ### Building a subtree (R298) -/

/-- An element of a build: its code, the child it becomes, its box. -/
structure Elem where
  code : Nat
  kind : Nat
  ref : Nat
  box : Box

/-- Consecutive runs of equal keys. -/
def runsBy (key : Elem → Nat) : List Elem → List (List Elem)
  | [] => []
  | x :: r => match runsBy key r with
    | (y :: g) :: gs => if key x = key y then (x :: y :: g) :: gs else [x] :: (y :: g) :: gs
    | gs => [x] :: gs

/-- Consecutive runs of given sizes. -/
def splitSizes : List Nat → List Elem → List (List Elem)
  | [], _ => []
  | n :: r, l => l.take n :: splitSizes r (l.drop n)

/-- p moves down while every code shares the next three bits. -/
def sharedLevel (l : List Elem) : Nat → Nat → Nat
  | 0, p => p
  | fuel + 1, p =>
    let key (x : Elem) : Nat := x.code / 2 ^ (27 - p) % 8
    if p < 30 && l.all (fun x => key x = (l.map key).headD 0) then sharedLevel l fuel (p + 3) else p

/-- The children of a range at level p: the level they are split at, and the groups. -/
def splitRange (p : Nat) (l : List Elem) : Nat × List (List Elem) :=
  if l.length ≤ 8 then (p, l.map fun x => [x])
  else
    let p := sharedLevel l 10 p
    if 30 ≤ p then
      (p, splitSizes ((List.range 8).map fun i => l.length / 8 + if i < l.length % 8 then 1 else 0) l)
    else (p, runsBy (fun x => x.code / 2 ^ (27 - p) % 8) l)

/-- Fills a node with children: kind, reference, exact box. -/
def Node.withKids (n : Node) (kids : List (Nat × Nat × Box)) : Node :=
  let pad (l : List Nat) : List Nat := l ++ List.replicate (8 - l.length) 0
  let n : Node := { n with
    count := kids.length,
    kinds := pad (kids.map fun k : Nat × Nat × Box => k.1),
    refs := pad (kids.map fun k : Nat × Nat × Box => k.2.1),
    qbox := List.replicate 8 [0, 0, 0, 0, 0, 0] }
  n.fit (kids.map fun k => some k.2.2)

def boxOf (l : List Elem) : Box := (unionBoxes (l.map fun x => x.box)).getD { lo := [0, 0, 0], hi := [0, 0, 0] }

/-- `build(range, p)`: nodes in depth-first preorder in pool d; the reference and the number of nodes. -/
def buildNode (e : Agent) (sc : Scene) (tag fence : Nat) (rebuilt : Bool) (d : Nat) : Nat → Nat → Nat → List Elem → SceneM (Nat × Nat)
  | 0, _, _, _ => sceneFail 8 0
  | fuel + 1, p, parent, l => do
    let k ← takeSlot e sc [d]
    let ref := d * 2 ^ 29 + k
    let (p, groups) := splitRange p l
    let kids ← groups.mapM fun g => do
      match g with
      | [x] => return ((x.kind, x.ref, x.box), 0)
      | _ => do
        let (r, n) ← buildNode e sc tag fence rebuilt d fuel (p + 3) ref g
        return ((1, r, boxOf g), n)
    let n := kids.foldl (fun n x => n + x.2) 1
    let node : Node := { gen := tag, fence := fence, rebuilt := rebuilt, parent := parent, nodes := n }
    writeNode e sc ref (node.withKids (kids.map fun x => x.1))
    return (ref, n)

/-- Makes child o of every root copy final (R298, R376): its kind, reference and box, and the change in NODES. -/
def rewriteRoots (e : Agent) (sc : Scene) (g o kind ref : Nat) (box : Option Box) (more less : Nat) : SceneM PUnit :=
  pools.forM fun d => do
    let r := d * 2 ^ 29 + (sc.gen g).root
    let n ← readNode e sc r
    let boxes := (List.range 8).map fun c => if c = o then box else if n.final c then some (n.box c) else none
    let n := { n with
      kinds := n.kinds.set o kind,
      refs := n.refs.set o ref,
      qbox := if kind = 0 then n.qbox.set o [0, 0, 0, 0, 0, 0] else n.qbox,
      nodes := n.nodes + more - less }
    writeNode e sc r (n.fit boxes)

/-- STATUS of a failure met while a subtree is built, if it is one (R437). -/
def failStatus (x : SceneStop) : Option Nat :=
  match x with
  | .status st _ => some st
  | .access (.fail _ _ _ _) => some 3
  | .access (.lost _ _) => some 4
  | _ => none

/-- The fault-ring entry of a failed access (R435). -/
def noteFailure (s : State) (e : Agent) (x : SceneStop) : State :=
  match x with
  | .access (.fail cls code va _) => engEntry s e cls code va
  | .access (.lost va _) => engEntry s e 0 0 va
  | _ => s

/-! ### Generations (R294) -/

def nextTag (sc : Scene) : Nat := ((sc.slotIn 2).map fun g => (sc.gen g).tag).getD 0 % 65535 + 1

/-- The building slot becomes current, and the current one live. -/
def Scene.publish (sc : Scene) (g : Nat) : Scene :=
  let sc := match sc.slotIn 2 with
    | some h => sc.setGen h fun x => { x with state := 3 }
    | none => sc
  sc.setGen g fun x => { x with state := 2 }

/-- A free slot, if no slot is building (R294). -/
def Scene.freeSlot (sc : Scene) : Option Nat := if (sc.slotIn 1).isSome then none else sc.slotIn 0

/-- A slot is taken as building: a tag and a root slot in every pool. -/
def takeGen (e : Agent) (sc : Scene) (g : Nat) : SceneM Scene := do
  let k ← takeSlot e sc pools
  let tag := nextTag sc
  let sc := sc.setGen g fun x => { x with state := 1, tag := tag, root := k }
  recordWrite e (sc.va + genOff g + 4) (leBytes 4 k)
  writeGens e sc
  return sc

def writeRoots (e : Agent) (sc : Scene) (g : Nat) (n : Node) : SceneM PUnit :=
  pools.forM fun d => writeNode e sc (d * 2 ^ 29 + (sc.gen g).root) n

def publishIf (e : Agent) (sc : Scene) (g : Nat) (pub : Bool) : SceneM PUnit := if pub then writeGens e (sc.publish g) else pure ⟨⟩

/-! ### `.emit` (R298) -/

/-- The elements of a range of pairs: code, and the element or none for a malformed cluster. -/
def readElems (e : Agent) (clust : Nat) (ps : List (Nat × Nat)) : SceneM (List (Nat × Option Elem)) :=
  ps.mapM fun p => do
    let r ← readCluster e clust p.2
    return (p.1, r.good.map fun b => { code := p.1, kind := if r.inst then 3 else 2, ref := if r.inst then r.voff else p.2, box := b })

def octant (code : Nat) : Nat := code / 2 ^ 27 % 8

structure EmitDesc where
  scene : Nat
  key : Nat
  lo : Nat
  hi : Nat
  root : Bool
  pub : Bool
  fence : Nat

def emitDesc (d : List Byte) : EmitDesc :=
  { scene := fieldAt d 0 8, key := fieldAt d 8 8, lo := fieldAt d 16 4, hi := fieldAt d 20 4, root := bitAt (fieldAt d 24 1) 0,
    pub := bitAt (fieldAt d 24 1) 1, fence := fieldAt d 26 2 % 4096 }

def emitBad (raw : List Byte) : Option Nat :=
  let d := emitDesc raw
  badField [(0, !vaOk d.scene 64), (8, !vaOk d.key 8), (16, d.hi ≤ d.lo),
    (24, 4 ≤ fieldAt raw 24 2 || (!d.root && d.pub)),
    (26, d.fence = 0 || (d.root && 4088 < d.fence)), (27, 16 ≤ fieldAt raw 27 5)]

/-- Root mode. The COUNT of a root copy is the highest present octant plus one, not 8 (DESIGN CHOICE, notes/assumptions/91.md). -/
def emitRoot (c : Command) (e : Agent) (d : EmitDesc) : SceneM (Nat × Nat) := do
  let sc ← readScene e d.scene
  match sc.freeSlot with
  | none => sceneFail 7 0
  | some g => do
    let ps ← readPairs e d.key d.lo d.hi
    let els ← readElems e (sc.gen g).clust ps
    let octs := (List.range 8).filter fun o => ps.any fun p => octant p.1 = o
    let fs := octs.map fun o => d.fence + o
    let busy := fencesOf (← get) c.asid
    if fs.any (fun f => busy.contains f) then sceneFail 9 0
    else do
      modify fun s => openFences s c.asid fs
      let sc ← takeGen e sc g
      let box (o : Nat) : Option Box := unionBoxes (els.filterMap fun x => if octant x.1 = o then x.2.map (fun y => y.box) else none)
      let top := octs.foldl (fun m o => max m (o + 1)) 0
      let n : Node :=
        { count := top, root := true, gen := (sc.gen g).tag,
          kinds := (List.range 8).map (fun o => if octs.contains o then 4 else 0),
          refs := (List.range 8).map (fun o => if octs.contains o then d.fence + o else 0) }
      writeRoots e sc g (n.fit ((List.range 8).map box))
      publishIf e sc g d.pub
      return (malformed (els.map fun x => x.2.map fun y => y.box), 8)

/-- The generation and child that a subtree-mode `.emit` fills: a building or current slot whose root copy holds the octant's child
pending on the fence. -/
def emitTarget (e : Agent) (sc : Scene) (d o fence : Nat) : SceneM Nat := do
  let slots := (List.range 2).filter fun g => (sc.gen g).state = 1 || (sc.gen g).state = 2
  let found ← slots.filterM fun g => do
    let n ← readNode e sc (d * 2 ^ 29 + (sc.gen g).root)
    return (n.kind o = 4 && n.ref o % 65536 = fence)
  match found with
  | g :: _ => return g
  | [] => sceneFail 7 0

/-- The checks of subtree mode: the scene, its slot, the octant and the pairs. -/
def emitCheck (e : Agent) (die : Nat) (d : EmitDesc) : SceneM (Scene × Nat × Nat × List (Nat × Nat)) := do
  let sc ← readScene e d.scene
  let ps ← readPairs e d.key d.lo d.hi
  let o := octant ((ps.map fun p => p.1).headD 0)
  if ps.any (fun p => octant p.1 ≠ o) then sceneFail 2 16
  else do
    let g ← emitTarget e sc die o d.fence
    return (sc, g, o, ps)

/-- The child that the fence of a subtree-mode `.emit` names, where its pairs cannot be read: the generation and the octant whose pending child waits for it. -/
def emitPlace (e : Agent) (die : Nat) (d : EmitDesc) : SceneM (Option (Scene × Nat × Nat)) := do
  let sc ← readScene e d.scene
  let slots := (List.range 2).filter fun g => (sc.gen g).state = 1 || (sc.gen g).state = 2
  let found ← slots.mapM fun g => do
    let n ← readNode e sc (die * 2 ^ 29 + (sc.gen g).root)
    return ((List.range 8).find? fun o => n.kind o = 4 && n.ref o % 65536 = d.fence).map fun o => (sc, g, o)
  return found.findSome? id

/-- A subtree-mode `.emit` fails (R437): its child becomes KIND 0 in every root copy. -/
def emitFails (e : Agent) (sc : Scene) (g o st : Nat) (x : SceneStop) (s : State) : Except SceneStop ((Nat × Nat) × State) :=
  let s := match rewriteRoots e sc g o 0 0 none 0 0 s with
    | .ok (_, s) => s
    | .error _ => s
  .ok ((st, 0), noteFailure s e x)

/-- A failure of the checks of subtree mode: the pairs that cannot be read fail the child that the fence names. -/
def emitUnread (e : Agent) (die : Nat) (d : EmitDesc) (x : SceneStop) (s : State) : Except SceneStop ((Nat × Nat) × State) :=
  match x, failStatus x with
  | .access _, some st => match emitPlace e die d s with
    | .ok (some (sc, g, o), s) => emitFails e sc g o st x s
    | _ => .error x
  | _, _ => .error x

/-- The subtree of one octant, and its rewrite. -/
def emitBuild (e : Agent) (die : Nat) (d : EmitDesc) (sc : Scene) (g o : Nat) (ps : List (Nat × Nat)) : SceneM (Nat × Nat) :=
  let build : SceneM (Nat × Nat) := do
    let els ← readElems e (sc.gen g).clust ps
    let good := els.filterMap fun x => x.2
    let bad := malformed (els.map fun x => x.2.map fun y => y.box)
    match good with
    | [] => do rewriteRoots e sc g o 0 0 none 0 0; return (bad, 0)
    | [x] => do rewriteRoots e sc g o x.kind x.ref (some x.box) 0 0; return (bad, 0)
    | _ => do
      let (r, n) ← buildNode e sc (sc.gen g).tag d.fence false die 40 3 0xFFFFFFFF good
      rewriteRoots e sc g o 1 r (some (boxOf good)) n 0
      return (bad, n)
  fun s => match build s with
    | .ok r => .ok r
    | .error x => match failStatus x with
      | none => .error x
      | some st => emitFails e sc g o st x s

/-- What ROOT_REWRITE does for a subtree-mode `.emit` (R298, R437). -/
def emitSub (e : Agent) (die : Nat) (d : EmitDesc) : SceneM (Nat × Nat) := fun s =>
  match emitCheck e die d s with
  | .ok ((sc, g, o, ps), s) => emitBuild e die d sc g o ps s
  | .error x => emitUnread e die d x s

/-- `cop.build.emit` starts (R298): root mode is performed whole; subtree mode is checked, and goes on with ROOT_REWRITE. -/
def runEmit (s : State) (c : Command) : State :=
  let e := agentOf c 5
  match emitBad c.desc with
  | some o => finishCmd s c.id 2 o
  | none =>
    let d := emitDesc c.desc
    if d.root then runScene s c e (emitRoot c e d)
    else
      match emitCheck e (dieOf c.core) d s with
      | .ok (_, s) => s.modCmd c.id fun c => { c with state := .running, todo := [0] }
      | .error (.status st n) => finishCmd s c.id st n
      | .error (.access x) => match emitUnread e (dieOf c.core) d (.access x) s with
        | .ok _ => s.modCmd c.id fun c => { c with state := .running, todo := [0] }
        | .error _ => stopCmd s c e x 0

/-! ### `.refit` and `.update` (R299) -/

structure RefitDesc where
  scene : Nat
  list : Nat
  n : Nat
  pub : Bool
  fence : Nat
  tmp : Nat

def refitDesc (d : List Byte) : RefitDesc :=
  { scene := fieldAt d 0 8, list := fieldAt d 8 8, n := fieldAt d 16 1 % 16, pub := bitAt (fieldAt d 16 1) 7,
    fence := fieldAt d 18 2 % 4096, tmp := fieldAt d 24 8 }

def refitBad (raw : List Byte) : Option Nat :=
  let d := refitDesc raw
  badField [(0, !vaOk d.scene 64), (8, !vaOk d.list 4), (16, d.n = 0 || 8 < d.n || bits (fieldAt raw 16 1) 6 4 ≠ 0),
    (17, fieldAt raw 17 1 ≠ 0), (18, d.fence = 0 || 4095 < d.fence + d.n - 1), (19, 16 ≤ fieldAt raw 19 5), (24, !vaOk d.tmp 1)]

def RefitDesc.fences (d : RefitDesc) : List Nat := (List.range d.n).map fun i => d.fence + i

/-- The fences a `.refit` or `.update` opens when it is accepted (R301); none if one of them is open (R437). -/
def fencesAtAccept (s : State) (c : Command) : List Nat :=
  if c.major = 0x3B && (c.fn = 3 || c.fn = 4) && (refitBad c.desc).isNone then
    let fs := (refitDesc c.desc).fences
    if fs.any (fun f => (fencesOf s c.asid).contains f) then [] else fs
  else []

/-- The start of R299: the slot, the root copies with their pending children, the publication. A listed subtree is kept as its place
in the list, its child of the root and its reference. -/
def refitStart (c : Command) (e : Agent) (d : RefitDesc) : SceneM (Nat × List Nat) := do
  let sc ← readScene e d.scene
  match sc.slotIn 2, sc.freeSlot with
  | some cur, some g => do
    let refs := items 4 d.n (← sceneRead e d.list (4 * d.n))
    let root ← readNode e sc (dieOf c.core * 2 ^ 29 + (sc.gen cur).root)
    let child (r : Nat) : Option Nat := (List.range 8).find? fun o => root.kind o = 1 && root.ref o = r
    let kids := refs.filterMap child
    if kids.length < d.n || kids.eraseDups.length < d.n then sceneFail 7 0
    else if c.opened.isEmpty then sceneFail 9 0
    else do
      let total ← refs.foldlM (fun n r => do return n + (← readNode e sc r).nodes) 0
      let list := sc.gen (if d.pub then g else cur)
      if list.retCap < list.retCnt + total then sceneFail 8 0
      else do
        let sc ← takeGen e sc g
        let place (o : Nat) : Option Nat := (List.range d.n).find? fun i => kids[i]? = some o
        let n := { root with
          root := true, gen := (sc.gen g).tag, fence := 0, qm := 0x3C00, refits := 0, parent := 0xFFFFFFFF,
          kinds := (List.range 8).map (fun o => if (place o).isSome then 4 else root.kind o),
          refs := (List.range 8).map (fun o => match place o with | some i => d.fence + i | none => root.ref o) }
        writeRoots e sc g n
        publishIf e sc g d.pub
        return (g, (List.range d.n).map fun i => i + 8 * (kids.getD i 0 + 8 * refs.getD i 0))
  | _, _ => sceneFail 7 0

/-- `.refit` and `.update` start. -/
def runRefit (s : State) (c : Command) : State :=
  let e := agentOf c 5
  match refitBad c.desc with
  | some o => finishCmd s c.id 2 o
  | none =>
    match refitStart c e (refitDesc c.desc) s with
    | .ok ((g, todo), s) => s.modCmd c.id fun c => { c with state := .running, slot := g, todo := todo, count := 8 }
    | .error (.status st n) => finishCmd (signalAll s c.asid c.opened) c.id st n
    | .error (.access x) => runScene s c e fun _ => .error (.access x)

/-- A subtree as it stands: a cluster or instance child with its box now, or a node with its children. -/
inductive OldTree where
  | leaf (kind ref : Nat) (box : Option Box)
  | node (ref : Nat) (n : Node) (kids : List OldTree)

/-- Reads a subtree, with the boxes of the clusters of a stream. An instance child keeps its decoded box. -/
def readTree (e : Agent) (sc : Scene) (clust : Nat) : Nat → Nat → SceneM OldTree
  | 0, _ => sceneFail 8 0
  | fuel + 1, ref => do
    let n ← readNode e sc ref
    let kids ← ((List.range n.count).filter fun c => n.final c).mapM fun c => do
      match n.kind c with
      | 1 => readTree e sc clust fuel (n.ref c)
      | 2 => return .leaf 2 (n.ref c) (← readCluster e clust (n.ref c)).good
      | _ => return .leaf 3 (n.ref c) (some (n.box c))
    return .node ref n kids

/-- The leaves in depth-first order. -/
def OldTree.leaves : Nat → OldTree → List (Nat × Nat × Option Box)
  | 0, _ => []
  | _ + 1, .leaf k r b => [(k, r, b)]
  | fuel + 1, .node _ _ kids => kids.flatMap (OldTree.leaves fuel)

/-- The nodes in depth-first preorder. -/
def OldTree.refs : Nat → OldTree → List Nat
  | 0, _ => []
  | _ + 1, .leaf _ _ _ => []
  | fuel + 1, .node r _ kids => r :: kids.flatMap (OldTree.refs fuel)

/-- The exact box: the union over the well-formed clusters beneath. -/
def OldTree.box (t : OldTree) : Option Box := unionBoxes ((t.leaves 64).filterMap fun x => x.2.2)

/-- CNODE and CCLUS, if they are finite. -/
def costOf (bits : Half) : Option Dyadic := let v := f16.decode bits.toNat; if v.finite then some v.dy else none

def addCost (a b : Option Dyadic) : Option Dyadic := match a, b with | some x, some y => some (x.add y) | _, _ => none
def scaleCost (a : Option Dyadic) (x : Dyadic) : Option Dyadic := a.map fun y => y.mul x

/-- R292, from the costs of the internal children in order. -/
def Node.cost (p : Profiles) (n : Node) (inner : List (Option Dyadic)) : Option Dyadic :=
  let kids := (List.range n.count).filter fun c => n.final c
  let area := ((unionBoxes (kids.map n.box)).map Box.area).getD .zero
  let leaf := (kids.filter fun c => n.kind c ≠ 1).foldl (fun a c => addCost a (scaleCost (costOf p.cclus) (n.box c).area))
    (scaleCost (costOf p.cnode) area)
  inner.foldl addCost leaf

/-- The cost of a subtree as its nodes stand. -/
def OldTree.cost (p : Profiles) : Nat → OldTree → Option Dyadic
  | 0, _ => none
  | _ + 1, .leaf _ _ _ => none
  | fuel + 1, .node _ n kids =>
    n.cost p (kids.filterMap fun k => match k with
      | .leaf _ _ _ => none
      | t => some (OldTree.cost p fuel t))

/-- QM_new (R292); a free value where CNODE or CCLUS is not finite, so that the rule gives none. -/
def newQm (old : Nat) (co cn : Option Dyadic) (free : Nat) : Nat :=
  let v := f16.decode old
  if !v.finite then 0x3C00
  else match co, cn with
    | some a, some b =>
      if b.m = 0 then 0x3C00
      else
        let x := v.dy.mul a
        let neg := decide (x.m < 0) != decide (b.m < 0)
        let p := pow2 (x.e - b.e)
        if neg || x.m = 0 then 0 else min 0x7BFF (f16.round .rn false (x.m.natAbs * p.1) (b.m.natAbs * p.2))
    | _, _ => (Config.freeByte (free * 2 ^ 48)).toNat + 256 * (Config.freeByte (free * 2 ^ 48 + 1)).toNat

/-- Copies a subtree with its boxes recomputed: its reference, its nodes, the references in preorder, its cost, QM and REFITS. -/
def copyTree (e : Agent) (sc : Scene) (p : Profiles) (tag fence d : Nat) :
    Nat → OldTree → Nat → SceneM (Nat × Nat × List Nat × Option Dyadic × Nat × Nat)
  | 0, _, _ => sceneFail 8 0
  | _ + 1, .leaf _ _ _, _ => sceneFail 8 0
  | fuel + 1, .node r n kids, parent => do
    let k ← takeSlot e sc [d]
    let ref := d * 2 ^ 29 + k
    let live := kids.filter fun t => t.box.isSome
    let out ← live.mapM fun t => do
      let b := t.box.getD { lo := [0, 0, 0], hi := [0, 0, 0] }
      match t with
      | .leaf kd rf _ => return ((kd, rf, b), 0, ([] : List Nat), (none : Option (Option Dyadic)))
      | t => do
        let (rf, m, rs, co, _, _) ← copyTree e sc p tag fence d fuel t ref
        return ((1, rf, b), m, rs, some co)
    let m := out.foldl (fun m x => m + x.2.1) 1
    let node := ({ n with gen := tag, fence := fence, parent := parent, root := false, nodes := m,
                          refits := min 65535 (n.refits + 1) } : Node).withKids (out.map fun x => x.1)
    let co := node.cost p (out.filterMap fun x => x.2.2.2)
    let free ← sceneFree
    let qm := newQm n.qm (OldTree.cost p 64 (.node r n kids)) co free
    writeNode e sc ref { node with qm := qm }
    return (ref, m, ref :: out.flatMap (fun x => x.2.2.1), co, qm, node.refits)

/-- A listed subtree after its copy: its copy's reference, box, node lines and nodes, STATUS, and the elements of a rebuild where the copy is given
up, its nodes then freed. -/
structure Refitted where
  ref : Nat := 0
  box : Option Box := none
  lines : Nat := 0
  refs : List Nat := []
  status : Nat := 0
  rebuild : Option (List (Nat × Nat × Box)) := none

/-- Nodes are free again. -/
def freeNodes (e : Agent) (sc : Scene) (refs : List Nat) : SceneM PUnit :=
  refs.forM fun r => do let _ ← setNodeBit e sc (r / 2 ^ 29) (r % 2 ^ 29) false

/-- The copy of a listed subtree (R299), and whether it is rebuilt. -/
def refitCopy (c : Command) (e : Agent) (sc : Scene) (tag fence die : Nat) (t : OldTree) : SceneM Refitted := do
  let bad := malformed ((t.leaves 64).map fun x => x.2.2)
  match t.box with
  | none => return { status := bad }
  | some b => do
    let (ref, n, refs, _, qm, refits) ← copyTree e sc c.prof tag fence die 64 t 0xFFFFFFFF
    let p := c.prof
    if c.fn = 4 && (fCompare f16 2 qm p.qmin.toNat || (p.refitMax ≠ 0 && p.refitMax.toNat < refits)) then do
      freeNodes e sc refs
      let good := (t.leaves 64).filterMap fun x => x.2.2.map fun y => (x.1, x.2.1, y)
      return { box := some b, lines := n, status := bad, rebuild := some good }
    else return { ref := ref, box := some b, lines := n, refs := refs, status := bad }

/-- The subtree that takes the place of a listed one: kind, reference, node lines it adds, and its nodes. A copy that is given up has been written and
counted (R376). A rebuild sorts the subtree's clusters as they stand in it in depth-first order, which decides among equal codes (DESIGN CHOICE,
notes/assumptions/92.md). -/
def refitTree (e : Agent) (d : RefitDesc) (sc : Scene) (tag fence die : Nat) (x : Refitted) : SceneM (Nat × Nat × Nat × Nat) := do
  match x.rebuild with
  | none => return (if x.box.isSome then 1 else 0, x.ref, 0, x.lines)
  | some good => do
    let codes := mortonCodes (good.map fun x => some x.2.2)
    sceneWrite e d.tmp (← freeBytes (16 * good.length))
    let els := (codes.zip good).map fun x : Nat × Nat × Nat × Box => { code := x.1, kind := x.2.1, ref := x.2.2.1, box := x.2.2.2 : Elem }
    let (ref, m) ← buildNode e sc tag fence true die 40 0 0xFFFFFFFF (sortBy (fun x : Elem => x.code) els)
    return (1, ref, m, m)

/-- The old nodes enter the retire list of the current generation, in list order (R295, R376); the slot they entered. -/
def retireNodes (e : Agent) (c : Command) (sc : Scene) (i : Nat) (refs : List Nat) : SceneM Nat := do
  match sc.slotIn 2 with
  | none => sceneFail 7 0
  | some g => do
    let x := sc.gen g
    if x.retCap < x.retCnt + refs.length then sceneFail 8 0
    else do
      let later := c.retired.foldl (fun n r => if r.1 / 8 = g && i < r.1 % 8 then n + r.2 else n) 0
      let at_ := x.ret + 4 * (x.retCnt - later)
      let tail ← sceneRead e at_ (4 * later)
      sceneWrite e at_ (refs.flatMap (leBytes 4) ++ tail)
      recordWrite e (sc.va + genOff g + 32) (leBytes 4 (x.retCnt + refs.length))
      return g

/-- One listed subtree: copied or rebuilt, retired, made final. Its node lines, STATUS, and its entries in the retire list. One that fails leaves its
copy written and free again, and the child refers to the old subtree (R437, R376). -/
def refitOne (c : Command) (e : Agent) (d : RefitDesc) (i o old : Nat) : SceneM (Nat × Nat × Option (Nat × Nat)) := do
  let sc ← readScene e d.scene
  let g := c.slot
  let die := old / 2 ^ 29
  let tag := (sc.gen g).tag
  let copy : SceneM (OldTree × Refitted) := do
    let t ← readTree e sc (sc.gen g).clust 64 old
    return (t, ← refitCopy c e sc tag (d.fence + i) die t)
  let finish (t : OldTree) (x : Refitted) : SceneM (Nat × Nat × Option (Nat × Nat)) := do
    let (kind, ref, more, n) ← refitTree e d sc tag (d.fence + i) die x
    let refs := t.refs 64
    let h ← retireNodes e c sc i refs
    rewriteRoots e sc g o kind ref x.box n refs.length
    return (x.lines + more + 8, x.status, some (i + 8 * h, refs.length))
  let back : SceneM PUnit := do
    let r ← readNode e sc (dieOf c.core * 2 ^ 29 + (sc.gen (1 - g)).root)
    rewriteRoots e sc g o 1 old (some (r.box o)) 0 0
  let failed (x : SceneStop) (lines : Nat) (s : State) : Except SceneStop ((Nat × Nat × Option (Nat × Nat)) × State) :=
    match failStatus x with
    | none => .error x
    | some st =>
      match back s with
      | .ok (_, s) => .ok ((lines + 8, st, none), noteFailure s e x)
      | .error _ => .ok ((lines, st, none), noteFailure s e x)
  fun s => match copy s with
    | .error x => failed x 0 s
    | .ok ((t, x), s1) => match finish t x s1 with
      | .ok r => .ok r
      | .error y => failed y x.lines (match freeNodes e sc x.refs s1 with | .ok (_, s) => s | .error _ => s1)

/-- STATUS of a command with several subtrees: the first failure, else 0x000B if data was skipped. -/
def mergeStatus (a b : Nat) : Nat := if a = 0 || (a = 0xB && b ≠ 0) then b else a

/-! ### Generation switches (R300) -/

/-- `.genpub` and `.genret`. -/
def runGen (s : State) (c : Command) : State :=
  let e := agentOf c 5
  runScene s c e do
    let sc ← readScene e c.opa.toNat
    match sc.slotIn (if c.fn = 5 then 1 else 3) with
    | none => sceneFail 7 0
    | some g => do
      writeGens e (if c.fn = 5 then sc.publish g else sc.setGen g fun x => { x with state := 4 })
      return (0, (sc.gen g).tag)

/-- `.compact` starts: the retired slot and the pages of its retire list. `todo` holds the next entry. -/
def runCompact (s : State) (c : Command) : State :=
  let e := agentOf c 5
  let check : SceneM (Nat × Nat) := do
    let sc ← readScene e c.opa.toNat
    match sc.slotIn 4 with
    | none => sceneFail 7 0
    | some g => fun s => match sceneCheck e (sc.gen g).ret (4 * (sc.gen g).retCnt) .read s with
      | .error (.access (.lost _ _)) => .ok ((g, (sc.gen g).tag), s)
      | .error x => .error x
      | .ok (_, s) => .ok ((g, (sc.gen g).tag), s)
  match check s with
  | .ok ((g, tag), s) => s.modCmd c.id fun c => { c with state := .running, slot := g, stamp := tag, todo := [0] }
  | .error (.status st n) => finishCmd s c.id st n
  | .error (.access x) => stopCmd s c e x 0

/-- The package-wide ray count of R312. -/
def rayCount (s : State) (scene : DWord) (tag : Nat) : Nat :=
  s.rayCounts.foldl (fun n x => if x.1.2.1 = scene && x.1.2.2 = tag then n + x.2 else n) 0

/-- Entries of a list are freed one at a time, up to the first that stops: the state, the next entry, slots freed, the stop. -/
def freeEntries (e : Agent) (sc : Scene) (ret n : Nat) : Nat → Nat → Nat → State → State × Nat × Nat × Option SceneStop
  | 0, k, freed, s => (s, k, freed, none)
  | fuel + 1, k, freed, s =>
    if n ≤ k then (s, k, freed, none)
    else
      let one : SceneM Bool := do
        let r ← sceneNat e (ret + 4 * k) 4
        setNodeBit e sc (r / 2 ^ 29) (r % 2 ^ 29) false
      match one s with
      | .ok (b, s) => freeEntries e sc ret n fuel (k + 1) (if b then freed + 1 else freed) s
      | .error x => (s, k, freed, some x)

/-- COMPACT_RECLAIM (R300): enabled once no ray holds the tag. -/
def reclaim (s : State) (c : Command) : State :=
  let e := agentOf c 5
  match readScene e c.opa.toNat s with
  | .error (.status st n) => finishCmd s c.id st n
  | .error (.access x) => stopCmd s c e x c.count
  | .ok (sc, s) =>
    let g := sc.gen c.slot
    let (s, k, freed, stop) := freeEntries e sc g.ret g.retCnt g.retCnt (c.todo.headD 0) c.count s
    let keep (s : State) : State := s.modCmd c.id fun c => { c with count := freed, todo := [k] }
    match stop with
    | some (.access x) => stopCmd (keep s) { c with count := freed, todo := [k] } e x freed
    | some (.status st n) => finishCmd s c.id st n
    | none =>
      let last : SceneM Nat := do
        let n ← pools.foldlM (fun n d => do return n + if (← setNodeBit e sc d g.root false) then 1 else 0) 0
        recordWrite e (sc.va + genOff c.slot + 32) (leBytes 4 0)
        writeGens e (sc.setGen c.slot fun x => { x with tag := 0, state := 0 })
        return n
      match last s with
      | .ok (n, s) => finishCmd s c.id 0 (freed + n)
      | .error (.access x) => stopCmd (keep s) { c with count := freed, todo := [k] } e x freed
      | .error (.status st n) => finishCmd s c.id st n

/-- `cop.build` starts. -/
def runBuild (s : State) (c : Command) : State :=
  match c.fn with
  | 0 => runMorton s c
  | 1 => runSort s c
  | 2 => runEmit s c
  | 3 => runRefit s c
  | 4 => runRefit s c
  | 7 => runCompact s c
  | _ => runGen s c

/-- ROOT_REWRITE (R298, R299, R437): a listed subtree, the first in the list of those of its die, or the octant of an `.emit`, is built and made final;
its fence signals, and what the command wrote is seen from then on (R302). -/
def rootRewrite (s : State) (c : Command) (entry : Nat) : State :=
  let e := agentOf c 5
  let shown (s : State) : State := showPast s fun _ w => w.path = 5 && w.cmd = some c.id
  match c.todo.find? fun x => x % 8 = entry with
  | none => s
  | some x =>
    if (c.todo.find? fun y => y / 64 / 2 ^ 29 = x / 64 / 2 ^ 29) ≠ some x then s
    else if c.fn = 2 then
      let d := emitDesc c.desc
      match emitSub e (dieOf c.core) d s with
      | .ok ((st, n), s) => finishCmd (signalFence (shown s) c.asid d.fence) c.id st n
      | .error (.status st n) => finishCmd s c.id st n
      | .error (.access y) => stopCmd s c e y 0
    else
      let d := refitDesc c.desc
      let die := x / 64 / 2 ^ 29
      let e := { e with unit := .die (die % 8) }
      let settle (s : State) (lines st : Nat) (ret : Option (Nat × Nat)) : State :=
        let s := signalFence (shown s) c.asid (d.fence + entry)
        let s := s.modCmd c.id fun c =>
          { c with todo := c.todo.filter (fun y => y ≠ x), count := c.count + lines, retired := c.retired ++ ret.toList,
                   status := BitVec.ofNat 16 (mergeStatus c.status.toNat st), opened := c.opened.filter fun f => f ≠ d.fence + entry }
        match s.cmd c.id with
        | some c => if c.todo.isEmpty then finishCmd s c.id c.status.toNat c.count else s
        | none => s
      match refitOne c e d entry (x / 8 % 8) (x / 64) s with
      | .ok ((lines, st, ret), s) => settle s lines st ret
      | .error (.status st _) => settle s 0 st none
      | .error (.access y) => match failStatus (.access y) with
        | some st => settle (noteFailure s e (.access y)) 0 st none
        | none => stopCmd s c e y 0

/-- ROOT_REWRITE. -/
def execRootRewrite (cmd entry : Nat) (s : State) : Host.Outcome State Fault Refusal :=
  done (match s.cmd cmd with
    | some c => if c.state = .running && c.major = 0x3B && c.fn ≠ 7 then runFor s cmd fun s => rootRewrite s c entry else s
    | none => s)

/-- COMPACT_RECLAIM (R300). -/
def execCompactReclaim (cmd : Nat) (s : State) : Host.Outcome State Fault Refusal :=
  done (match s.cmd cmd with
    | some c =>
      if c.state = .running && c.major = 0x3B && c.fn = 7 && rayCount s c.opa c.stamp = 0 then runFor s cmd fun s => reclaim s c else s
    | none => s)

end Sys2Proof.Machine
end

