-- ==== Sys2Proof/Machine/Inbound.lean ====
section
/-!
DEFINITION. Accesses from outside the module at the line's home: of peer modules (06 R127, 24 R409) and of the host through BAR2 (17 R348, 24 R414), and
their wait for a die in reset (26 R447).
-/
namespace Sys2Proof.Machine

/-! ### Peer modules (R127, R409) -/

/-- The time of the latest access of a peer module (R127). -/
def noteInbound (s : State) (source t : Nat) : State := { s with inbound := change s.inbound source 0 (max t) }

/-- A read by another module, placed in G after its earlier accesses (R127). -/
def inboundRead (s : State) (source pa n : Nat) : State :=
  let die := homeOf (pa / 128)
  let s := (pointRead s die pa n bypass).1
  let (w, r) := stamps s die (pa / 128)
  let t := max w (look s.inbound source 0)
  noteInbound (setStamps s die (pa / 128) w (max r t) false) source t

/-- A write by another module, after its earlier accesses and after every lease of the line (R127, R108). -/
def inboundWrite (s : State) (source pa n v : Nat) : State :=
  let die := homeOf (pa / 128)
  let line := pa / 128
  let s := reachWrite s die line bypass
  let t := max (look s.inbound source 0) ((stamps s die line).2 + 1)
  noteInbound { noteCode (setStamps s die line t t true) none false pa n with mem := memWrite s.mem pa n v } source t

/-- The answer to an access of another module. -/
def replyTo (s : State) (source : BitVec 8) (pa : Nat) (nack : Option Nat) (value : Nat) : State :=
  { s with peerReplies := s.peerReplies ++ [{ source := source, pa := pa, nack := nack, value := value }] }

/-- An access that is refused: it is logged, and answered with a NACK that carries the reason. -/
def inboundNack (s : State) (source : BitVec 8) (pa d : Nat) : State := replyTo (refusal s pa d source.toNat) source pa (some d) 0

/-- An access that is performed, and its answer: data, an old value, or an acknowledgement. `kind` is 0 for a read, 1 for a write, 2 + op for an atomic
of R191 (12 for `cas`, whose compare value stands above the low 32 bits of `v`). -/
def inboundDo (s : State) (source : BitVec 8) (pa n kind v : Nat) : State :=
  match kind with
  | 0 => replyTo (inboundRead s source.toNat pa n) source pa none (memRead s.mem pa n)
  | 1 => replyTo (inboundWrite s source.toNat pa n v) source pa none 0
  | k =>
    let old := memRead s.mem pa 4
    replyTo (match newValue (k - 2) (BitVec.ofNat 32 (v / 2 ^ 32)) (BitVec.ofNat 32 old) (BitVec.ofNat 32 v) with
      | some x => inboundWrite s source.toNat pa 4 x.toNat
      | none => inboundRead s source.toNat pa 4) source pa none old

/-- What becomes of an access that waits for nothing. -/
def inboundNow (s : State) (source : BitVec 8) (pa n kind v : Nat) : State :=
  match inboundReason s pa with
  | some d => inboundNack s source pa d
  | none => inboundDo s source pa n kind v

/-- Whether an access of a line waits for its die (R447). -/
def dieWaits (s : State) (pa : Nat) : Bool := (s.die (homeOf (pa / 128))).inReset

/-- It waits. -/
def holdOutside (s : State) (x : OutsideAccess) : State := { s with outside := s.outside ++ [x] }

/-- PEER_INBOUND_ACCESS (R409): the access is checked in the order of Table 24.4, then performed or refused; it waits for a die in reset (R447). -/
def peerInbound (s : State) (source : BitVec 8) (pa n kind v : Nat) : State :=
  let at_ := pa % 2 ^ 39
  if s.hub.modPol.getLsbD 0 && backed at_ && dieWaits s at_ then
    holdOutside s { source := source, pa := at_, size := n, kind := kind, v := v, since := s.clock }
  else inboundNow s source at_ n kind v

/-! ### The host through BAR2 -/

/-- The answer to a BAR2 read. -/
def bar2Answer (s : State) (off n : Nat) (v : Option Nat) : State :=
  { s with hostReplies := s.hostReplies ++ [{ addr := off, size := n, value := v }] }

/-- Whether the line of a PA can be reached: its die and channel are in service (R447, Table 26.2). -/
def reachable (s : State) (pa : Nat) : Bool :=
  let d := s.die (homeOf (pa / 128))
  !d.inReset && !noService d pa

/-- A BAR2 read at its target; a lost line and a die that is not in service answer nothing (R414, R447). Its line's fill takes the ways of partition 0 with
policy normal, since the access goes through no page (DESIGN CHOICE, notes/assumptions/63.md). -/
def bar2ReadAt (s : State) (off pa n : Nat) : State :=
  if !reachable s pa || isLost s pa then bar2Answer s off n none
  else let (s, v) := hubRead s pa n; bar2Answer s off n (some v)

/-- A BAR2 write at its target (R414), with the ways of `bar2ReadAt`. -/
def bar2WriteAt (s : State) (pa n v : Nat) : State := if !reachable s pa then s else patchLine (hubWrite s pa n v) pa n

/-! ### The end of a wait (R447, R448) -/

/-- An access that waited meets a die that has returned, or fails. -/
def outsideGo (s : State) (x : OutsideAccess) : State :=
  match x.bar2 with
  | none => if (s.die (homeOf (x.pa / 128))).inReset then inboundNack s x.source x.pa 3 else inboundNow s x.source x.pa x.size x.kind x.v
  | some off => if x.kind = 0 then bar2ReadAt s off x.pa x.size else bar2WriteAt s x.pa x.size x.v

/-- A die has left reset: what waited for it goes on, in its order; the waits of engines end. -/
def wakeDie (s : State) (d : Nat) : State :=
  let mine := s.outside.filter fun x => homeOf (x.pa / 128) = d
  mine.foldl outsideGo { s with outside := s.outside.filter fun x => homeOf (x.pa / 128) ≠ d, homeWaits := s.homeWaits.filter fun h => h.die ≠ d }

/-- The oldest access from outside whose die is in reset has waited 2^24 clocks, and fails. -/
def outsideExpire (s : State) : State :=
  match s.outside with
  | [] => s
  | x :: r =>
    let due := max x.since (s.die (homeOf (x.pa / 128))).resetAt + 2 ^ 24
    outsideGo { (if s.clock < due then s.tick (due - s.clock) else s) with outside := r } x

end Sys2Proof.Machine
end

