-- ==== Sys2Proof/Machine/RayMath.lean ====
section
/-!
DEFINITION. The exact geometry of traversal (14 R306, R307): ray parameters as quadratic surds, the slab test, and the triangle and
sphere tests, all over the f32 inputs without rounding.
-/
namespace Sys2Proof.Machine

/-! ### Ray parameters -/

/-- The sign of a ± √r ± √q; a true flag subtracts the root. -/
def signSurd (a : Int) (sx : Bool) (r : Nat) (sy : Bool) (q : Nat) : Int :=
  let u : Int :=
    if sx = sy then (if r = 0 && q = 0 then 0 else if sx then -1 else 1)
    else if r = q then 0
    else if q < r then (if sx then -1 else 1)
    else if sy then -1 else 1
  if a = 0 then u
  else if u = 0 || a.sign = u then a.sign
  else
    let c : Int := a * a - r - q
    let m : Int := 4 * r * q
    a.sign * (if sx = sy then (if c < 0 then -1 else (c * c - m).sign) else if 0 ≤ c then (if c = 0 && m = 0 then 0 else 1) else (m - c * c).sign)

/-- The sign of x - y. -/
def ExtQ.cmp : ExtQ → ExtQ → Int
  | .pinf, .pinf => 0
  | .ninf, .ninf => 0
  | .pinf, _ => 1
  | _, .pinf => -1
  | .ninf, _ => -1
  | _, .ninf => 1
  | .fin a s r d, .fin b t q e => signSurd (e * a - d * b) s (e * e * r) (!t) (d * d * q)

def ExtQ.le (x y : ExtQ) : Bool := decide (x.cmp y ≤ 0)
def ExtQ.lt (x y : ExtQ) : Bool := decide (x.cmp y < 0)
def ExtQ.max (x y : ExtQ) : ExtQ := if x.le y then y else x
def ExtQ.min (x y : ExtQ) : ExtQ := if x.le y then x else y

/-- The quotient of two integers, the second nonzero. -/
def ExtQ.ratio (n d : Int) : ExtQ := .fin (n * d.sign) false 0 d.natAbs

/-- The quotient of two dyadics, the second nonzero. -/
def ExtQ.quot (x y : Dyadic) : ExtQ := let p := pow2 (x.e - y.e); .ratio (x.m * p.1) (y.m * p.2)

def ExtQ.ofF32 (x : Nat) : Option ExtQ :=
  match f32.decode x with
  | .nan => none
  | .inf n => some (if n then .ninf else .pinf)
  | .fin n m e => some (.quot (dyadicOf n m e) { m := 1, e := 0 })

/-- RoundNE to f32. -/
def ExtQ.toF32 : ExtQ → Nat
  | .pinf => f32.inf false
  | .ninf => f32.inf true
  | .fin a s r d =>
    let big := r * 4 ^ 200
    let root := isqrt big
    let exact := root * root = big
    let low : Int := root
    let up : Int := if !s then low else if exact then -low else -low - 1
    let n : Int := a * 2 ^ 200 + up
    let den : Int := d
    let q : Int := n / den
    let sticky : Int := if exact && n % den = 0 then 0 else 1
    f32.roundD .rn { m := 2 * q + sticky, e := -201 } false

/-! ### Vectors of integers -/

def vsub (a b : List Int) : List Int := (a.zip b).map fun x => x.1 - x.2
def dot3 (a b : List Int) : Int := (a.zip b).foldl (fun s x => s + x.1 * x.2) 0
def cross3 (a b : List Int) : List Int :=
  let g (l : List Int) (k : Nat) : Int := l.getD (k % 3) 0
  (List.range 3).map fun k => g a (k + 1) * g b (k + 2) - g a (k + 2) * g b (k + 1)

/-- Finite f32 values as integers at one common scale. -/
def atOneScale (xs : List Nat) : List Int :=
  let ds := xs.map valOf
  let e := ds.foldl (fun m d => min m d.e) 0
  ds.map fun d => d.m * 2 ^ (d.e - e).toNat

/-! ### The slab test (R306) -/

/-- (x - o) / d for a box bound x that may be infinite. -/
def slabBound (x : Nat) (o d : Dyadic) : Option ExtQ :=
  match f32.decode x with
  | .nan => none
  | .inf n => some (if n != decide (d.m < 0) then .ninf else .pinf)
  | .fin n m e => some (.quot ((dyadicOf n m e).add o.neg) d)

/-- The entry t of a box, if the slab intervals and [tmin, best] meet. -/
def slabEntry (org dir lo hi : List Nat) (tmin best : ExtQ) : Option ExtQ :=
  let r := (List.range 3).foldl (fun acc k =>
    match acc with
    | none => none
    | some (a, b) =>
      let o := valOf (org.getD k 0)
      let d := valOf (dir.getD k 0)
      let l := lo.getD k 0
      let h := hi.getD k 0
      if d.m = 0 then
        match ExtQ.ofF32 l, ExtQ.ofF32 (org.getD k 0), ExtQ.ofF32 h with
        | some x, some y, some z => if x.le y && y.le z then some (a, b) else none
        | _, _, _ => none
      else
        match slabBound l o d, slabBound h o d with
        | some x, some y => if d.m < 0 then some (ExtQ.max a y, ExtQ.min b x) else some (ExtQ.max a x, ExtQ.min b y)
        | _, _ => none) (some (tmin, best))
  match r with
  | some (a, b) => if a.le b then some a else none
  | none => none

/-! ### Primitives (R307) -/

/-- A hit of a triangle: t, whether it faces the ray, U and V. -/
structure TriHit where
  t : ExtQ
  front : Bool
  u : ExtQ
  v : ExtQ

/-- The interval of t on which α + β t ≥ 0, met with an interval. -/
def halfLine (acc : Option (ExtQ × ExtQ)) (al be : Int) : Option (ExtQ × ExtQ) :=
  match acc with
  | none => none
  | some (a, b) =>
    if be = 0 then (if 0 ≤ al then acc else none)
    else if 0 < be then some (ExtQ.max a (.ratio (-al) be), b)
    else some (a, ExtQ.min b (.ratio (-al) be))

/-- The triangle test. Coordinates are integers at one scale, so that t is that of the f32 values. -/
def triangleHit (o d v0 v1 v2 : List Int) (cull : Bool) (tmin best : ExtQ) : Option TriHit :=
  let e1 := vsub v1 v0
  let e2 := vsub v2 v0
  let n := cross3 e1 e2
  let w := vsub o v0
  let nd := dot3 n d
  if n.all (fun x => x = 0) || (cull && !decide (nd < 0)) then none
  else if nd ≠ 0 then
    let u := -dot3 w (cross3 d e2)
    let v := -dot3 d (cross3 w e1)
    let pos (x : Int) : Bool := decide (0 ≤ x * nd.sign)
    let t := ExtQ.ratio (-dot3 n w) nd
    if pos u && pos v && pos (nd - u - v) && tmin.le t && t.le best then
      some { t := t, front := decide (nd < 0), u := .ratio u nd, v := .ratio v nd }
    else none
  else if dot3 n w ≠ 0 then none
  else
    let k := ((List.range 3).find? fun k => n.getD k 0 ≠ 0).getD 0
    let i := (k + 1) % 3
    let j := (k + 2) % 3
    let det (a b : List Int) : Int := a.getD i 0 * b.getD j 0 - a.getD j 0 * b.getD i 0
    let dd := det e1 e2
    let sg := dd.sign
    let u0 := det w e2 * sg
    let u1 := det d e2 * sg
    let x0 := det e1 w * sg
    let x1 := det e1 d * sg
    match halfLine (halfLine (halfLine (some (tmin, best)) u0 u1) x0 x1) (dd.natAbs - u0 - x0) (-u1 - x1) with
    | some (a, b) =>
      if a.le b then
        let coord (p q : Int) : ExtQ := match a with
          | .fin num _ _ den => .ratio (p * den + q * num) (dd.natAbs * den)
          | _ => .ratio p dd.natAbs
        some { t := a, front := false, u := coord u0 u1, v := coord x0 x1 }
      else none
    | none => none

/-- The least t in the interval on the surface of a sphere. -/
def sphereHit (o d c : List Int) (w : Int) (tmin best : ExtQ) : Option ExtQ :=
  let m := vsub o c
  let a := dot3 d d
  let b := dot3 m d
  let disc := b * b - a * (dot3 m m - w * w)
  if w ≤ 0 then none
  else if a = 0 then (if dot3 m m = w * w && tmin.le best then some tmin else none)
  else if disc < 0 then none
  else
    let roots : List ExtQ := [.fin (-b) true disc.natAbs a.natAbs, .fin (-b) false disc.natAbs a.natAbs]
    roots.find? fun t => tmin.le t && t.le best

end Sys2Proof.Machine
end

