-- ==== Sys2Proof/Machine/Trav.lean ====
section
/-!
DEFINITION. The traversal units (14 R304 to R312, 21 R375, 25 R438): acceptance of batches, the walk of a ray, call-outs, results,
shadow adds, and the combination of partials (06 R123, R124).
-/
namespace Sys2Proof.Machine

def travAgent (c : Command) : Agent := agentOf c 4

def State.setRay (s : State) (r : Ray) : State := { s with rays := s.rays.map fun x : Ray => if x.id = r.id then r else x }

/-! ### Failures (R435, R438) -/

/-- STATUS of a batch that something happened to; the first failure stays. -/
def flagBatch (s : State) (id st : Nat) : State :=
  s.modCmd id fun c => { c with status := BitVec.ofNat 16 (mergeStatus c.status.toNat st) }

/-- A failed access of a traversal command: its STATUS, `lost` where it met a lost line, and one entry per page. -/
def failAccess (s : State) (c : Command) (x : EngStop) (lost : Nat := 4) : State :=
  let log (cls : Byte) (code : Word) (va : DWord) (st : Nat) : State :=
    let page := va.toNat / 65536
    let seen := ((s.cmd c.id).map fun c => c.logged.contains page).getD false
    let s := if seen then s else engEntry s (travAgent c) cls code va
    (flagBatch s c.id st).modCmd c.id fun c => { c with logged := if seen then c.logged else page :: c.logged }
  match x with
  | .fail cls code va _ => log cls code va 3
  | .lost va _ => log 0 0 va lost
  | _ => s

/-- A result-record write or shadow add that fails is dropped with STATUS 3 (R306, R438). -/
def failWrite (s : State) (c : Command) (x : EngStop) : State := failAccess s c x 3

/-! ### Acceptance (R304) -/

/-- A batch descriptor (Table 14.11). -/
structure BatchDesc where
  rays : Nat
  out : Nat
  n : Nat
  scene : Nat

def batchDesc (d : List Byte) : BatchDesc := { rays := fieldAt d 0 8, out := fieldAt d 8 8, n := fieldAt d 16 2 % 8192, scene := fieldAt d 24 8 }

def batchBad (fn : Nat) (raw : List Byte) : Option Nat :=
  let d := batchDesc raw
  badField [(0, !vaOk d.rays 64), (8, !vaOk d.out (if fn = 2 then 1 else 32)), (16, d.n = 0 || 4096 < d.n),
    (17, fieldAt raw 16 8 / 2 ^ 13 ≠ 0), (24, !vaOk d.scene 64)]

/-- The first bad field of a ray record (Table 14.13); reserved bits read as zero (R395). -/
def rayBad (fn : Nat) (b : List Byte) : Option Nat :=
  badField [(48, fn = 2 && fieldAt b 48 8 % 16 ≠ 0)]

/-- The first bad field of an accumulation record (Table 14.15). -/
def regionBad (b : List Byte) : Option Nat :=
  badField [(0, !vaOk (fieldAt b 0 8) 16), (8, fieldAt b 8 4 = 0), (12, fieldAt b 12 4 ≠ 0), (16, !vaOk (fieldAt b 16 8) 32),
    (24, fieldAt b 24 8 % 65536 ≠ 0 || fieldAt b 24 8 < 32 * fieldAt b 8 4)]

/-- A ray that never reads a node (R306). -/
def deadRay (org dir : List Nat) (tmin tmax : Nat) : Bool :=
  !(org ++ dir).all finite32 || dir.all (fun x => (valOf x).m = 0) ||
    (match ExtQ.ofF32 tmin, ExtQ.ofF32 tmax with
      | some a, some b => b.lt a
      | _, _ => true)

/-- Ray i of a batch, stamped with a tag; `root` is the reference of the root copy it starts at, none where no generation is current. -/
def rayOf (s : State) (c : Command) (i tag : Nat) (root : Option Nat) (b : List Byte) : Ray :=
  let f (o n : Nat) : Nat := fieldAt b o n
  let org := [f 0 4, f 4 4, f 8 4]
  let dir := [f 16 4, f 20 4, f 24 4]
  let scene := BitVec.ofNat 64 (batchDesc c.desc).scene
  let start : List RayTask := match root with
    | some r => if deadRay org dir (f 12 4) (f 28 4) then [] else [.node { scene := scene, tag := tag, inst := none, org := org, dir := dir } r]
    | none => []
  { id := s.nextRay + i, cmd := c.id, core := c.core, uid := c.uid, index := i, scene := scene, tag := tag, kind := c.fn,
    org := org, dir := dir, tmax := BitVec.ofNat 32 (f 28 4), tmin := BitVec.ofNat 32 (f 12 4), mask := BitVec.ofNat 8 (f 32 1), cull := bitAt (f 33 1) 0, opaq := bitAt (f 33 1) 1,
    contrib := [BitVec.ofNat 16 (f 40 2), BitVec.ofNat 16 (f 42 2), BitVec.ofNat 16 (f 44 2)], fbva := BitVec.ofNat 64 (f 48 8),
    best := (ExtQ.ofF32 (f 28 4)).getD .pinf, todo := start,
    root := if start.isEmpty then none else root }

/-- How acceptance goes on: it waits for a page, the command ends, or the batch enters the unit. -/
inductive Acceptance where
  | wait (s : State)
  | ended (s : State) (st count : Nat)
  | enter (s : State) (c : Command)

/-- What a stop of a read at acceptance means (R264, R465): of a descriptor or ray record STATUS 1; of an accumulation or scene record, which are
data, STATUS 3 with its entry. -/
def acceptStop (s : State) (c : Command) (x : EngStop) (st : Nat) : Acceptance :=
  match x with
  | .pend va l => .wait (waitPage s c { travAgent c with path := 0 } va l)
  | .home va d => .wait (homeWait s { travAgent c with path := 0 } va d)
  | .lost va _ => .ended (engEntry s (travAgent c) 0 0 va) 4 0
  | .fail cls code va _ => .ended (if st = 3 then engEntry s (travAgent c) cls code va else s) st 0

/-- The region of a deterministic batch is registered with its launch (R310, R438); none if it would be the fifth. -/
def register (s : State) (launch : Nat) (va : DWord) (b : List Byte) : Option State :=
  match s.launches.find? fun l => l.seqNo = launch with
  | none => some s
  | some l =>
    if l.regions.any fun r => r.1 = va then some s
    else if 4 ≤ l.regions.length then none
    else some { s with launches := s.launches.map fun x : Launch => if x.seqNo = launch then { x with regions := x.regions ++ [(va, b)] } else x }

/-- A batch at acceptance, its descriptor read: the accumulation record, the ray records, the stamp, the counts. -/
def acceptBatch (s : State) (c : Command) : Acceptance :=
  let d := batchDesc c.desc
  match batchBad c.fn c.desc with
  | some o => .ended s 2 o
  | none =>
    let (s, region, stop) :=
      if c.fn = 2 && d.out ≠ 0 then laneRange s c (BitVec.ofNat 64 d.out) 32 deviceOnly else (s, [], none)
    match stop with
    | some x => acceptStop s c x 3
    | none =>
      match if region.isEmpty then none else regionBad region with
      | some o => .ended s 2 o
      | none =>
        let (s, raw, stop) := laneRange s c (BitVec.ofNat 64 d.rays) (64 * d.n) deviceOnly
        match stop with
        | some x => acceptStop s c x 1
        | none =>
          let recs := (List.range d.n).map fun i => (raw.drop (64 * i)).take 64
          let bad := (List.range d.n).filterMap fun i => (rayBad c.fn (recs.getD i [])).map fun o => 64 * i + o
          match bad with
          | o :: _ => .ended s 2 o
          | [] =>
            match readScene (travAgent c) d.scene s with
            | .error (.access x) => acceptStop s c x 3
            | .error (.status st n) => .ended s st n
            | .ok (sc, s) =>
              let cur := sc.slotIn 2
              let tag := (cur.map fun g => (sc.gen g).tag).getD 0
              let root := cur.map fun g => dieOf c.core * 2 ^ 29 + (sc.gen g).root
              let held := s.rayCounts.filter fun x => x.1.1 = c.core
              let scene := BitVec.ofNat 64 d.scene
              if cur.isSome && 32 ≤ held.length && !held.any (fun x => x.1.2.1 = scene && x.1.2.2 = tag) then .ended s 8 0
              else
                match if region.isEmpty then some s else register s c.launch (BitVec.ofNat 64 d.out) region with
                | none => .ended s 8 0
                | some s =>
                  let rays := (List.range d.n).map fun i => rayOf s c i tag root (recs.getD i [])
                  let s := { s with rays := s.rays ++ rays, nextRay := s.nextRay + d.n }
                  let s := if cur.isSome then rays.foldl (fun s r => countRay s r.core r.scene r.tag true) s else s
                  .enter s { c with comm := region, outstanding := d.n, stamp := tag }

/-! ### Results -/

/-- A result record (Table 14.14). -/
def resultBytes (r : Ray) (h : Option Hit) : List Byte :=
  let b4 (n : Nat) : List Byte := leBytes 4 n
  (match h with
    | none => b4 0x7F800000 ++ b4 0xFFFFFFFF ++ b4 0 ++ b4 0xFFFFFFFF ++ b4 0 ++ b4 0
    | some h => b4 h.tBits.toNat ++ b4 h.cluster ++ leBytes 1 h.prim ++ leBytes 1 h.hkind ++ leBytes 1 (if h.front then 1 else 0) ++
        leBytes 1 0 ++ b4 (h.inst.getD 0xFFFFFFFF) ++ b4 h.u.toNat ++ b4 h.v.toNat) ++
    leBytes 2 r.tag ++ leBytes 2 0 ++ b4 (min 0xFFFFFFFF r.visits)

/-- VA of result record i. -/
def resultVa (c : Command) (i : Nat) : Nat := (batchDesc c.desc).out + 32 * i

/-! ### Candidates -/

/-- Hits in the order of R306: by t, then instance, cluster, primitive. -/
def hitBefore (a b : Hit) : Bool :=
  let key (h : Hit) : List Nat := [h.inst.getD 0xFFFFFFFF, h.cluster, h.prim]
  a.t.lt b.t || (a.t.cmp b.t = 0 && decide (List.Lex (· < ·) (key a) (key b)))

/-- Whether two candidates are equal in (T, INST, CLUSTER, PRIM), T as a result record holds it (R427). -/
def sameHit (a b : Hit) : Bool := a.tBits = b.tBits && a.inst = b.inst && a.cluster = b.cluster && a.prim = b.prim

/-- A ray that needs no more walking. -/
def endWalk (r : Ray) : Ray := { r with todo := [], parked := [], callout := none, done := true }

/-- A candidate is accepted (R306). -/
def acceptHit (r : Ray) (h : Hit) : Ray :=
  if r.kind = 1 then endWalk { r with hit := some h }
  else
    { r with best := h.t, hit := match r.hit with
        | some old => if hitBefore old h then some old else some h
        | none => some h }

/-- CALLOUT (R308): the candidate goes to result record i, and the call-out record follows. -/
def callout (s : State) (c : Command) (r : Ray) (h : Hit) : State × Ray :=
  match sceneWrite (travAgent c) (resultVa c r.index) (resultBytes r (some h)) s with
  | .error (.access (.pend va l)) => (waitPage s c (travAgent c) va l, { r with todo := .offer h :: r.todo })
  | .error (.access (.home va d)) => (homeWait s (travAgent c) va d, { r with todo := .offer h :: r.todo })
  | res =>
    let s := match res with
      | .ok (_, s) => s
      | .error (.access x) => failWrite s c x
      | .error _ => s
    let tag : Word := if h.hkind = 2 then 1 else 2
    let rec_ : Record := { tag := c.tag, unit := c.unit, cookie := c.cookie ||| (tag <<< 30), count := BitVec.ofNat 32 r.index }
    (s.modCmd c.id fun c => { c with callouts := c.callouts ++ [rec_] }, { r with callout := some h })

/-! ### Reading primitives -/

/-- The generation slot a walk reads clusters through (R375). -/
def walkGen (sc : Scene) (w : Walk) : Option Gen := (sc.gens.find? fun g => g.tag = w.tag && g.state ≠ 0)

/-- The candidates of a cluster, and whether malformed data was met (R307, R438). -/
def clusterHits (e : Agent) (p : Profiles) (r : Ray) (w : Walk) (i : Nat) : SceneM (List Hit × Bool) := do
  let sc ← readScene e w.scene.toNat
  match walkGen sc w with
  | none => return ([], false)
  | some g => do
    let rec_ ← readCluster e g.clust i
    let tmin := (ExtQ.ofF32 r.tmin.toNat).getD .ninf
    let hit (t : ExtQ) (prim hkind : Nat) (front opq : Bool) (u v : Word) : Hit :=
      { t := t, tBits := BitVec.ofNat 32 t.toF32, cluster := i, prim := prim, hkind := hkind, front := front, inst := w.inst, u := u,
        v := v, opaque_ := opq }
    if 64 < rec_.ntri || rec_.nvert = 0 || 64 < rec_.nvert then return ([], true)
    else
      match p.prim.toNat with
      | 0 => do
        let blk ← sceneRead e (sc.tri + 256 * i) 256
        let idx := (List.range rec_.ntri).map fun t => (List.range 3).map fun k => fieldAt blk (3 * t + k) 1
        if idx.any (fun l => l.any fun k => rec_.nvert ≤ k) then return ([], true)
        else do
          let out ← (List.range rec_.ntri).mapM fun t => do
            let vs ← (idx.getD t []).mapM fun k => do
              let b ← sceneRead e (g.vert + 16 * (rec_.voff + k)) 16
              return [fieldAt b 0 4, fieldAt b 4 4, fieldAt b 8 4]
            let flat := vs.flatten
            if !flat.all finite32 then return ((none : Option Hit), true)
            else
              let z := atOneScale (w.org ++ w.dir ++ flat)
              let v (k : Nat) : List Int := (z.drop (3 * k)).take 3
              let opq := r.opaq || rec_.opaq || bitAt (fieldAt blk (192 + t) 1) 0
              let h := triangleHit (v 0) (v 1) (v 2) (v 3) (v 4) r.cull tmin r.best
              return (h.map (fun h => hit h.t t 1 h.front opq (BitVec.ofNat 32 h.u.toF32) (BitVec.ofNat 32 h.v.toF32)), false)
          return (out.filterMap fun x => x.1, out.any fun x => x.2)
      | 1 =>
        if !rec_.box.wellFormed then return ([], true)
        else
          return (((slabEntry w.org w.dir rec_.box.lo rec_.box.hi tmin r.best).map fun t => hit t 0 2 false false 0 0).toList, false)
      | _ => do
        let out ← (List.range rec_.nvert).mapM fun k => do
          let b ← sceneRead e (g.vert + 16 * (rec_.voff + k)) 16
          let flat := [fieldAt b 0 4, fieldAt b 4 4, fieldAt b 8 4, fieldAt b 12 4]
          if !flat.all finite32 then return ((none : Option Hit), true)
          else
            let z := atOneScale (w.org ++ w.dir ++ flat)
            let v (k : Nat) : List Int := (z.drop (3 * k)).take 3
            return ((sphereHit (v 0) (v 1) (v 2) (z.getD 9 0) tmin r.best).map (fun t => hit t k 3 false true 0 0), false)
        return (out.filterMap fun x => x.1, out.any fun x => x.2)

/-- RoundNE of an exact sum of products, to f32. -/
def transformRow (m v : List Nat) (add : Nat) : Nat :=
  let sum := (m.zip v).foldl (fun s x => s.add ((valOf x.1).mul (valOf x.2))) (valOf add)
  f32.roundD .rn sum false

/-- What an instance child leads to: the walk of its bottom scene with the root to read, and whether its data was malformed. One whose bottom scene has no current
generation is passed over, and STATUS stays as it is (DESIGN CHOICE, notes/assumptions/93.md). -/
def enterInstance (e : Agent) (core : Nat) (r : Ray) (w : Walk) (n : Nat) : SceneM (Option (Walk × Nat) × Bool) := do
  let sc ← readScene e w.scene.toNat
  let b ← sceneRead e (sc.inst + 64 * n) 64
  let x := (List.range 12).map fun k => fieldAt b (4 * k) 4
  let scene := fieldAt b 48 8
  if BitVec.ofNat 8 (fieldAt b 60 1) &&& r.mask = 0 then return (none, false)
  else if !x.all finite32 then return (none, true)
  else
    let row (k : Nat) : List Nat := (x.drop (4 * k)).take 3
    let org := (List.range 3).map fun k => transformRow (row k) w.org (x.getD (4 * k + 3) 0)
    let dir := (List.range 3).map fun k => transformRow (row k) w.dir 0
    fun s => match readScene e scene s with
      | .ok (b', s) =>
        match b'.slotIn 2 with
        | some g =>
          let w' : Walk := { scene := BitVec.ofNat 64 scene, tag := (b'.gen g).tag, inst := some (fieldAt b 56 4), org := org, dir := dir }
          if (org ++ dir).all finite32 then .ok ((some (w', dieOf core * 2 ^ 29 + (b'.gen g).root), false), s)
          else .ok ((none, true), s)
        | none => .ok ((none, false), s)
      | .error (.access (.fail cls code va o)) =>
        if cls = clsTarget && code = reason 4 0 0 then .error (.access (.fail cls code va o)) else .ok ((none, true), engEntry s e cls code va)
      | .error (.access (.lost va _)) => .ok ((none, true), engEntry s e 0 0 va)
      | .error x => .error x

/-! ### The walk (R306) -/

/-- Insertion by entry t; equal entries keep their order. -/
def insertEntry (x : ExtQ × RayTask) : List (ExtQ × RayTask) → List (ExtQ × RayTask)
  | [] => [x]
  | y :: r => if x.1.lt y.1 then x :: y :: r else y :: insertEntry x r

/-- Child c of a node as a task. -/
def childTask (w : Walk) (ref : Nat) (n : Node) (c : Nat) : RayTask := .child w ref c (n.kind c) (n.ref c) (n.box c).lo (n.box c).hi

/-- The children of a node in the order a ray takes them. -/
def childTasks (p : Profiles) (r : Ray) (w : Walk) (ref : Nat) (n : Node) : List RayTask :=
  let tmin := (ExtQ.ofF32 r.tmin.toNat).getD .ninf
  let cs := (List.range (if p.nodeFmt = 0 then 8 else 4)).filter fun c => c < n.count
  if p.order = 1 then cs.map (childTask w ref n)
  else
    let keyed := cs.filterMap fun c =>
      if n.kind c = 0 then none
      else match slabEntry w.org w.dir (n.box c).lo (n.box c).hi tmin r.best with
        | some t => some (t, childTask w ref n c)
        | none => if n.kind c = 4 then some (tmin, childTask w ref n c) else none
    (keyed.foldl (fun l x => insertEntry x l) []).map fun x => x.2

/-- What one task did: the ray may go on in this step, or not. -/
structure TaskOut where
  s : State
  r : Ray
  more : Bool

/-- A read a task needed has failed: the branch is dropped, or the task waits (R404, R438). -/
def taskFail (s : State) (c : Command) (r : Ray) (task : RayTask) (x : SceneStop) : TaskOut :=
  match x with
  | .access (.pend va l) => { s := waitPage s c (travAgent c) va l, r := { r with todo := task :: r.todo }, more := false }
  | .access (.home va d) => { s := homeWait s (travAgent c) va d, r := { r with todo := task :: r.todo }, more := false }
  | .access y => { s := failAccess s c y, r := { r with dropped := true }, more := true }
  | .status st _ => { s := flagBatch s c.id st, r := { r with dropped := true }, more := true }

/-- Whether a task reads a node line. -/
def readsNode (t : RayTask) : Bool := match t with | .node _ _ => true | .again _ _ _ => true | _ => false

/-- Branches parked at the unit of a ray, its own as they stand now. -/
def parkedAt (s : State) (r : Ray) : Nat := s.rays.foldl (fun n x => if x.core = r.core && x.id ≠ r.id then n + x.parked.length else n) r.parked.length

/-- One task of a ray; `r` no longer holds it. -/
def runTask (s : State) (c : Command) (r : Ray) (task : RayTask) : TaskOut :=
  let e := travAgent c
  let p := c.prof
  let tmin := (ExtQ.ofF32 r.tmin.toNat).getD .ninf
  let readRef (w : Walk) (ref : Nat) : SceneM Node := do readNode e (← readScene e w.scene.toNat) ref
  match task with
  | .node w ref =>
    match readRef w ref s with
    | .error x => taskFail s c r task x
    | .ok (n, s) => { s := s, r := { r with visits := r.visits + 1, todo := childTasks p r w ref n ++ r.todo }, more := true }
  | .again w ref k =>
    match readRef w ref s with
    | .error x => taskFail s c r task x
    | .ok (n, s) => { s := s, r := { r with visits := r.visits + 1, todo := childTask w ref n k :: r.todo }, more := true }
  | .child w node k kind ref lo hi =>
    if kind = 4 then
      if !(fencesOf s c.asid).contains (ref % 65536) then { s := s, r := { r with todo := .again w node k :: r.todo }, more := true }
      else if 256 ≤ parkedAt s r then { s := s, r := { r with todo := task :: r.todo }, more := false }
      else { s := s, r := { r with parked := r.parked ++ [(ref % 65536, .again w node k)] }, more := true }
    else if (slabEntry w.org w.dir lo hi tmin r.best).isNone then { s := s, r := r, more := true }
    else match kind with
      | 1 => { s := s, r := { r with todo := .node w ref :: r.todo }, more := true }
      | 2 =>
        match clusterHits e p r w ref s with
        | .error x => taskFail s c r task x
        | .ok ((hs, bad), s) =>
          { s := if bad then flagBatch s c.id 0xB else s, r := { r with todo := hs.map RayTask.offer ++ r.todo }, more := true }
      | 3 =>
        if w.inst.isSome then { s := s, r := r, more := true }
        else match enterInstance e r.core r w ref s with
          | .error x => taskFail s c r task x
          | .ok ((next, bad), s) =>
            let todo := match next with
              | some (w', root) => .node w' root :: r.todo
              | none => r.todo
            { s := if bad then flagBatch s c.id 0xB else s, r := { r with todo := todo }, more := true }
      | _ => { s := s, r := r, more := true }
  | .offer h =>
    if !h.t.le r.best || r.kept.any (sameHit h) then { s := s, r := r, more := true }
    else if r.kind = 2 then { s := s, r := endWalk { r with occluded := true }, more := false }
    else if h.opaque_ then { s := s, r := acceptHit r h, more := true }
    else let (s, r) := callout s c r h; { s := s, r := r, more := false }

/-- Tasks up to and with one that reads a node line, and those after it that read none. -/
def walkSome (c : Command) : Nat → Bool → State → Ray → State × Ray
  | 0, _, s, r => (s, r)
  | fuel + 1, read, s, r =>
    match r.todo with
    | [] => (s, r)
    | t :: rest =>
      if read && readsNode t then (s, r)
      else
        let out := runTask s c { r with todo := rest } t
        if out.more then walkSome c fuel (read || readsNode t) out.s out.r else (out.s, out.r)

/-- Whether a ray holds one of the 1,024 places of its unit (R304): they go to the rays of the commands in progress, oldest first. -/
def hasPlace (s : State) (r : Ray) : Bool :=
  let live (x : Ray) : Bool := x.core = r.core && ((s.cmd x.cmd).map fun c => inProgress c).getD false
  (((s.rays.filter live).take 1024).any fun x => x.id = r.id)

/-- Whether a ray's team is being saved, and the node lines it may still read are used up (R425). -/
def budgetSpent (s : State) (r : Ray) : Bool :=
  match s.teamOf r.uid with
  | some t => t.saving.isSome && (match r.saveFrom with
    | some v => decide (max 1 (s.ctl t.asid).rayBudget.toNat ≤ r.visits - v)
    | none => false)
  | none => false

/-- RAY_NODE_READ (R306). -/
def rayNodeRead (s : State) (r : Ray) (c : Command) : State :=
  if c.state = .running && r.callout.isNone && hasPlace s r && !budgetSpent s r then
    let saving := ((s.teamOf r.uid).map fun t => t.saving.isSome).getD false
    let r := { r with saveFrom := if saving then some (r.saveFrom.getD r.visits) else none }
    let (s, r) := walkSome c ((r.todo.length + 9) * 140) false s r
    s.setRay r
  else s

/-- RAY_NODE_READ (R306). -/
def execRayNodeRead (ray : Nat) (s : State) : Host.Outcome State Fault Refusal :=
  done (match s.rays.find? fun r => r.id = ray with
    | some r => match s.cmd r.cmd with
      | some c => runFor s c.id fun s => rayNodeRead s r c
      | none => s
    | none => s)

/-! ### The end of a ray -/

/-- f16 bits as f32 bits. -/
def halfToF32 (h : Half) : Nat := refloat f16 f32 h.toNat

/-- CONTRIB · 2^24 as an integer; 0 where it is not finite (R310). -/
def contribInt (h : Half) : Int :=
  match f16.decode h.toNat with
  | .fin n m e => let x := dyadicOf n m (e + 24); x.m * (pow2 x.e).1 / (pow2 x.e).2
  | _ => 0

/-- The region of a deterministic batch: base, pixels, partial buffer of a die. -/
def regionPartial (b : List Byte) (d k : Nat) : Nat := fieldAt b 16 8 + d * fieldAt b 24 8 + 32 * k

/-- SHADOW_ADD (R309, R310, R438), at the home slice of its target (R123); an add is in the before-set of an `xfence` without its command's record
(R120), so it is of no command. -/
def shadowAdd (e : Agent) (c : Command) (r : Ray) : SceneM (Option Nat) := do
  if c.comm.isEmpty then do
    let old ← sceneRead e r.fbva.toNat 12
    let new := (List.range 3).flatMap fun k => leBytes 4 (fAdd f32 .rn (fieldAt old (4 * k) 4) (halfToF32 (r.contrib.getD k 0)))
    sceneWrite e r.fbva.toNat new
    return none
  else
    let base := fieldAt c.comm 0 8
    let k := (r.fbva.toNat - base) / 16
    if r.fbva.toNat < base || fieldAt c.comm 8 4 ≤ k then return some 0xC
    else do
      let va := regionPartial c.comm (dieOf r.core) k
      let old ← sceneRead e va 24
      let new := (List.range 3).flatMap fun j =>
        let p := sat (signExt (fieldAt old (8 * j) 8) 64 + contribInt (r.contrib.getD j 0)) (-(2 ^ 63)) (2 ^ 63 - 1)
        leBytes 8 (p % 2 ^ 64).toNat
      sceneWrite e va new
      return none

/-- The last access of a ray. -/
def rayOutput (c : Command) (r : Ray) : SceneM (Option Nat) := do
  let e := travAgent c
  if r.kind = 2 then (if r.occluded || r.dropped then return none else shadowAdd { e with atHome := true, cmd := none } c r)
  else do
    sceneWrite e (resultVa c r.index) (resultBytes r r.hit)
    return none

/-- A ray leaves: its count falls, and its batch ends with the last. -/
def leaveRay (s : State) (c : Command) (r : Ray) : State :=
  let s := dropRay s r
  let s := s.modCmd c.id fun c => { c with outstanding := c.outstanding - 1 }
  match s.cmd c.id with
  | some c => if c.outstanding = 0 then finishCmd s c.id c.status.toNat (batchDesc c.desc).n else s
  | none => s

/-- RAY_END (R306, R438). -/
def rayEnd (s : State) (r : Ray) (c : Command) : State :=
  if c.state = .running && hasPlace s r && (r.done || (r.todo.isEmpty && r.parked.isEmpty && r.callout.isNone)) then
    match rayOutput c r s with
    | .ok (st, s) => leaveRay (match st with | some x => flagBatch s c.id x | none => s) c r
    | .error (.access (.pend va l)) => waitPage s c (travAgent c) va l
    | .error (.access (.home va d)) => homeWait s (travAgent c) va d
    | .error (.access x) => leaveRay (failWrite s c x) c r
    | .error (.status st _) => leaveRay (flagBatch s c.id st) c r
  else s

/-- The add of a shadow ray is in the before-set of the team's later `xfence` words (R120), its record removed or not. -/
def noteAdd (s : State) (r : Ray) : State :=
  if r.kind = 2 then s.modTeam r.uid fun t => { t with seenWts := change t.seenWts 4 0 (max s.engWts) } else s

/-- RAY_END (R306, R438). -/
def execRayEnd (ray : Nat) (s : State) : Host.Outcome State Fault Refusal :=
  done (match s.rays.find? fun r => r.id = ray with
    | some r => match s.cmd r.cmd with
      | some c => runFor s c.id fun s => noteAdd (rayEnd s r c) r
      | none => s
    | none => s)

/-! ### `.resume` and `.query` -/

/-- The ray a `.resume` names, if it waits in a call-out of a batch of the team. -/
def resumed (s : State) (uid : Nat) (opa opb : DWord) : Option (Command × Ray) :=
  match s.commands.find? fun c => c.uid = uid && c.major = 0x3A && c.fn ≤ 1 && c.state ≠ .delivered && c.tag = opa.setWidth 32 with
  | none => none
  | some c => (s.rays.find? fun r => r.cmd = c.id && r.index = opb.toNat % 8192 && r.callout.isSome).map fun r => (c, r)

/-- A decision on a call-out (R308), from the bytes of the result record. Where the T of an intersection candidate lies outside TMIN to best, or is a NaN, decision
2 drops the candidate as decision 1 does, and the walk goes on (DESIGN CHOICE, notes/assumptions/94.md). -/
def decideRay (r : Ray) (h : Hit) (dec : Nat) (b : List Byte) : Ray :=
  let r := { r with callout := none }
  let tBits := fieldAt b 0 4
  let tmin := (ExtQ.ofF32 r.tmin.toNat).getD .ninf
  let accepted : Option Hit :=
    if dec = 0 then none
    else if h.hkind ≠ 2 then some h
    else match ExtQ.ofF32 tBits with
      | some t =>
        if tmin.le t && t.le r.best then
          some { h with t := t, tBits := BitVec.ofNat 32 tBits, prim := fieldAt b 8 1 % 64, u := BitVec.ofNat 32 (fieldAt b 16 4),
                        v := BitVec.ofNat 32 (fieldAt b 20 4) }
        else none
      | none => none
  match accepted with
  | none => r
  | some h => if dec = 2 then endWalk { r with hit := some h } else acceptHit r h

/-- A `.resume` at acceptance (R308): it reads the result record as a lane-order load and leaves no record. -/
def acceptResume (s : State) (c : Command) : Acceptance :=
  match resumed s c.uid c.opa c.opb with
  | none => .ended s 0 0
  | some (b, r) =>
    match r.callout with
    | none => .ended s 0 0
    | some h =>
      let (s, raw, stop) := laneRange s c (BitVec.ofNat 64 (resultVa b r.index)) 32 deviceOnly
      match stop with
      | some (.pend va l) => acceptStop s c (.pend va l) 3
      | some (.home va d) => acceptStop s c (.home va d) 3
      | some x =>
        let log := match x with
          | .fail cls code va _ => engEntry s (travAgent b) cls code va
          | .lost va _ => engEntry s (travAgent b) 0 0 va
          | _ => s
        .ended ((flagBatch log b.id 3).setRay { r with callout := none }) 0 0
      | none => .ended (s.setRay (decideRay r h (bits c.opb.toNat 15 14) raw)) 0 0

/-- `cop.trav` starts: a batch's rays walk; a `.query` samples the count (R311). -/
def runTrav (s : State) (c : Command) : State :=
  if c.fn = 4 then finishCmd s c.id 0 (rayCount s c.opa (c.opb.toNat % 65536))
  else s.modCmd c.id fun c => { c with state := .running }

/-! ### Combination of partials (R124, R310) -/

/-- One pixel of a region: the dies' partials are added in die order and zeroed. -/
def combinePixel (e : Agent) (b : List Byte) (k : Nat) : SceneM PUnit := do
  let va := fieldAt b 0 8 + 16 * k
  let old ← sceneRead e va 12
  let fb := (List.range 3).map fun j => fieldAt old (4 * j) 4
  let fb ← (List.range 8).foldlM (fun fb d => do
    let pv := regionPartial b d k
    let p ← sceneRead e pv 24
    sceneWrite e pv (List.replicate 24 0)
    return (List.range 3).map fun j =>
      sumRound f32 .rn [f32.decode (fb.getD j 0), fvalD { m := signExt (fieldAt p (8 * j) 8) 64, e := -24 }]) fb
  sceneWrite e va (fb.flatMap (leBytes 4))

/-- Who combines the partials of a launch, each access at the home of its line (R124); it acts for no group. -/
def combineAgent (l : Launch) : Agent :=
  { unit := .die 0, atHome := true, asid := l.asid, priv := l.priv, launch := l.seqNo, uid := 0, gidx := 0, name := 0, path := 4 }

/-- The combination waits for a page (R404); the entry of each page is written once. -/
def combineWait (s : State) (l : Launch) (va : DWord) (level : Nat) : State :=
  let page := va.toNat / 65536
  let s := if l.combPages.contains page then s else engPage s (combineAgent l) va level
  { s with launches := s.launches.map fun x : Launch =>
      if x.seqNo = l.seqNo then { x with combWait := some va, combRetry := false, combPages := page :: x.combPages.filter (· ≠ page) } else x }

/-- PARTIAL_COMBINE: every region the launch has registered, pixel by pixel; false where an access waits for a page or a die. A pixel whose access
fails is left, with its entry (R465). -/
def combinePartials (s : State) (launch : Nat) : State × Bool :=
  match s.launches.find? fun l => l.seqNo = launch with
  | none => (s, true)
  | some l =>
    if l.combWait.isSome && !l.combRetry then (s, false)
    else
      let e := combineAgent l
      let s := { s with launches := s.launches.map fun x : Launch => if x.seqNo = launch then { x with combWait := none, combRetry := false } else x }
      (l.regions.flatMap fun r => (List.range (fieldAt r.2 8 4)).map fun k => (r.2, k)).foldl (fun acc p =>
        if !acc.2 then acc
        else match combinePixel e p.1 p.2 acc.1 with
          | .ok (_, s) => (s, true)
          | .error (.access (.pend va n)) => (combineWait acc.1 l va n, false)
          | .error (.access (.home va d)) => (homeWait acc.1 e va d, false)
          | .error (.access (.fail cls code va _)) => (engEntry acc.1 e cls code va, true)
          | .error (.access (.lost va _)) => (engEntry acc.1 e 0 0 va, true)
          | .error (.status _ _) => acc) (s, true)

end Sys2Proof.Machine
end

