-- ==== Sys2Proof/Machine/Lod.lean ====
section
/-!
DEFINITION. Level-of-detail resources (15 R314 to R327, R466, 25 R441, R442): the lookup and the reads of `ldlod` and `sample`, the residency
cache, the feedback ring and the residency commands.
-/
namespace Sys2Proof.Machine

/-! ### Resources (R314, R315) -/

/-- A bound resource (Table 15.1). -/
structure Lod where
  base : Nat
  tail : Nat
  mrl : Nat
  w : Nat
  h : Nat
  levels : Nat
  tailLvl : Nat
  fmt : Nat
  wrap : Bool

def lodOf (d : BitVec 512) : Lod :=
  let v := d.toNat
  { base := bits v 63 0, tail := bits v 127 64, mrl := bits v 191 128, w := bits v 207 192 + 1, h := bits v 223 208 + 1,
    levels := bits v 227 224 + 1, tailLvl := bits v 231 228, fmt := bits v 233 232, wrap := bitAt v 234 }

/-- Bytes of a texel. -/
def Lod.z (r : Lod) : Nat := match r.fmt with | 0 => 4 | 1 => 8 | _ => 16
def Lod.tw (r : Lod) : Nat := match r.fmt with | 0 => 128 | 1 => 128 | _ => 64
def Lod.th (r : Lod) : Nat := match r.fmt with | 0 => 128 | 1 => 64 | _ => 64
def Lod.wAt (r : Lod) (l : Nat) : Nat := max 1 (r.w / 2 ^ l)
def Lod.hAt (r : Lod) (l : Nat) : Nat := max 1 (r.h / 2 ^ l)
def Lod.txAt (r : Lod) (l : Nat) : Nat := (r.wAt l + r.tw - 1) / r.tw
def Lod.tyAt (r : Lod) (l : Nat) : Nat := (r.hAt l + r.th - 1) / r.th
def Lod.tileOff (r : Lod) (l : Nat) : Nat := (List.range l).foldl (fun n k => n + r.txAt k * r.tyAt k) 0

/-- The VA of a texel of a level. -/
def Lod.texelVa (r : Lod) (l x y : Nat) : Nat :=
  if l < r.tailLvl then
    r.base + 65536 * (r.tileOff l + y / r.th * r.txAt l + x / r.tw) + (y % r.th * r.tw + x % r.tw) * r.z
  else
    let start := ((List.range l).drop r.tailLvl).foldl (fun n k => n + (r.wAt k * r.hAt k * r.z + 127) / 128 * 128) 0
    r.tail + start + (y * r.wAt l + x) * r.z

/-- The first bad field of a descriptor. -/
def lodBad (d : List Byte) : Option Nat :=
  let f (o n : Nat) : Nat := fieldAt d o n
  let lv := f 28 1 % 16
  badField [(0, !vaOk (f 0 8) 65536), (8, !vaOk (f 8 8) 128), (16, !vaOk (f 16 8) 128), (28, Nat.log2 (max (f 24 2) (f 26 2) + 1) < lv),
    (28, lv < f 28 1 / 16), (29, f 29 1 % 4 = 3), (29, 8 ≤ f 29 3), (32, f 32 32 ≠ 0)]

def slotOf (s : State) (asid : BitVec 12) (slot : Nat) : Option Lod :=
  (look (look s.ctxRes asid.toNat {}).slots slot none).map lodOf

/-! ### Coordinates (R320, R321) -/

/-- One coordinate of texel(L, u, v). -/
def texelAt (r : Lod) (u size : Nat) : Nat :=
  let v := f32.decode u
  let x : Int := if v.finite then (v.dy.mul { m := size, e := 0 }).floorAt 0 else 0
  if r.wrap then (x % size).toNat else (sat x 0 (size - 1)).toNat

def Lod.texel (r : Lod) (l u v : Nat) : Nat × Nat := (texelAt r u (r.wAt l), texelAt r v (r.hAt l))

/-- floor(½ log2 R + b) for a positive dyadic R. -/
def floorHalfLog (x b : Dyadic) : Int :=
  let p := pow2 x.e
  let num := x.m.natAbs * p.1
  let den := p.2
  let g := floorLog2 num den
  let q := pow2 g
  if num * q.2 = den * q.1 then (({ m := g, e := -1 } : Dyadic).add b).floorAt 0
  else
    let y : Int := (num : Int) * q.2 * fxOne / (den * q.1 : Nat)
    (g * fxOne + fxLn y * fxOne / fxLn2 + 2 * fxOf b) / (2 * fxOne)

/-- The wanted level of modes 0 to 2 (R320), from the coordinates' f32 bits. -/
def wantedLevel (r : Lod) (mode : Nat) (c : List Nat) : Nat :=
  let top := r.levels - 1
  let at_ (k : Nat) : Nat := c.getD k 0
  let pick (x : Int) : Nat := (sat x 0 top).toNat
  if mode = 0 then
    match f32.decode (at_ 2) with
    | .nan => top
    | .inf n => if n then 0 else top
    | .fin n m e => pick (((dyadicOf n m e).add { m := 1, e := -1 }).floorAt 0)
  else
    let sq (x : Nat) (k : Nat) : Dyadic := let y := (valOf x).mul { m := k, e := 0 }; y.mul y
    let a := (sq (at_ 2) r.w).add (sq (at_ 3) r.h)
    let b := (sq (at_ 4) r.w).add (sq (at_ 5) r.h)
    let rho2 := if a.lt b then b else a
    let grads := [at_ 2, at_ 3, at_ 4, at_ 5]
    let nan := grads.any fun x => (f32.decode x).isNan
    let inf := grads.any fun x => (f32.decode x).isInf
    let bias := if mode = 2 then f32.decode (at_ 6) else .fin false 0 0
    match bias with
    | .nan => top
    | .inf n => if nan || (n && inf) || (!n && !inf && rho2.m = 0) then top else if n then 0 else top
    | .fin n m e =>
      if nan || inf then top
      else if rho2.m = 0 then 0
      else pick (floorHalfLog rho2 ((dyadicOf n m e).add { m := 1, e := -1 }))

/-! ### The residency cache (R317, R318, R466) -/

def clampOf (x lo hi : Nat) : Nat := max lo (min x hi)

def rlife (p : Profiles) : Nat := 2 ^ clampOf p.rlife.toNat 10 20

/-- The MRL byte of a region, from the cache or by a fill; or what the fill meets. -/
def mrlByte (s : State) (r : Lod) (slot region : Nat) : State × Nat × Option Verdict :=
  let asid := s.team.asid
  let core := s.team.core
  let life := rlife (look s.ctxRes asid.toNat {}).prof
  let same (e : ResEntry) : Bool := e.asid = asid && e.slot = slot && e.region = region
  let others := (s.core core).residency.filter fun e => !same e
  match (s.core core).residency.find? fun e => same e && s.clock < e.filled + life with
  | some e =>
    (s.modCore core fun k => { k with residency := others ++ [{ e with used := s.clock }] }, e.value.toNat, none)
  | none =>
    let (s, x) := checkAccess s (.core core) asid s.team.priv s.team.seqNo (BitVec.ofNat 64 (r.mrl + region)) 1 .read
    match (match x with
      | .ok (.device pa) leaf k => verdict s .read 1 (.ok (.device pa) leaf k)
      | .ok _ _ _ => .fail clsTarget (reason 4 0 0)
      | x => verdict s .read 1 x) with
    | .ok (.device pa) c =>
      let (s, x) := engineRead s (dieOf core) pa 1 c asid (some core)
      let e : ResEntry := { asid := asid, slot := slot, region := region, value := BitVec.ofNat 8 x, filled := s.clock, used := s.clock }
      (s.modCore core fun k => { k with residency := (if 512 ≤ others.length then others.drop 1 else others) ++ [e] }, x, none)
    | v => (s, 0, some v)

/-! ### Feedback (R325, R441) -/

/-- A feedback entry counted as dropped. -/
def dropFeedback (s : State) (asid : BitVec 12) (code : Nat) : State :=
  let r := look s.ctxRes asid.toNat {}
  let s := { s with ctxRes := change s.ctxRes asid.toNat {} (fun r : CtxRes =>
    { r with fbOvf := min (r.fbOvf + 1) 0xFFFFFFFF, fbDropLogged := true }) }
  if r.fbDropLogged then s
  else ctxRing s asid { source := 15, faddr := r.prof.fbva, fcode := BitVec.ofNat 32 code }

def ringSize (p : Profiles) : Nat := 2 ^ clampOf p.fblog2.toNat 6 20

/-- `feedback(slot, w, (tx, ty))`: the state, and the logged and dropped bits. -/
def feedback (s : State) (slot w tx ty : Nat) : State × Nat × Nat :=
  let asid := s.team.asid
  let core := s.team.core
  let r := look s.ctxRes asid.toNat {}
  let key := (asid.toNat, slot, w, tx, ty)
  if r.prof.fbva = 0 then (s, 0, 0)
  else if r.prof.filter = 1 && (s.core core).filter.contains key then (s, 0, 0)
  else if ringSize r.prof ≤ r.fbCount then (dropFeedback s asid 0, 0, 1)
  else
    let at_ := (r.fbHead + r.fbCount) % ringSize r.prof
    let tick := if s.trace.tempo then s.trace.ticks else 0
    let va := BitVec.ofNat 64 (4096 * (r.prof.fbva.toNat / 4096) + 16 * at_)
    match hubPage s asid va .write with
    | some (.device pa, c) =>
      let s := rawWrite s (.device pa) 16 (slot + 2 ^ 8 * w + 2 ^ 16 * tx + 2 ^ 32 * ty + 2 ^ 64 * tick) c
      let s := { s with ctxRes := change s.ctxRes asid.toNat {} (fun r : CtxRes => { r with fbCount := r.fbCount + 1 }) }
      let insert (k : Core) : Core :=
        if r.prof.filter = 1 then
          { k with filter := if k.filter.length < 64 then k.filter ++ [key] else k.filter.set (k.filterNext % 64) key,
                   filterNext := (k.filterNext + 1) % 64 }
        else k
      (s.modCore core insert, 1, 0)
    | _ => (dropFeedback s asid 1, 0, 1)

/-! ### The loads (R321, R322) -/

/-- Floor and exact fraction of u · W - ½; 0 for a coordinate that is not finite. -/
def filterPos (u size : Nat) : Int × Dyadic :=
  let v := f32.decode u
  if v.finite then
    let p := (v.dy.mul { m := size, e := 0 }).add { m := -1, e := -1 }
    let n := p.floorAt 0
    (n, p.add { m := -n, e := 0 })
  else (0, .zero)

/-- The texels a load reads with their weights: x, y, weight. -/
def lodTexels (r : Lod) (sample : Bool) (d u v : Nat) : List (Nat × Nat × Dyadic) :=
  let (x, y) := r.texel d u v
  let one : Dyadic := { m := 1, e := 0 }
  if !sample then [(x, y, one)]
  else
    let (px, fx) := filterPos u (r.wAt d)
    let (py, fy) := filterPos v (r.hAt d)
    let edge (k : Int) (size : Nat) : Nat := if r.wrap then (k % size).toNat else (sat k 0 (size - 1)).toNat
    let tile (k t size : Nat) : Nat := if d < r.tailLvl then clampOf k (t / size * size) (t / size * size + size - 1) else k
    [(0, 0), (1, 0), (0, 1), (1, 1)].map fun ij : Nat × Nat =>
      let wx := if ij.1 = 0 then one.add fx.neg else fx
      let wy := if ij.2 = 0 then one.add fy.neg else fy
      (tile (edge (px + ij.1) (r.wAt d)) x r.tw, tile (edge (py + ij.2) (r.hAt d)) y r.th, wx.mul wy)

/-- Whether the registers of an `ldlod` or `sample` that its binding fixes lie outside what the group may write (R323). -/
def lodRegBad (g : Group) (d width : Nat) : Bool := 64 < d + width || g.nregs < d + width

/-- The lookup and the checks of one lane. Where the load raises REGISTER at its fault point (R323), FADDR is the address of the lane's MRL byte: Table
23.3 gives the address of the lowest faulting lane, and the word has no other before it has the byte (DESIGN CHOICE, notes/assumptions/85.md). -/
def lodLane (r : Lod) (sample : Bool) (mode slot : Nat) (regBad : Bool) (s : State) (lane : Nat) (c : List Nat) : State × LodLane :=
  let u := c.getD 0 0
  let v := c.getD 1 0
  let (x0, y0) := r.texel 0 u v
  let region := y0 / r.th * r.txAt 0 + x0 / r.tw
  let (s, byte, bad) := mrlByte s r slot region
  let m := min byte r.tailLvl
  let w := if mode = 3 then m else wantedLevel r mode c
  let d := max w m
  let stop (v : Verdict) : LodLane :=
    { lane := lane, d := d, w := w, fb := none, accs := [{ lane := lane, va := BitVec.ofNat 64 (r.mrl + region), v := v }], weights := [] }
  match bad with
  | some (.fail cls code) => (s, stop (if regBad && cls ≠ clsTarget then .fail 0x02 0 else .fail cls code))
  | some v => (s, if regBad then stop (.fail 0x02 0) else { stop v with again := match v with | .home _ _ _ => some c | .walk _ _ => some c | _ => none })
  | none =>
    if regBad then (s, stop (.fail 0x02 0))
    else
      let ts := lodTexels r sample d u v
      let (s, accs) := checkLanes r.z .read s (ts.map fun t => (lane, BitVec.ofNat 64 (r.texelVa d t.1 t.2.1)))
      let (wx, wy) := r.texel w u v
      (s, { lane := lane, d := d, w := w, fb := if w < d then some (wx / r.tw, wy / r.th) else none, accs := accs,
            weights := ts.map fun t => (t.2.2.m, t.2.2.e) })

/-- The status word of R321. -/
def lodStatus (r : Lod) (x : LodLane) (logged dropped : Nat) : Word :=
  BitVec.ofNat 32 (x.d + 16 * x.w + (if x.w < x.d then 256 else 0) + 512 * logged + 1024 * dropped + if r.tailLvl ≤ x.d then 2048 else 0)

/-- Component k of the filtered texels (R322). -/
def filterComponent (fmt k : Nat) (texels : List (Nat × Dyadic)) : Word :=
  let live := texels.filter fun t => t.2.m ≠ 0
  match fmt with
  | 0 =>
    let sum := live.foldl (fun a t => a.add (t.2.mul { m := bits t.1 (8 * k + 7) (8 * k), e := 0 })) Dyadic.zero
    let p := pow2 sum.e
    BitVec.ofNat 32 (f32.round .rn false (sum.m.natAbs * p.1) (255 * p.2))
  | f =>
    let val (x : Nat) : FVal := if f = 1 then f16.decode (bits x (16 * k + 15) (16 * k)) else f32.decode (bits x (32 * k + 31) (32 * k))
    BitVec.ofNat 32 (sumRound f32 .rn (live.map fun t => (val t.1).mul (fvalD t.2)))

/-- The registers a lane's load writes. -/
def lodOut (r : Lod) (sample : Bool) (x : LodLane) (data : List Nat) (status : Word) : List Word :=
  (if sample then (List.range 4).map fun k => filterComponent r.fmt k (data.zip (x.weights.map fun w => { m := w.1, e := w.2 }))
   else (List.range (r.z / 4)).map fun k => BitVec.ofNat 32 (bits (data.headD 0) (32 * k + 31) (32 * k))) ++ [status]

/-- The accesses of lanes of a load: feedback in lane order, then the reads; the registers of each lane (R321, R322). -/
def performLod (s : State) (seq : Nat) (l : LodLoad) (lanes : List LodLane) : State :=
  let r := lodOf l.desc
  let (s, status) := lanes.foldl (fun acc x =>
    match x.fb with
    | some (tx, ty) =>
      let (s, lg, dr) := feedback acc.1 l.slot x.w tx ty
      (s, acc.2 ++ [lodStatus r x lg dr])
    | none => (acc.1, acc.2 ++ [lodStatus r x 0 0])) (s, ([] : List Word))
  let (s, outs) := (lanes.zip status).foldl (fun acc x =>
    let (s, data) := x.1.accs.foldl (fun acc a => match a.v with
      | .ok t c => let (s, v) := loadTarget acc.1 t c r.z; (s, acc.2 ++ [v])
      | _ => acc) (acc.1, ([] : List Nat))
    (s, acc.2 ++ [(x.1.lane, lodOut r l.filter x.1 data x.2)])) (s, ([] : List (Nat × List Word)))
  (List.range l.width).foldl (fun s k => s.modGrp fun g => g.addPend
    { seq := seq, due := none, space := .v, cells := outs.map (fun x => (32 * (l.d + k) + x.1, x.2.getD k 0)), long := true, born := s.clock }) s

/-! ### Accesses under way -/

/-- Accesses of a context's groups that are still to be performed, as `Command.after` names them and two tests pick them: of those that are held, of exited
groups too, and of words that wait. -/
def underWay (s : State) (asid : BitVec 12 → Bool) (held : HeldStore → Bool) (word : MemWord → Bool) : List (Nat × Nat × Nat) :=
  (s.allTeams.filter fun t => asid t.asid).flatMap fun t => ((t.orphans.filter held).map fun h => (t.uid, 16, h.seq)) ++
    (s.groupsOf t.uid).flatMap fun g =>
      ((g.held.filter held).map fun h => (t.uid, g.gidx, h.seq)) ++ (g.awaits.filter word).map fun w => (t.uid, g.gidx, w.cur.seq)

/-- The copies of contexts that have left locked bytes unwritten (R258), whose targets are translated. -/
def copiesUnderWay (s : State) (asid : BitVec 12 → Bool) : List (Nat × Nat × Nat) :=
  (s.commands.filter fun c => asid c.asid && !c.rest.isEmpty).map fun c => (0, c.id, 0)

/-- Level-of-detail loads of a context's slot that are still to be performed (R280, R327). -/
def lodUnderWay (s : State) (asid : BitVec 12) (slot : Nat → Bool) : List (Nat × Nat × Nat) :=
  underWay s (· = asid) (fun h => match h.lod with | some (l, _) => slot l.slot | none => false)
    fun w => match w.kind with | .lod l _ => slot l.slot | _ => false

/-- The record of a command waits for accesses under way (R279, R280, R327). -/
def holdFor (s : State) (id : Nat) (l : List (Nat × Nat × Nat)) : State := s.modCmd id fun c => { c with after := l }

/-! ### The residency commands (R326, R327) -/

/-- Every residency entry of a slot is dropped on every core. -/
def dropResidency (s : State) (hit : ResEntry → Bool) : State × Nat :=
  let n := s.cores.foldl (fun n c => n + (c.2.residency.filter hit).length) 0
  let cores := (s.cores.map fun c => c.1).foldl (fun m k =>
    change m k ({} : Core) fun x : Core => { x with residency := x.residency.filter fun e => !hit e }) s.cores
  ({ s with cores := cores }, n)

/-- The rows of a rectangle: VA and length. -/
def rectRows (r : Lod) (a : Nat) : List (Nat × Nat) :=
  let rx := bits a 21 12
  let ry := bits a 31 22
  let w := bits a 41 32 + 1
  (List.range (bits a 51 42 + 1)).map fun k => (r.mrl + (ry + k) * r.txAt 0 + rx, w)

def rectInside (r : Lod) (a : Nat) : Bool :=
  bits a 21 12 + bits a 41 32 + 1 ≤ r.txAt 0 && bits a 31 22 + bits a 51 42 + 1 ≤ r.tyAt 0

/-- The rows of a rectangle behind its first `n` bytes. -/
def skipRows : Nat → List (Nat × Nat) → List (Nat × Nat)
  | _, [] => []
  | n, (va, w) :: rest => if w ≤ n then skipRows (n - w) rest else (va + n, w - n) :: rest

/-- `.mrlset`: row by row; the bytes written, and what stops it. -/
def writeRows (e : Agent) (v : Byte) : List (Nat × Nat) → Nat → State → State × Nat × Option EngStop
  | [], n, s => (s, n, none)
  | (va, w) :: rest, n, s =>
    let (s, cs, stop) := engMap s e (BitVec.ofNat 64 va) w .write deviceOnly
    let m := cs.foldl (fun n c => n + c.len) 0
    let s := writeChunks s e cs (List.replicate m v)
    match stop with
    | some x => (s, n + m, some x)
    | none => writeRows e v rest (n + w) s

/-- `.mrlrd`: the bytes of the rectangle. -/
def readRows (e : Agent) : List (Nat × Nat) → List Byte → State → State × List Byte × Option EngStop
  | [], out, s => (s, out, none)
  | (va, w) :: rest, out, s =>
    let (s, cs, stop) := engMap s e (BitVec.ofNat 64 va) w .read deviceOnly
    match stop with
    | some x => (s, out, some x)
    | none => let (s, bs) := readChunks s e cs; readRows e rest (out ++ bs) s

/-- `.fbpop`: entries are moved one at a time; the entries moved, and what stops it. -/
def popEntries (e : Agent) (asid : BitVec 12) (dst : Nat) : Nat → Nat → State → State × Nat × Option EngStop
  | 0, k, s => (s, k, none)
  | n + 1, k, s =>
    let r := look s.ctxRes asid.toNat {}
    let va := 4096 * (r.prof.fbva.toNat / 4096) + 16 * (r.fbHead % ringSize r.prof)
    let (s, cs, stop) := engMap s e (BitVec.ofNat 64 va) 16 .read deviceOnly
    match stop with
    | some x => (s, k, some x)
    | none =>
      let (s, bs) := readChunks s e cs
      let (s, ds, stop) := engMap s e (BitVec.ofNat 64 (dst + 16 * k)) 16 .write anyTarget true
      match stop with
      | some x => (s, k, some x)
      | none =>
        let s := writeChunks s e ds bs
        let s := { s with ctxRes := change s.ctxRes asid.toNat {} (fun r : CtxRes =>
          { r with fbHead := (r.fbHead + 1) % ringSize r.prof, fbCount := r.fbCount - 1 }) }
        popEntries e asid dst n (k + 1) s

/-- A `cop.lod` starts. -/
def runLod (s : State) (c : Command) : State :=
  let e := agentOf c 0
  let a := c.opa.toNat
  let b := c.opb.toNat
  let ctx := look s.ctxRes c.asid.toNat {}
  let setSlot (s : State) (v : Option (BitVec 512)) : State :=
    let s := { s with ctxRes := change s.ctxRes c.asid.toNat {} (fun r : CtxRes => { r with slots := put r.slots (b % 64) v none }) }
    (dropResidency s fun x => x.asid = c.asid && x.slot = b % 64).1
  match c.fn with
  | 0 =>
    let wait (s : State) : State := holdFor s c.id (lodUnderWay s c.asid fun k => k = b % 64)
    if a = 0 then wait (finishCmd (setSlot s none) c.id 0 0)
    else match lodBad c.desc with
      | some o => finishCmd s c.id 2 o
      | none => wait (finishCmd (setSlot s (some (BitVec.ofNat 512 (ofLeBytes c.desc)))) c.id 0 1)
  | 1 => match slotOf s c.asid (a % 64) with
    | none => finishCmd s c.id 2 0
    | some r =>
      if !rectInside r a then finishCmd s c.id 2 0
      else match writeRows e (BitVec.ofNat 8 (bits a 11 8)) (skipRows c.count (rectRows r a)) c.count s with
        | (s, n, none) => finishCmd s c.id 0 n
        | (s, n, some x) => stopCmd (s.modCmd c.id fun c => { c with count := n }) { c with count := n } e x n
  | 2 => match slotOf s c.asid (a % 64) with
    | none => finishCmd s c.id 2 0
    | some r =>
      if !rectInside r a then finishCmd s c.id 2 0
      else match readRows e (rectRows r a) [] s with
        | (s, out, none) =>
          let vs := out.map fun x => x.toNat
          finishCmd s c.id 0 (vs.foldl min 255 + 256 * vs.foldl max 0)
        | (s, _, some x) => stopCmd s c e x 0
  | 3 =>
    let n := min (b % 8192 - c.count) ctx.fbCount
    let (s, _, stop) := engMap s e (BitVec.ofNat 64 (a + 16 * c.count)) (16 * n) .write anyTarget true
    match stop with
    | some x => stopCmd s c e x c.count
    | none => match popEntries e c.asid a n c.count s with
      | (s, k, none) => finishCmd s c.id 0 k
      | (s, k, some x) => stopCmd (s.modCmd c.id fun c => { c with count := k }) { c with count := k } e x k
  | _ =>
    match b % 4 with
    | 0 => finishCmd s c.id 0 ctx.fbCount
    | k =>
      let s := if k = 2 then { s with ctxRes := change s.ctxRes c.asid.toNat {} (fun r : CtxRes => { r with fbOvf := 0 }) } else s
      finishCmd s c.id 0 ctx.fbOvf

end Sys2Proof.Machine
end

