-- ==== Sys2Proof/Machine/LaneMem.lean ====
section
/-!
DEFINITION. Lane memory words (10 R188 to R198): loads, stores, atomics, scratchpad words and prefetch, and the loads of level-of-detail
resources (15 R320 to R323). A word's lanes are checked in lane order; those that pass have their effects, those that fail raise the
word's fault or page request (23 R386, R389).
-/
namespace Sys2Proof.Machine

/-- The address of a lane (R188). -/
def laneAddr (rd : Rd) (split : Bool) (a l : Nat) (disp : Int) : DWord :=
  let hi := if split then rd 1 (a + 1) l else rd 0 (a + 1) l
  (hi ++ rd 0 a l) + BitVec.ofInt 64 disp

/-- A scratchpad access of a lane (R195, R405): the member, the bounds of its allocation, then alignment. -/
def scratchLane (s : State) (n : Nat) (reg : Word) (disp : Int) : DWord × Verdict :=
  let m := reg.toNat / 2 ^ 28
  let o : Int := (reg.toNat % 2 ^ 28 : Nat) + disp
  let va : DWord := BitVec.ofInt 64 o
  let target : Option Team :=
    if m = 15 then some s.team
    else if m < s.team.clh * s.team.clw then
      (if m = s.team.midx then some s.team
       else s.allTeams.find? (fun t => t.seqNo = s.team.seqNo && t.cidx = s.team.cidx && t.midx = m))
    else none
  match target with
  | none => (va, .fail 0x12 0)
  | some t =>
    if o < 0 || (t.scratchSize : Int) < o + n then (va, .fail 0x12 0)
    else if o % n ≠ 0 then (va, .fail clsAlign 0)
    else (va, .ok (.share t.uid o.toNat) {})

/-- The checks of a scratchpad word. -/
def checkScratch (s : State) (n a : Nat) (disp : Int) (rd : Rd) : List LaneAcc :=
  (lanesOf s.cur.mask).map fun l =>
    let (va, v) := scratchLane s n (rd 0 a l) disp
    { lane := l, va := va, v := v }

/-- The addresses of a memory word's lanes. -/
def laneVas (s : State) (rd : Rd) (split : Bool) (a : Nat) (disp : Int) : List (Nat × DWord) :=
  (lanesOf s.cur.mask).map fun l => (l, laneAddr rd split a l disp)

/-- The registers a memory word writes: the first and how many. -/
def MemKind.writes : MemKind → Nat × Nat
  | .load f d => (d, lmRegs f)
  | .atomic _ (some d) => (d, 1)
  | .lod l _ => (l.d, l.width)
  | _ => (0, 0)

/-- LOCKED comes after every other check, in every lane of a word that writes a locked register and that passes the others (R258, R396). -/
def lockLanes (s : State) (k : MemKind) (accs : List LaneAcc) : List LaneAcc :=
  let (d, n) := k.writes
  let bad := (failing accs).map fun x => x.lane
  if (lockedRegs s.team s.grp.gidx).any (fun r => d ≤ r && r < d + n) then
    accs.map fun x => if bad.contains x.lane then x else { x with v := .fail 0x1D 0 }
  else accs

/-- The registers a loaded value of size code `f` goes to, from `d` on, written by lanes (R189). -/
def loadWrite (g : Group) (clk seq f d : Nat) (vals : List (Nat × Nat)) : Group :=
  (List.range (lmRegs f)).foldl (fun g k => g.addPend
    { seq := seq, due := none, space := .v, cells := vals.map (fun x => (32 * (d + k) + x.1, (loadRegs f x.2).getD k 0)), long := true, born := clk }) g

/-- The address of a lane of a memory word. -/
def MemWord.vaOf (w : MemWord) (l : Nat) : DWord := ((w.accs.find? fun x => x.lane = l).map fun x => x.va).getD 0

/-- A held load's access. -/
def heldLoad (s : State) (w : MemWord) (f d : Nat) (x : Nat × Target × Caching) : HeldStore :=
  { seq := w.cur.seq, target := x.2.1, size := lmSize f, data := 0, dest := some (32 * d + x.1), caching := x.2.2, load := some f,
    cur := w.cur, lane := x.1, va := w.vaOf x.1, since := s.clock }

/-- A held lane of an `ldlod` or `sample`. -/
def heldLod (s : State) (w : MemWord) (l : LodLoad) (x : LodLane) : HeldStore :=
  { seq := w.cur.seq, target := (x.accs.findSome? fun a => match a.v with | .ok t _ => some t | _ => none).getD (.hub 0), size := 0, data := 0,
    lod := some (l, x), cur := w.cur, lane := x.lane, va := w.vaOf x.lane, since := s.clock }

/-- The accesses of lanes that pass: loads are performed now, or held behind older accesses of the group (R110); stores and atomics are held
while they are speculative (R383), and so are loads that leave feedback (R325). -/
def performWord (s : State) (w : MemWord) (xs : List (Nat × Target × Caching)) (accs : List LaneAcc) : State :=
  let seq := w.cur.seq
  let datum (l : Nat) : Nat × Word := ((w.data.find? fun x => x.1 = l).map fun x => x.2).getD (0, 0)
  match w.kind with
  | .load f d =>
    if s.grp.olderAccess seq then s.modGrp fun g => xs.foldl (fun g x => g.hold (heldLoad s w f d x)) g
    else
      let (s, vals, rest) := xs.foldl (fun acc x =>
        let (s, go) := askSlice acc.1 acc.1.team.core x.2.1 false
        if go then
          let (s, v) := loadTarget s x.2.1 x.2.2 (lmSize f)
          (s, acc.2.1 ++ [(x.1, v)], acc.2.2)
        else (s, acc.2.1, acc.2.2 ++ [x])) (s, ([] : List (Nat × Nat)), ([] : List (Nat × Target × Caching)))
      s.modGrp fun g => rest.foldl (fun g x => g.hold (heldLoad s w f d x)) (if vals.isEmpty then g else loadWrite g s.clock seq f d vals)
  | .store n => (laneOrder s n xs).foldl (fun s x => issueStore s n none (fun _ => 0) (fun l => (datum l).1) none w.vaOf x) s
  | .atomic op d =>
    (laneOrder s 4 xs).foldl (fun s x => issueStore s 4 (some op) (fun l => (datum l).2) (fun l => (datum l).1) d w.vaOf x) s
  | .lod l lanes =>
    let bad := (failing accs).map fun x => x.lane
    let good := (lanes.filter fun x => !bad.contains x.lane).map fun x => { x with accs := accs.filter fun a => a.lane = x.lane }
    if s.grp.olderAccess seq || (s.grp.speculative seq && good.any fun x => x.fb.isSome) then
      s.modGrp fun g => good.foldl (fun g x => g.hold (heldLod s w l x)) g
    else
      let (s, now, rest) := good.foldl (fun acc x =>
        let (s, go) := askAll acc.1 acc.1.team.core (heldLod s w l x).targets false
        if go then (s, acc.2.1 ++ [x], acc.2.2) else (s, acc.2.1, acc.2.2 ++ [x])) (s, ([] : List LodLane), ([] : List LodLane))
      let s := if now.isEmpty then s else performLod s seq l now
      s.modGrp fun g => rest.foldl (fun g x => g.hold (heldLod s w l x)) g

/-- The word passes its fault point: the lanes that pass have their effects, the others raise what they met; a store that timed out may have
been performed (R408). -/
def finishWord (s : State) (w : MemWord) : State :=
  let s := { s.modGrp (fun g => { g.arrived w.cur.seq with parkClk := max g.parkClk (s.clock + 1) }) with cur := w.cur }
  let accs := lockLanes s w.kind (resolve s w)
  let s := logRefused s accs
  let s1 := if pageWhole s accs then s else performWord { s with free := s.free + 1 } w (passing accs) accs
  let s2 := accs.foldl (fun s x => match x.late, w.kind.access with
    | some _, .read => s
    | some t, _ => performWord s w [(x.lane, t, {})] []
    | none, _ => s) s1
  raiseLanes s2 accs

/-- The lookups of a level-of-detail load whose MRL bytes could not be filled are made again, now that they can (R317, R447). -/
def lookAgain (s : State) (w : MemWord) : State × MemWord :=
  match w.kind with
  | .lod l lanes =>
    if w.homeGone || memWait s w ≠ none || lanes.all (fun x => x.again.isNone) then (s, w)
    else
      let (s, lanes) := lanes.foldl (fun acc x =>
        match x.again with
        | some cs =>
          let (s, y) := lodLane (lodOf l.desc) l.filter l.mode l.slot (lodRegBad s.grp l.d l.width) acc.1 x.lane cs
          (s, acc.2 ++ [y])
        | none => (acc.1, acc.2 ++ [x])) (s, ([] : List LodLane))
      (s, { w with kind := .lod l lanes, accs := lanes.flatMap fun x => x.accs, since := none })
  | _ => (s, w)

/-- A memory word goes on as far as it can. -/
def settleWord (s : State) (w : MemWord) : State :=
  let (s, w) := walkAgain s (reopen s w)
  let (s, w) := lookAgain s w
  match memWait s w with
  | none => finishWord s w
  | some (.lost pa) => lostReset s s.team.asid pa
  | some h => holdWord s w h

/-- What every memory word does around its accesses: the REGISTER check, issue, the lanes' checks, waits, the accesses of the lanes
that pass, the fault of the others. -/
def memWord (i : Instr) (s : State) (kind : MemKind) (check : State → Rd → State × List LaneAcc)
    (data : Rd → Nat → Nat × Word := fun _ _ => (0, 0)) : Host.Outcome State Fault Refusal :=
  let info := laneInfo i
  if !info.inAllocation s.grp.nregs then done (raiseAll s 0x02)
  else
    let (s, t) := issueLane s info
    let rd := rdOf s t
    let (s, accs) := check (if kind.access = .read then noteLoad s s.team.core else s) rd
    done (settleWord s { cur := s.cur, kind := kind, accs := if kind.access = .read then accs else lockLanes s kind accs,
                              data := (lanesOf s.cur.mask).map fun l => (l, data rd l) })

/-- A held access is performed (R110). -/
def performHeld (s : State) (h : HeldStore) : State :=
  match h.lod, h.load, h.dest with
  | some (l, x), _, _ => performLod s h.seq l [x]
  | none, some f, some key =>
    let (s, v) := loadTarget s h.target h.caching h.size
    s.modGrp fun g => loadWrite g s.clock h.seq f (key / 32) [(key % 32, v)]
  | _, _, _ => performStore s h

/-- The data of a store: registers from `d` on, read in cycles from `c` on (R190). -/
def storeData (rd : Rd) (c d f l : Nat) : Nat :=
  ((List.range (lmRegs f)).foldl (fun a k => a + (rd (c + k) (d + k) l).toNat * 2 ^ (32 * k)) 0) % 256 ^ lmSize f

def dispOf (o : BitVec 8) (n : Nat) : Int := o.toInt * n

/-- `ld` (R189). -/
def execLd (k : BitVec 1) (d a : BitVec 6) (f : BitVec 4) (o : BitVec 8) (s : State) : Host.Outcome State Fault Refusal :=
  let n := lmSize f.toNat
  memWord (.ld k d a f o) s (.load f.toNat d.toNat) fun s rd => checkLanes n .read s (laneVas s rd true a.toNat (dispOf o n))

/-- `st` (R190). -/
def execSt (k : BitVec 1) (d a : BitVec 6) (f : BitVec 4) (o : BitVec 8) (s : State) : Host.Outcome State Fault Refusal :=
  let n := lmSize f.toNat
  memWord (.st k d a f o) s (.store n) (fun s rd => checkLanes n .write s (laneVas s rd true a.toNat (dispOf o n)))
    fun rd l => (storeData rd 2 d.toNat f.toNat l, 0)

/-- `atom` (R191). -/
def execAtom (k : BitVec 1) (d a b : BitVec 6) (f : BitVec 4) (h : BitVec 2) (s : State) : Host.Outcome State Fault Refusal :=
  memWord (.atom k d a b f h) s (.atomic f.toNat (some d.toNat)) (fun s rd => checkLanes 4 .atomic s (laneVas s rd false a.toNat 0))
    fun rd l => ((rd 1 b.toNat l).toNat, 0)

/-- `cas` (R192). -/
def execCas (k : BitVec 1) (d a b c : BitVec 6) (s : State) : Host.Outcome State Fault Refusal :=
  memWord (.cas k d a b c) s (.atomic 10 (some d.toNat)) (fun s rd => checkLanes 4 .atomic s (laneVas s rd false a.toNat 0))
    fun rd l => ((rd 2 c.toNat l).toNat, rd 1 b.toNat l)

/-- `red` (R191). -/
def execRed (k : BitVec 1) (a b : BitVec 6) (f : BitVec 4) (h : BitVec 2) (s : State) : Host.Outcome State Fault Refusal :=
  memWord (.red k a b f h) s (.atomic f.toNat none) (fun s rd => checkLanes 4 .atomic s (laneVas s rd false a.toNat 0))
    fun rd l => ((rd 1 b.toNat l).toNat, 0)

/-- `lds` (R196). -/
def execLds (k : BitVec 1) (d a : BitVec 6) (f : BitVec 4) (o : BitVec 8) (s : State) : Host.Outcome State Fault Refusal :=
  let n := lmSize f.toNat
  memWord (.lds k d a f o) s (.load f.toNat d.toNat) fun s rd => (s, checkScratch s n a.toNat (dispOf o n) rd)

/-- `sts` (R196). -/
def execSts (k : BitVec 1) (d a : BitVec 6) (f : BitVec 4) (o : BitVec 8) (s : State) : Host.Outcome State Fault Refusal :=
  let n := lmSize f.toNat
  memWord (.sts k d a f o) s (.store n) (fun s rd => (s, checkScratch s n a.toNat (dispOf o n) rd))
    fun rd l => (storeData rd 1 d.toNat f.toNat l, 0)

/-- `atoms` (R196). -/
def execAtoms (k : BitVec 1) (d a b : BitVec 6) (f : BitVec 4) (h : BitVec 2) (s : State) : Host.Outcome State Fault Refusal :=
  memWord (.atoms k d a b f h) s (.atomic f.toNat (some d.toNat)) (fun s rd => (s, checkScratch s 4 a.toNat 0 rd))
    fun rd l => ((rd 1 b.toNat l).toNat, 0)

/-- What `pref` does for one lane (R197): nothing where a load would fault or its target is not device memory. -/
def prefLane (f : Nat) (s : State) (va : DWord) : State :=
  let line : DWord := va &&& ~~~(127 : DWord)
  let (s', v) := checkLane s 1 .read line
  match v with
  | .ok (.device pa) c =>
    let core := s.team.core
    if f = 0 then l1Load s' core (pa / 128) (leaseLen s' s.team.asid) c s.team.asid true
    else if c.policy = 3 then s'
    else reachRead (countRequest s' (some core) (dieOf core) (pa / 128) false s.team.asid) (dieOf core) (pa / 128) c
  | _ => s

/-- `pref` (R197); it never faults. -/
def execPref (k : BitVec 1) (a : BitVec 6) (f : BitVec 4) (o : BitVec 8) (s : State) : Host.Outcome State Fault Refusal :=
  let info := laneInfo (.pref k a f o)
  if !info.inAllocation s.grp.nregs then done (raiseAll s 0x02)
  else
    let (s, t) := issueLane s info
    let s := (laneVas s (rdOf s t) true a.toNat (dispOf o 128)).foldl (fun s x => prefLane f.toNat s x.2) s
    done { s with free := s.free + 1 }

/-! ### Loads of level-of-detail resources -/

/-- A `ldlod` or `sample` (R321 to R323): REGISTER for what the word fixes, the slot's binding, the lookup and the checks of each lane. -/
def lodWord (i : Instr) (sample : Bool) (d c slot mode : Nat) (s : State) : Host.Outcome State Fault Refusal :=
  let info := laneInfo i
  if !info.inAllocation s.grp.nregs then done (raiseAll s 0x02)
  else
    let (s, t) := issueLane s info
    let s := noteLoad s s.team.core
    let rd := rdOf s t
    match look (look s.ctxRes s.team.asid.toNat {}).slots slot none with
    | none => done (raiseAll s clsTarget 0 (reason 2 0 0))
    | some desc =>
      let r := lodOf desc
      let width := if sample then 5 else r.z / 4 + 1
      let regBad := lodRegBad s.grp d width
      let (s, lanes) := (lanesOf s.cur.mask).foldl (fun acc l =>
        let cs := (List.range (coordRegs mode)).map fun k => (rd k (c + k) l).toNat
        let (s, x) := lodLane r sample mode slot regBad acc.1 l cs
        (s, acc.2 ++ [x])) (s, ([] : List LodLane))
      let kind : MemKind := .lod { d := d, width := width, slot := slot, filter := sample, desc := desc, mode := mode } lanes
      done (settleWord s { cur := s.cur, kind := kind, accs := lanes.flatMap fun x => x.accs })

/-- `ldlod` (R321, R322). -/
def execLdlod (k : BitVec 1) (d c slot : BitVec 6) (f : BitVec 4) (s : State) : Host.Outcome State Fault Refusal :=
  lodWord (.ldlod k d c slot f) false d.toNat c.toNat slot.toNat f.toNat s

/-- `sample` (R321, R322). -/
def execSample (k : BitVec 1) (d c slot : BitVec 6) (f : BitVec 4) (s : State) : Host.Outcome State Fault Refusal :=
  lodWord (.sample k d c slot f) true d.toNat c.toNat slot.toNat f.toNat s

end Sys2Proof.Machine
end

