-- ==== Sys2Proof/Machine/Coherent.lean ====
section
/-!
DEFINITION. Events of the caches and translation buffers: directory transitions (05 R101, R102, 19 R366, R369), recalls (24 R413),
pending bits (05 R94), logical time (06 R109), residency caches (15 R317), peer modules (24 R407 to R409), and waits for a die in reset (26 R447).
-/
namespace Sys2Proof.Machine

/-! ### Directory (R101) -/

/-- DIR_READ (R101): partition n asks for a line it does not hold. -/
def execDirRead (line die : Nat) (s : State) : Host.Outcome State Fault Refusal :=
  done (if (rdcLine s die line).isSome then s else dirReadReq s line die 0 0)

/-- DIR_OWNERSHIP (R101). -/
def execDirOwnership (line die : Nat) (s : State) : Host.Outcome State Fault Refusal := done (dirOwnReq s line die 0 0)

/-- DIR_HOME_WRITE (R101): remote copies are invalidated before a home-die store is performed. -/
def execDirHomeWrite (line : Nat) (s : State) : Host.Outcome State Fault Refusal := done (dropRemote s line)

/-- DIR_HOME_READ (R101): a remote owner's line is recalled. -/
def execDirHomeRead (line : Nat) (s : State) : Host.Outcome State Fault Refusal := done (dirHomeReadReq s line)

/-- RDC_EVICT (R101). -/
def execRdcEvict (die line : Nat) (s : State) : Host.Outcome State Fault Refusal := done (rdcEvictLine s die line)

/-- FILTER_VICTIM (R369): a line without an entry needs one in a full set. -/
def execFilterVictim (line : Nat) (s : State) : Host.Outcome State Fault Refusal :=
  done (if (dirEntry s line).isSome then s else makeDirRoom s line)

/-- The oldest recall of a line arrives at a core (R413): the line is dropped, at once or, where the recall names a fill whose reply has not landed, once it
has. -/
def leaseRecall (s : State) (core line : Nat) : State :=
  match s.recalls.find? fun r => r.1 = core && r.2.1 = line with
  | none => s
  | some r =>
    let s := { s with recalls := removeFirst (· = r) s.recalls }
    let drop (e : L1Line) : Option L1Line :=
      if e.line ≠ line then some e
      else if s.clock < e.lands then some { e with recalled := e.recalled || decide (e.ttag = r.2.2) }
      else none
    s.modCore core fun c => { c with l1 := c.l1.filterMap drop }

/-- LEASE_RECALL (R413). -/
def execLeaseRecall (core line : Nat) (s : State) : Host.Outcome State Fault Refusal := done (leaseRecall s core line)

/-- SLICE_REQUEST_ENTER (R366): the oldest request held at a slice's port enters the slice's queue, in the fabric clock after an entry frees; the access it is
made for may then be performed. -/
def sliceEnter (s : State) (die slice : Nat) : State :=
  match atPort s (16 * die + slice) with
  | none => s
  | some (r, k) =>
    let q := sliceQueue s die slice (2 * s.clock)
    let s := match q.head? with
      | some t => if 32 ≤ q.length then s.tick ((t + 1) / 2 - s.clock) else s
      | none => s
    let s := enterSlice { s with injected := s.injected.eraseIdx k } r ((2 * s.clock + 2) / 3 * 3)
    if r.waits then { s with granted := s.granted ++ [(r.src, r.line)] } else s

/-- SLICE_REQUEST_ENTER (R366). -/
def execSliceRequestEnter (die slice : Nat) (s : State) : Host.Outcome State Fault Refusal := done (sliceEnter s die slice)

/-! ### TLBs, logical time, residency -/

/-- PENDING_BIT_FLUSH (R94): entry `index` of a core's TLB, or from 256 on of its die's, flushes 2^22 clocks after a bit was set. -/
def pendingFlush (s : State) (core index : Nat) : State :=
  let flush (s : State) (e : TlbEntry) : State :=
    flushEntry (if s.clock < e.since + 2 ^ 22 then s.tick (e.since + 2 ^ 22 - s.clock) else s) e
  let clear (l : List TlbEntry) (k : Nat) : List TlbEntry := l.modify k fun e => { e with pa := false, pd := false }
  let d := dieOf core
  if index < 256 then
    match (s.core core).tlb[index]? with
    | some e => if e.pa || e.pd then (flush s e).modCore core fun c => { c with tlb := clear c.tlb index } else s
    | none => s
  else match (s.die d).tlb[index - 256]? with
    | some e => if e.pa || e.pd then (flush s e).modDie d fun x => { x with tlb := clear x.tlb (index - 256) } else s
    | none => s

/-- PENDING_BIT_FLUSH (R94). -/
def execPendingBitFlush (core index : Nat) (s : State) : Host.Outcome State Fault Refusal := done (pendingFlush s core index)

/-- CTIME_ADVANCE (R109): the window of the core's last loads ends, and its CTIME rises by at least 1. -/
def ctimeAdvance (s : State) (core : Nat) : State :=
  let c := s.core core
  if !c.loaded then s else endWindow (if s.clock < c.window + 16 then s.tick (c.window + 16 - s.clock) else s) core

/-- CTIME_ADVANCE (R109). -/
def execCtimeAdvance (core : Nat) (s : State) : Host.Outcome State Fault Refusal := done (ctimeAdvance s core)

/-- RESIDENCY_ENTRY_EXPIRE (R317): 2^RLIFE clocks after its fill an entry is dropped. -/
def residencyExpire (s : State) (core index : Nat) : State :=
  match (s.core core).residency[index]? with
  | none => s
  | some e =>
    let life := clamp (look s.ctxRes e.asid.toNat {}).prof.rlife.toNat 10 20
    let s := if s.clock < e.filled + 2 ^ life then s.tick (e.filled + 2 ^ life - s.clock) else s
    s.modCore core fun c => { c with residency := c.residency.eraseIdx index }

/-- RESIDENCY_ENTRY_EXPIRE (R317). -/
def execResidencyEntryExpire (core index : Nat) (s : State) : Host.Outcome State Fault Refusal := done (residencyExpire s core index)

/-! ### Peer modules (R407 to R409) -/

/-- PEER_INBOUND_ACCESS (R409). -/
def execPeerInboundAccess (source : BitVec 8) (pa n kind v : Nat) (s : State) : Host.Outcome State Fault Refusal :=
  done (peerInbound s source pa n kind v)

/-- The oldest memory word of a group that waits for replies to what it has sent. -/
def sentWord (s : State) : Option MemWord := s.grp.awaits.find? fun w => w.since.isSome && memWait s w = some .reply

/-- A word waits as it is given: a lane word goes on if it can, a uniform word at its retirement (R407). -/
def goOn (s : State) (w : MemWord) : State :=
  let s := s.modGrp fun g => { g with awaits := g.awaits.map fun x => if x.cur.seq = w.cur.seq then w else x }
  if w.cur.word.getLsbD 31 then s else settleWord s w

/-- PEER_REPLY (R407): data or an acknowledgement (0), or a NACK with its reason; of a word whose answers of other modules have come, the reply of the host
adapter. -/
def execPeerReply (nack : BitVec 8) (s : State) : Host.Outcome State Fault Refusal :=
  done (match sentWord s with
    | some w =>
      goOn s (if w.answers.length < w.need s then { w with answers := w.answers ++ [if nack = 0 then .ok else .nack nack] }
              else { w with hosts := w.hosts + 1 })
    | none => s)

/-- PEER_TIMEOUT (R408): 2^PEERTO clocks after sending there is no reply; `performed` says whether the access was. -/
def execPeerTimeout (performed : Bool) (s : State) : Host.Outcome State Fault Refusal :=
  done (match sentWord s with
    | some w =>
      if w.need s ≤ w.answers.length then s else
      let due := w.since.getD 0 + 2 ^ clamp (s.hub.peerTo.toNat % 32) 16 28
      goOn (if s.clock < due then s.tick (due - s.clock) else s) { w with answers := w.answers ++ [.timeout performed] }
    | none => s)

/-- The oldest memory word of a group that waits for a home die in reset (R447). -/
def homeWord (s : State) : Option MemWord :=
  s.grp.awaits.find? fun w => w.since.isSome && !w.homeGone &&
    w.accs.any fun x => match x.v with | .home d _ _ => (s.die d).inReset | .walk d _ => (s.die d).inReset | _ => false

/-- The clock runs to the end of a wait for a die that began at `since`; a die out of service is waited for no longer. -/
def homeUntil (s : State) (d since : Nat) : State :=
  let due := max since (s.die d).resetAt + 2 ^ 24
  if (s.die d).inReset && s.clock < due then s.tick (due - s.clock) else s

/-- The held accesses of a word that wait for dies fail (R447): they leave the group, and their lanes take the fault of the word, whose fault point they had
passed before the die went into reset (DESIGN CHOICE, notes/assumptions/61.md). -/
def heldFail (s : State) (h : HeldStore) : State :=
  let out (x : HeldStore) : Bool := x.seq = h.seq && (x.waits s).isSome
  let lanes := if h.cur.word.getLsbD 31 then h.cur.mask else maskOf ((s.grp.held.filter out).map fun x => x.lane)
  let s := s.modGrp fun g => { g with held := g.held.filter fun x => !out x }
  let c : Cur := { h.cur with mask := lanes &&& s.grp.live }
  if c.mask = 0 then s
  else raise { s with cur := c } { cur := c, lanes := c.mask, cls := clsXlate, faddr := h.va, fcode := reason 8 h.caching.level 0 }

/-- HOME_DIE_WAIT_EXPIRE (R447): a fetch, or an access, of the executing group has waited 2^24 clocks for a die, and fails; so does a store of an exited group, of
which no fault is left to raise, and then the oldest access from outside. -/
def execHomeDieWaitExpire (s : State) : Host.Outcome State Fault Refusal :=
  done (match s.grp.wait, homeWord s with
    | .homeDie d since, _ => if (s.die d).inReset then (homeUntil s d since).modGrp fun g => { g with homeGone := true } else s
    | _, some w => goOn (homeUntil s ((w.accs.findSome? fun x => match x.v with
        | .home d _ _ => some d
        | .walk d _ => some d
        | _ => none).getD 0) (w.since.getD 0)) { w with homeGone := true }
    | _, none => match s.grp.held.findSome? fun h => (h.waits s).map fun d => (h, d) with
      | some (h, d) => heldFail (homeUntil s d h.since) h
      | none => match s.team.orphans.findSome? fun h => (h.waits s).map fun d => (h, d) with
        | some (h, d) =>
          let s := homeUntil s d h.since
          settleTeam { s with team := { s.team with orphans := removeFirst (· = h) s.team.orphans } }
        | none => outsideExpire s)

end Sys2Proof.Machine
end

