-- ==== Sys2Proof/Machine/LaneControl.lean ====
section
/-!
DEFINITION. Divergence words (10 R199 to R203): what each does to the frontier, the rejoin registers and the call frames, the REJOIN,
CALLDEPTH and FRONTIER faults, and the retirement of lanes.
-/
namespace Sys2Proof.Machine

/-- What a control word comes to: the new flow with the lanes that retire, or a fault of every lane of its mask. -/
inductive FlowRes where
  | ok (f : Flow) (retired : Word)
  | fail (cls : Byte)
  deriving DecidableEq, Repr

def setJ (f : Flow) (j : Nat) (g : Rejoin → Rejoin) : Flow := { f with j := change f.j j {} g }

/-- Adds an entry of the program. -/
def addAt (f : Flow) (pc : DWord) (prio : BitVec 6) (m : Word) : Flow :=
  { f with frontier := addEntry f.frontier { pc := pc, prio := prio, mask := m } }

def dropE (f : Flow) (c : Cur) : Flow := { f with frontier := removeLanes f.frontier c.mask }

/-- The target of `bdiv` and `callr` (R202). -/
def laneTarget (c : Cur) (o : BitVec 12) : DWord := c.pc + (o.signExtend 64 <<< 2)

/-- `bdiv` (R202); `t` are the lanes whose predicate is true. -/
def flowBdiv (f : Flow) (c : Cur) (t : Word) (j : Nat) (q : BitVec 6) (o : BitVec 12) : FlowRes :=
  let f := addAt (addAt (dropE f c) (laneTarget c o) q t) (c.pc + 4) c.prio (c.mask &&& ~~~t)
  .ok (Flow.checkAll (setJ f j fun r => { r with enrolled := r.enrolled ||| c.mask })) 0

/-- `join` (R202). -/
def flowJoin (f : Flow) (c : Cur) (j : Nat) : FlowRes :=
  let r := f.rj j
  let a := c.mask &&& r.enrolled
  if a ≠ 0 && r.arrived ≠ 0 && (r.kind ≠ .join || r.rpc ≠ c.pc + 4) then .fail 0x08
  else
    let f := addAt (dropE f c) (c.pc + 4) c.prio (c.mask &&& ~~~a)
    let f := if a = 0 then f else setJ f j fun r =>
      { r with rpc := if r.arrived = 0 then c.pc + 4 else r.rpc, kind := if r.arrived = 0 then .join else r.kind,
               arrived := r.arrived ||| a, rprio := c.prio }
    .ok f.checkAll 0

/-- `strike` (R202). -/
def flowStrike (f : Flow) (c : Cur) (p : Word) (j : Nat) : FlowRes :=
  let f := setJ f j fun r => { r with enrolled := r.enrolled &&& ~~~p }
  .ok (Flow.checkAll (addAt (dropE f c) (c.pc + 4) c.prio c.mask)) 0

/-- `lexit` (R203), of a program entry or of the handler entry (R391). -/
def flowLexit (f : Flow) (c : Cur) (l : Word) : FlowRes :=
  let f := { f with frontier := moveLanes f.frontier c (c.pc + 4) }
  .ok (f.retire l) l

/-- `callr` (R203). -/
def flowCallr (f : Flow) (c : Cur) (p : Word) (j : Nat) (q : BitVec 6) (o : BitVec 12) : FlowRes :=
  let r := f.rj j
  if p = 0 then .ok (Flow.checkAll (addAt (dropE f c) (c.pc + 4) c.prio c.mask)) 0
  else if r.enrolled ≠ 0 || r.arrived ≠ 0 then .fail 0x08
  else if 4 ≤ f.frames.length then .fail 0x0A
  else
    let f := { f with frames := BitVec.ofNat 3 j :: f.frames }
    let f := setJ f j fun _ => { enrolled := c.mask, arrived := c.mask &&& ~~~p, rpc := c.pc + 4, rprio := c.prio, kind := .call }
    .ok (Flow.checkAll (addAt (dropE f c) (laneTarget c o) q p)) 0

/-- `lret` (R203). -/
def flowLret (f : Flow) (c : Cur) : FlowRes :=
  match f.frames.find? (fun n => let r := f.rj n.toNat; c.mask &&& ~~~(r.enrolled &&& ~~~r.arrived) = 0) with
  | none => .fail 0x08
  | some n => .ok (Flow.checkAll (setJ (dropE f c) n.toNat fun r => { r with arrived := r.arrived ||| c.mask })) 0

/-- The rules of R199 around each control word: the frontier that becomes empty while lanes are parked, and the ninth entry. -/
def flowLegal (live : Word) (r : FlowRes) : FlowRes :=
  match r with
  | .fail cls => .fail cls
  | .ok f l =>
    if f.frontier.isEmpty && live &&& ~~~l ≠ 0 then .fail 0x08
    else if 8 < programEntries f.frontier then .fail 0x09
    else .ok f l

/-- What a control word makes of the flow; `t` are the lanes whose predicate is true. -/
def ctlFlow (i : Instr) (f : Flow) (c : Cur) (t : Word) : FlowRes :=
  match i with
  | .bdiv _ _ j q o => flowBdiv f c t j.toNat q o
  | .join _ j => flowJoin f c j.toNat
  | .strike _ _ j => flowStrike f c t j.toNat
  | .lexit _ _ => flowLexit f c t
  | .callr _ _ j q o => flowCallr f c t j.toNat q o
  | _ => flowLret f c

/-- The predicate a control word reads. -/
def ctlPred (i : Instr) : Nat :=
  match i with
  | .bdiv _ p _ _ _ => p.toNat
  | .strike _ p _ => p.toNat
  | .lexit _ p => p.toNat
  | .callr _ p _ _ _ => p.toNat
  | _ => 7

/-- Whether a control word is the `lexit` that a handler may execute (R391). -/
def leavesHandler (i : Instr) : Bool := match i with | .lexit _ _ => true | _ => false

/-- The frontier changes (R61): the new flow, or a fault of every lane; the helm goes on in the clock after `at_`. A control word of the handler
entry other than `lexit` is a DOUBLE (R391). -/
def updateFlow (s : State) (i : Instr) (t : Word) (at_ : Nat) : State :=
  let g := s.grp
  if s.cur.handler && !leavesHandler i then raiseAll s 0x21
  else match flowLegal g.live (ctlFlow i g.flow s.cur t) with
    | .fail cls => raiseAll s cls
    | .ok fl l =>
      let s := s.modGrp fun g => { (g.setFlow fl) with helmClk := at_ + 1, ctl := none }
      if l = 0 then s
      else
        let live := s.grp.live &&& ~~~l
        let s := s.modGrp fun g =>
          { g with live := live,
                   fault := if fl.frontier.any (fun e => e.handler) then g.fault else { g.fault with valid := false } }
        if live = 0 then exitGroup s else s

/-- Whether a control word has to wait past t + 4: something older than it will not have passed by then (R383, Table 23.2). -/
def ctlWaits (g : Group) (seq : Nat) : Bool :=
  g.commit.any (fun e => decide (e.cur.seq < seq)) || g.awaits.any (fun w => decide (w.cur.seq < seq)) || faultBefore g seq

/-- Lanes of the mask whose predicate is true. -/
def predLanes (c : Cur) (t : Nat → Bool) : Word := maskOf ((lanesOf c.mask).filter t)

/-- A control word issues, and updates the frontier at the later of t + 4 and the clock in which it stops being speculative. -/
def controlWord (i : Instr) (s : State) : Host.Outcome State Fault Refusal :=
  let (s, t) := issueLane s (laneInfo i)
  let taken := predLanes s.cur (readP s.grp (t + 1) (ctlPred i))
  done (if ctlWaits s.grp s.cur.seq then s.modGrp fun g => { g with ctl := some { cur := s.cur, at_ := t + 4, taken := taken } }
    else updateFlow s i taken (t + 4))

/-- The control word that waits, once it is no longer speculative. -/
def settleCtl (s : State) : State :=
  match s.grp.ctl with
  | none => s
  | some c =>
    if ctlWaits s.grp c.cur.seq then s
    else match decodeWord c.cur.word with
      | some i => updateFlow { s.modGrp (fun g => { g with ctl := none }) with cur := c.cur } i c.taken (max c.at_ s.clock)
      | none => s

/-- `bdiv` (R202). -/
def execBdiv (k : BitVec 1) (p j : BitVec 3) (q : BitVec 6) (o : BitVec 12) (s : State) : Host.Outcome State Fault Refusal :=
  controlWord (.bdiv k p j q o) s

/-- `join` (R202). -/
def execJoin (k : BitVec 1) (j : BitVec 3) (s : State) : Host.Outcome State Fault Refusal := controlWord (.join k j) s

/-- `strike` (R202). -/
def execStrike (k : BitVec 1) (p j : BitVec 3) (s : State) : Host.Outcome State Fault Refusal := controlWord (.strike k p j) s

/-- `lexit` (R203). -/
def execLexit (k : BitVec 1) (p : BitVec 3) (s : State) : Host.Outcome State Fault Refusal := controlWord (.lexit k p) s

/-- `callr` (R203). -/
def execCallr (k : BitVec 1) (p j : BitVec 3) (q : BitVec 6) (o : BitVec 12) (s : State) : Host.Outcome State Fault Refusal :=
  controlWord (.callr k p j q o) s

/-- `lret` (R203). -/
def execLret (k : BitVec 1) (s : State) : Host.Outcome State Fault Refusal := controlWord (.lret k) s

end Sys2Proof.Machine
end

