-- ==== Sys2Proof/Machine/SysCmd.lean ====
section
/-!
DEFINITION. The system commands that touch no team (13 R278 to R281, R283, R284, 17 R350 to R353, 18 R358, 26 R451).
-/
namespace Sys2Proof.Machine

/-! ### TLBs (R279) -/

/-- Whether a `.tlbinv` matches an entry. -/
def tlbHit (kind va pages : Nat) (asid : BitVec 12) (e : TlbEntry) : Bool :=
  match kind with
  | 0 => e.asid = asid && e.page * 2 ^ e.log2 < va + pages * 65536 && va < (e.page + 1) * 2 ^ e.log2
  | 1 => e.asid = asid
  | _ => true

/-- Matching entries go, their pending bits flushed first. -/
def dropTlb (s : State) (hit : TlbEntry → Bool) : State × Nat :=
  let es := (allTlb s).filter hit
  (mapTlb (es.foldl flushEntry s) fun l => l.filter fun e => !hit e, es.length)

/-! ### Profiles (R281, Tables 14.12 and 15.4) -/

def loadProfile (p : Profiles) (unit : Nat) (b : List Byte) : Profiles :=
  let f (o n : Nat) : Nat := fieldAt b o n
  match unit with
  | 0 => { p with nodeFmt := BitVec.ofNat 2 (f 0 1), prim := BitVec.ofNat 2 (f 1 1), order := BitVec.ofNat 1 (f 2 1) }
  | 1 => { p with cnode := BitVec.ofNat 16 (f 0 2), cclus := BitVec.ofNat 16 (f 2 2), qmin := BitVec.ofNat 16 (f 4 2),
                  refitMax := BitVec.ofNat 8 (f 6 1) }
  | _ => { p with fbva := BitVec.ofNat 64 (f 0 8), fblog2 := BitVec.ofNat 5 (f 8 1), filter := BitVec.ofNat 1 (f 9 1),
                  rlife := BitVec.ofNat 5 (f 10 1) }

/-! ### Ports (R350 to R353, R450, R451) -/

/-- The status word of Table 17.3. -/
def Port.status (p : Port) : Nat :=
  p.active.toNat + 16 * (p.parked ||| p.retired).toNat + 256 * p.waking.toNat + 4096 * p.linkUp.toNat + 8192 * p.wakeDepth.toNat

/-- `.linkctl` (R284, R352, R353). -/
def runLinkctl (s : State) (c : Command) : State :=
  let k := bits c.opa.toNat 4 0
  let b := c.opb.toNat
  let p := look s.ports k {}
  let set (p : Port) : State := { s with ports := put s.ports k p {} }
  match bits c.opa.toNat 7 5 with
  | 0 =>
    let m := BitVec.ofNat 4 b
    if p.active &&& ~~~m = 0 then finishCmd s c.id 2 0 else finishCmd (set (parkPort p m s.clock)) c.id 0 0
  | 1 => finishCmd (set (wakePort p (BitVec.ofNat 4 b) s.clock)) c.id 0 0
  | 2 => finishCmd (set { p with wakeDepth := BitVec.ofNat 13 b }) c.id 0 0
  | _ =>
    let v := if k = 31 then (if s.slalia.lost then 0 else s.slalia.lanes) + 4096 else p.status
    finishCmd s c.id 0 v

/-! ### Trace control (R283, R358) -/

/-- A setting takes effect; the counts of the first period begin here (R358). -/
def startTrace (s : State) (n : DWord × BitVec 12 × Nat × Nat × Bool × Bool) : State :=
  let (va, asid, units, k, tempo, mielien) := n
  { s with busy := [], stallCnt := [], busyNext := [], stallNext := [],
           ports := s.ports.map fun (p : Nat × Port) => (p.1, { p.2.drain s.clock with sends := [], waits := [] }),
           trace := { s.trace with tempo := tempo, mielien := mielien, k := k, ringVa := va, asid := asid, ringUnits := units,
                                   t0 := (s.clock / 2 ^ k + 1) * 2 ^ k, ticks := 0, next := none } }

/-- Whether a `.rmapinv` matches a residency entry. -/
def mapHit (a : Nat) (x : ResEntry) : Bool := x.asid = BitVec.ofNat 12 (bits a 19 8) && (bitAt a 6 || x.slot = a % 64)

/-- The system commands that act in the step that starts them. -/
def runSys (s : State) (c : Command) : State :=
  let a := c.opa.toNat
  let b := c.opb.toNat
  let e := agentOf c 0
  match c.fn with
  | 0x00 =>
    let (s, n) := dropTlb s (tlbHit (bits b 13 12) a (bits b 63 32) (BitVec.ofNat 12 b))
    let kind := bits b 13 12
    let asid : BitVec 12 := BitVec.ofNat 12 b
    let hit (x : BitVec 12) : Bool := kind = 2 || x = asid
    holdFor (finishCmd s c.id 0 (min n 0xFFFFFFFF)) c.id (underWay s hit (fun _ => true) (fun _ => true) ++ copiesUnderWay s hit)
  | 0x01 =>
    let (s, n) := harvestTlb s fun x => bitAt a 12 || x.asid = BitVec.ofNat 12 a
    finishCmd s c.id 0 n
  | 0x02 =>
    let (s, n) := dropResidency s (mapHit a)
    holdFor (finishCmd s c.id 0 n) c.id (lodUnderWay s (BitVec.ofNat 12 (bits a 19 8)) fun k => bitAt a 6 || k = a % 64)
  | 0x03 =>
    let n := 16 * bits b 27 16
    let (s, cs, stop) := engMap s e c.opa n .read deviceOrHost
    match stop with
    | some x => stopCmd s c e x 0
    | none =>
      let (s, bs) := readChunks s e cs
      finishCmd (s.modCmd c.id fun c => { c with comm := bs }) c.id 0 n
  | 0x06 =>
    if a % 4 = 0 then finishCmd { s with adm := { s.adm with next := some b } } c.id 0 0
    else
      let s := { s with ctxRes := change s.ctxRes (bits a 13 2) {} (fun r : CtxRes => { r with clearEnergy := true }) }
      finishCmd s c.id 0 0
  | 0x07 =>
    let n := (c.opa, c.asid, bits b 31 8, b % 32, bitAt b 5, bitAt b 6)
    let s := if s.trace.tempo then { s with trace := { s.trace with next := some n } } else startTrace s n
    finishCmd s c.id 0 0
  | _ => runLinkctl s c

/-! ### The placing of a record (R266) -/

/-- A covering `.tlbinv` record has been placed (R403, R404): what waits for a page may walk again. -/
def noteTlbinv (s : State) (kind : Nat) (asid : BitVec 12) : State :=
  let hit (a : BitVec 12) : Bool := tlbCovers kind asid a
  let team (t : Team) : Team :=
    if hit t.asid then { t with pageRetry := true, words := t.words.map fun w : MatWord => { w with retry := true } } else t
  { s with
    commands := s.commands.map (fun c : Command => if hit c.asid then { c with retry := true } else c),
    team := team s.team,
    teams := s.teams.map team,
    launches := s.launches.map (fun l : Launch => if hit l.asid then { l with combRetry := true } else l),
    saved := s.saved.map (fun v : SavedTeam => if hit v.asid then { v with retry := true } else v) }

/-- What the placing of a record does beside, and the entries it drops, which COUNT counts too: no TLB holds an entry that a `.tlbinv` matches (R279), no
residency cache one that a `.rmapinv` or a `.bind` drops (R280, R318, R327); commands accepted from then on use a loaded profile (R281). -/
def atPlacing (s : State) (c : Command) : State × Nat :=
  let a := c.opa.toNat
  let b := c.opb.toNat
  if c.status ≠ 0 then (s, 0)
  else match c.major, c.fn with
    | 0x3F, 0 =>
      let (s, n) := dropTlb s (tlbHit (bits b 13 12) a (bits b 63 32) (BitVec.ofNat 12 b))
      (noteTlbinv s (bits b 13 12) (c.opb.setWidth 12), n)
    | 0x3F, 2 => dropResidency s (mapHit a)
    | 0x3F, 3 => ({ s with ctxRes := change s.ctxRes (bits b 43 32) {} (fun r : CtxRes => { r with prof := loadProfile r.prof (b % 4) c.comm }) }, 0)
    | 0x3E, 0 => ((dropResidency s fun x => x.asid = c.asid && x.slot = b % 64).1, 0)
    | _, _ => (s, 0)

/-- RECORD_PLACE (R266): the oldest record a command holds enters its team's event queue; the completion ends the command. A record for
a saved team is held (R424); one for a team that has freed its slot has no queue to go to. -/
def placeRecord (s : State) (id : Nat) : State :=
  match s.cmd id with
  | none => s
  | some c =>
    match s.teamOf c.uid with
    | none =>
      if c.state = .finished && !s.saved.any (fun v => v.uid = c.uid) && performed s c then
        (atPlacing { s with commands := s.commands.filter fun x : Command => x.id ≠ id } c).1
      else s
    | some t =>
      let put_ (r : Record) : State := s.modTeam c.uid fun t => { t with events := t.events ++ [r] }
      if 64 ≤ t.events.length then s
      else match c.callouts with
        | r :: rest => (put_ r).modCmd id fun c => { c with callouts := rest }
        | [] =>
          if c.state ≠ .finished || !performed s c || !recordFirst s c then s
          else
            let (s, n) := atPlacing { s with commands := s.commands.filter (fun x : Command => x.id ≠ id), engWts := 0 } c
            let r := c.record
            let r := { r with count := BitVec.ofNat 32 (min (c.count + n) 0xFFFFFFFF), order := if 0x3E ≤ c.major then max r.order s.engWts else r.order }
            s.modTeam c.uid fun t => { t with events := t.events ++ [r] }

/-- RECORD_PLACE (R266). -/
def execRecordPlace (cmd : Nat) (s : State) : Host.Outcome State Fault Refusal := done (placeRecord s cmd)

end Sys2Proof.Machine
end

