-- ==== Sys2Proof/Machine/UniformFlow.lean ====
section
/-!
DEFINITION. Uniform control flow (11 R213 to R217) and `spawn` (R218, 02 R36 to R38).
-/
namespace Sys2Proof.Machine

/-- A branch target in words from the PC (R213, R214). -/
def relTarget (pc : DWord) (o : Int) : DWord := pc + BitVec.ofInt 64 (4 * o)

/-- A register-held target that a fetch may start from (R213). -/
def goodTarget (t : DWord) : Bool := canonical t && t.toNat % 4 = 0

/-- The words that push or pop a stall frame, with their link (R213, R361). -/
def applyFrame (s : State) (push : Option DWord) (sw : List (Nat × Word)) : State :=
  s.modGrp fun g => (match push with | some pc => g.pushFrame pc | none => g.popFrame).retireRegs sw []

def linkOf (pc : DWord) : List (Nat × Word) := [(62, (pc + 4).extractLsb' 0 32), (63, (pc + 4).extractLsb' 32 32)]

/-- `bra` (R213). -/
def execBra (_k : BitVec 1) (c : BitVec 3) (o : BitVec 20) (s : State) : Host.Outcome State Fault Refusal :=
  done (if s.grp.creg c.toNat then advanceTo s (relTarget s.cur.pc o.toInt) true else advance s)

/-- `call` (R213). -/
def execCall (_k : BitVec 1) (c : BitVec 3) (o : BitVec 20) (s : State) : Host.Outcome State Fault Refusal :=
  let target := relTarget s.cur.pc o.toInt
  done (if s.grp.creg c.toNat then
      commitOr s (.frame (some target) (linkOf s.cur.pc)) (fun s => .done (applyFrame s (some target) (linkOf s.cur.pc)))
        (fun s => advanceTo s target true)
    else advance s)

/-- `jmpr` (R213). -/
def execJmpr (_k : BitVec 1) (a : BitVec 6) (c : BitVec 3) (s : State) : Host.Outcome State Fault Refusal :=
  let target := s.grp.spair a.toNat
  uniform s [a.toNat, a.toNat + 1]
    (if !s.grp.creg c.toNat then advance s
     else if goodTarget target then advanceTo s target true
     else raiseHelm s 0x15 target 0)

/-- `jmpr.l` (R213): the target is read before the link is written. -/
def execJmprL (_k : BitVec 1) (a : BitVec 6) (c : BitVec 3) (s : State) : Host.Outcome State Fault Refusal :=
  let target := s.grp.spair a.toNat
  uniform s [a.toNat, a.toNat + 1]
    (if !s.grp.creg c.toNat then advance s
     else if goodTarget target then
       commitOr s (.frame (some target) (linkOf s.cur.pc)) (fun s => .done (applyFrame s (some target) (linkOf s.cur.pc)))
         (fun s => advanceTo s target true)
     else raiseHelm s 0x15 target 0)

/-- `ret` (R213). -/
def execRet (_k : BitVec 1) (a : BitVec 6) (c : BitVec 3) (s : State) : Host.Outcome State Fault Refusal :=
  let target := s.grp.spair a.toNat
  uniform s [a.toNat, a.toNat + 1]
    (if !s.grp.creg c.toNat then advance s
     else if goodTarget target then
       commitOr s (.frame none []) (fun s => .done (applyFrame s none [])) (fun s => advanceTo s target true)
     else raiseHelm s 0x15 target 0)

/-- `loop` (R214). -/
def execLoop (_k : BitVec 1) (d : BitVec 6) (i : BitVec 12) (s : State) : Host.Outcome State Fault Refusal :=
  let x := s.grp.sreg d.toNat
  let y := if x = 0 then x else x - 1
  uniform s [d.toNat]
    (commitOr s (.regs [(d.toNat, y)] []) (fun s => .done (s.modGrp fun g => g.retireRegs [(d.toNat, y)] []))
      (fun s => if y ≠ 0 then advanceTo s (relTarget s.cur.pc i.toInt) true else advance s))

/-- `exit` (R215): it waits for every older lane word, commit-buffer entry and `sld` result. -/
def execExit (_k : BitVec 1) (c : BitVec 3) (s : State) : Host.Outcome State Fault Refusal :=
  done (if !s.grp.creg c.toNat then advance s
    else if quiet s && s.grp.owed.isEmpty then (exitGroup (s.modGrp fun g => { g with live := 0 })).tick 1
    else s.tick 1)

/-- `nop` (R216). -/
def execNop (_k : BitVec 1) (s : State) : Host.Outcome State Fault Refusal := done (advance s)

/-- `yield` (R216): it bars the group's next run, and names the groups that must issue a run first, those eligible now. -/
def execYield (_k : BitVec 1) (s : State) : Host.Outcome State Fault Refusal :=
  let others := ((groupsIn s s.team.core s.grp.quad).filter fun x =>
    !(x.1.uid = s.team.uid && x.2.gidx = s.grp.gidx) && eligible s.clock x.1 x.2).map fun x => (16 * x.1.uid + x.2.gidx, x.2.pipeRun)
  let since := s.clock
  done ((advanceTo s (s.cur.pc + 4) true).modGrp fun g =>
    if g.live = 0 then g
    else
      let g := if eligible since s.team s.grp then g else g.clearAge
      { g with yielded := g.yielded ++ [{ run := g.runNo, since := since, others := others }] })

/-- `trap` (R217). -/
def execTrap (_k : BitVec 1) (i : BitVec 18) (s : State) : Host.Outcome State Fault Refusal :=
  done (raiseHelm s 0x0D 0 (i.setWidth 32))

/-- A stop by the debug controls (R364): the record of Table 18.3 and the state. -/
def stopGroup (s : State) (pc : DWord) (lane cause entry : Nat) (code : Nat) : State :=
  let body := s.name.toNat + pc.toNat * 2 ^ 64 + lane * 2 ^ 128 + cause * 2 ^ 136 + entry * 2 ^ 144 + code * 2 ^ 160
  let s := traceWrite s 3 2 0xFFFF body
  s.modGrp fun g => { g with wait := .stopped cause, stepping := false, passBreak := none }.clearAge

/-- `brk` (R217, R364). -/
def execBrk (_k : BitVec 1) (i : BitVec 18) (s : State) : Host.Outcome State Fault Refusal :=
  if !(debugAt s s.team.asid s.clock).brkEn then done (advance s)
  else if !quiet s then done (s.tick 1)
  else done (stopGroup (advance s) (s.cur.pc + 4) (lowestLane s.cur.mask) 1 0 i.toNat)

/-- Group slots of a core's quadrant in use, and the lane registers they take (R23). -/
def usedSlots (s : State) (core quad : Nat) : List Nat := (groupsIn s core quad).map fun x => x.2.gslot
def usedRegs (s : State) (core quad : Nat) : Nat := (groupsIn s core quad).foldl (fun n x => n + x.2.nregs) 0

/-- The least number below 16 that a list does not hold. -/
def leastFree (l : List Nat) : Option Nat := (List.range 16).find? fun n => !l.contains n

/-- The child of a `spawn` (R36). -/
def childOf (g : Group) (m : Word) (n : Nat) (target : DWord) (idx quad slot clock : Nat) : Group :=
  let base : Group := { gidx := idx, role := .general, nregs := g.nregs, quad := quad, gslot := slot, live := m, age := 0,
                        frontier := [{ pc := target, prio := 0, mask := m }], stall := [emptyFrame target], helmClk := clock }
  (List.range 8).foldl (fun c r => (lanesOf m).foldl (fun c l => c.setV r l (g.vreg (n + r) l)) c) base

/-- Where a child goes (R37): the quadrant, and its lowest free group slot (DESIGN CHOICE, notes/assumptions/77.md: R37 orders the quadrants only). -/
def childPlace (s : State) : Option (Nat × Nat) :=
  (List.range 4).findSome? fun i =>
    let q := (s.grp.quad + i) % 4
    match leastFree (usedSlots s s.team.core q) with
    | some slot => if usedRegs s s.team.core q + s.grp.nregs ≤ Config.quadRegs then some (q, slot) else none
    | none => none

/-- `spawn` (R218): REGISTER outside its limits; it waits until every older lane word has written its destinations. -/
def execSpawn (_k : BitVec 1) (d a b : BitVec 6) (s : State) : Host.Outcome State Fault Refusal :=
  let n := b.toNat
  let g := s.grp.landTo s.clock
  let target := s.grp.spair a.toNat
  uniform s [a.toNat, a.toNat + 1]
    (if 56 < n || s.grp.nregs < n + 8 then raiseHelm s 0x02
     else if !quiet s || !g.pend.isEmpty || g.held.any (fun h => h.dest.isSome || h.lod.isSome) then s.tick 1
     else
       match leastFree ((s.groupsOf s.team.uid).map fun g => g.gidx), childPlace s with
       | some idx, some (q, slot) =>
         let child := childOf g s.cur.mask n target idx q slot s.clock
         let s := { s with team := { s.team with groups := insertBy (fun g : Group => g.gidx) child s.team.groups } }
         uniformWrite s [(d.toNat, BitVec.ofNat 32 idx)] []
       | _, _ => uniformWrite s [(d.toNat, 0xFFFFFFFF)] [])

end Sys2Proof.Machine
end

