-- ==== Sys2Proof/Machine/Launch.lean ====
section
/-!
DEFINITION. The launch unit (16 R329 to R342, 25 R439, R440): acceptance of launch records, waits, placement of teams and clusters (02
R24 to R26, R29 to R34, 11 R204, R219), energy admission, coalescing nodes, and the finish of a launch (06 R121, R124).
-/
namespace Sys2Proof.Machine

/-! ### Accesses of the unit -/

/-- Bytes at a PA: device memory or a host window. -/
def paBytes (s : State) (pa n : Nat) : Option (List Byte) :=
  if backed pa && backed (pa + n - 1) then (if isLost s pa then none else some (leBytes n (memRead s.mem pa n)))
  else if 0x400000000000 ≤ pa && pa < 0x800000000000 && !s.slalia.lost then some (leBytes n (memRead s.hostMem (pa % 2 ^ 46) n))
  else none

/-- The lines of such a read are reached (R101). -/
def paReach (s : State) (pa n : Nat) : State := if backed pa && backed (pa + n - 1) then (hubRead s pa n).1 else s

/-- A SOURCE 9 entry (Table 25.7). -/
def launchEntry (s : State) (addr code : Nat) : State :=
  modRing s { source := 9, faddr := BitVec.ofNat 64 addr, fcode := BitVec.ofNat 32 code }

/-! ### Records (Table 16.1) -/

/-- The first bad field of a launch record, in ascending offset (R329, R25, R29, R32, R88). -/
def recordBad (valid : Bool) (b : List Byte) : Option Nat :=
  let f (o n : Nat) : Nat := fieldAt b o n
  let flags := f 46 2
  let qfed := bitAt flags 3
  let size := f 29 1 % 16 * (f 29 1 / 16)
  let total := f 32 4 * f 36 4 * f 40 4
  badField ([
    (0, !vaOk (f 0 8) 4),
    (24, f 24 1 = 1 || 8 < f 24 1 || f 24 1 + f 25 1 + f 26 1 + f 27 1 = 0 || 16 < f 24 1 + f 25 1 + f 26 1 + f 27 1),
    (28, f 28 1 = 0 || 16 < f 28 1),
    (29, f 29 1 % 16 = 0 || f 29 1 / 16 = 0 || 12 < f 29 1 % 16 || 8 < f 29 1 / 16 || 12 < size),
    (30, 320 < f 30 2),
    (32, !qfed && (f 32 4 = 0 || 2 ^ 32 < total || total % max 1 size ≠ 0)),
    (36, !qfed && f 36 4 = 0),
    (40, !qfed && f 40 4 = 0),
    (44, 256 < f 44 2),
    (46, 16 ≤ flags),
    (48, 4096 ≤ f 48 8 || !valid),
    (56, f 56 8 % 8 ≠ 0),
    (68, f 68 4 ≠ 0),
    (72, f 72 8 % 8 ≠ 0),
    (88, f 88 8 % 8 ≠ 0),
    (104, f 104 8 % 64 ≠ 0),
    (112, f 112 16 ≠ 0)] ++ (List.range 4).map fun r => (8 + 4 * r, decide (f (8 + 4 * r) 4 % 4 ≠ 0)))

/-- An entry of the ring table (Table 16.2): offset, slots, bytes. -/
def ringEntry (b : List Byte) (n : Nat) : Nat × Nat × Nat :=
  let e := fieldAt b (8 * n) 8
  (bits e 18 0, bits e 25 19, bits e 42 26)

/-- The first bad field of the ring table; a ring outside SCRATCH is bad at its OFFSET (R330). -/
def ringsBad (b : List Byte) (scratch : Nat) : Option Nat :=
  badField ((List.range 16).flatMap fun n =>
    let (o, k, z) := ringEntry b n
    [(8 * n, k ≠ 0 && (o % 128 ≠ 0 || scratch < o + k * z)), (8 * n + 2, decide (64 < k)),
     (8 * n + 3, k ≠ 0 && (z < 16 || 65536 < z)), (8 * n + 5, bits (fieldAt b (8 * n) 8) 63 43 ≠ 0)])

/-- The first bad field of a node descriptor (Table 16.4). -/
def nodeBad (b : List Byte) : Option Nat :=
  let f (o n : Nat) : Nat := fieldAt b o n
  badField [
    (0, !vaOk (f 0 8) 16),
    (8, f 8 2 < 16 || 4096 < f 8 2 || f 8 2 % 16 ≠ 0),
    (10, f 10 2 = 0 || 4096 < f 10 2),
    (12, f 12 4 = 0 || 2 ^ 30 < f 12 4 || f 12 4 % max 1 (f 10 2) ≠ 0),
    (24, bits (f 24 8) 8 0 = 0 || 256 < bits (f 24 8) 8 0),
    (25, bits (f 24 8) 63 10 ≠ 0)]

/-- A launch from the bytes of its record. -/
def launchOf (b : List Byte) : Launch :=
  let f (o n : Nat) : Nat := fieldAt b o n
  let v (o : Nat) : DWord := BitVec.ofNat 64 (f o 8)
  let flags := f 46 2
  { seqNo := 0, id := 0, queue := 0, asid := BitVec.ofNat 12 (f 48 2), codeVa := v 0,
    entry := (List.range 4).map fun r => BitVec.ofNat 32 (f (8 + 4 * r) 4),
    counts := (List.range 4).map fun r => f (24 + r) 1,
    regs := f 28 1 % 32, clh := f 29 1 % 16, clw := f 29 1 / 16, scratch := 1024 * f 30 2, obShare := 1024 * f 44 2,
    gx := f 32 4, gy := f 36 4, gz := f 40 4, serial := bitAt flags 0, wait := bitAt flags 1, done := bitAt flags 2,
    qfed := bitAt flags 3, energy := f 64 4, waitVa := v 72, waitVal := v 80, doneVa := v 88, doneVal := v 96, nodeVa := v 104 }

/-- The ring table of a record, read with it; none where it cannot be read (R330). -/
def ringTable (s : State) (b : List Byte) : Option (List Byte) := hubBytes s (launchOf b).asid (fieldAt b 56 8) 128 8

/-- What a record that has been read comes to, with its ring table: the launch, or the code of its rejection (R439). -/
def checkRecord (s : State) (b : List Byte) (table : Option (List Byte)) : Except Nat Launch :=
  let l := launchOf b
  let ctx := ctxOf s l.asid
  let ringVa := fieldAt b 56 8
  let scratch := l.scratch
  match recordBad ctx.valid b with
  | some o => .error o
  | none =>
    let rings : Except Nat (List (Nat × Nat × Nat)) :=
      if ringVa = 0 then .ok []
      else match table with
        | none => .error 0x300
        | some t => match ringsBad t scratch with
          | some o => .error (0x100 + o)
          | none => .ok ((List.range 16).map (ringEntry t))
    match rings with
    | .error c => .error c
    | .ok rings =>
      if l.wait && (hubTarget s l.asid l.waitVa .read).isNone then .error 0x300
      else
        let l := { l with rings := rings, priv := ctx.priv }
        if !l.qfed then .ok l
        else match hubTarget s l.asid l.nodeVa .read, hubBytes s l.asid l.nodeVa.toNat 64 8 with
          | some (.device _), some d => match nodeBad d with
            | some o => .error (0x200 + o)
            | none => .ok { l with node := { recVa := fieldAt d 0 8, recB := fieldAt d 8 2, thresh := fieldAt d 10 2,
                                             cap := fieldAt d 12 4, flush := BitVec.ofNat 32 (fieldAt d 20 4) } }
          | _, _ => .error 0x300

/-- The launch accepted last from a queue. -/
def lastOf (s : State) (q : Nat) : Option Nat :=
  ((s.launches.filter fun l => l.queue = q).map fun l => l.seqNo).getLast?

/-- The lines that the reads of a record's ring table and node descriptor reach (R101). -/
def recordReach (s : State) (b : List Byte) : State :=
  let l := launchOf b
  let s := if fieldAt b 56 8 = 0 then s else hubReach s l.asid (fieldAt b 56 8) 128
  if l.qfed then hubReach s l.asid l.nodeVa.toNat 64 else s

/-- Acceptance (R332, R439): the launch takes its id and its sequence number; a rejected one counts as finished. `b` and `table` are the record and its ring
table as they were read, `cmd` the command that handed the record over. -/
def acceptRecord (s : State) (q addr : Nat) (b table : Option (List Byte)) (cmd : Option Nat) : State :=
  let id := s.nextLaunchId
  let seqNo := s.nextSeqNo
  let prev := lastOf s q
  let s := { s with nextLaunchId := id + 1, nextSeqNo := seqNo + 1 }
  let r : Except Nat Launch := match b with
    | some b => checkRecord s b table
    | none => .error 0x300
  let l : Launch := match r with
    | .ok l => { l with seqNo := seqNo, id := id, queue := q, prev := prev, addr := addr }
    | .error _ => { seqNo := seqNo, id := id, queue := q, prev := prev, finished := true, ended := true, noDone := true }
  let s := { (match b with | some b => recordReach s b | none => s) with launches := s.launches ++ [l] }
  let s := match r with
    | .ok _ => s
    | .error c => launchEntry s addr c
  match cmd with
  | none => s
  | some n =>
    let s := s.modCmd n fun c => { c with cookie := id.setWidth 32 }
    match r with
    | .ok _ => finishCmd s n 0 id.toNat
    | .error c => finishCmd s n (if c = 0x300 then 1 else 2) c

/-- The launch that `cop.sys.launch` has entered in a queue and that comes next: every record published before it has been accepted (R332). -/
def LaunchQueue.due (x : LaunchQueue) : Option (Nat × DWord × BitVec 12 × Nat) :=
  x.direct.head?.filter fun d => decide ((x.tail - BitVec.ofNat 32 d.1).toNat < 2 ^ 31)

/-- Whether a queue has a record. -/
def LaunchQueue.hasRecord (x : LaunchQueue) : Bool := x.due.isSome || (x.cfg.getLsbD 5 && x.head ≠ x.tail)

/-- The queue whose turn it is (R332): the queues that have a record, in ascending order from the one after the last. -/
def turnQueue (s : State) : Option Nat :=
  let qs := (s.hub.queues.filter fun q => q.2.hasRecord).map fun q => q.1
  (qs.find? fun q => s.launchTurn ≤ q).orElse fun _ => qs.head?

/-- The launch unit takes the next record of a queue, if it is the queue's turn: a `cop.sys.launch`, whose record was read when the command was accepted
(R264), or the record at LQTAIL (R331, R332). -/
def launchAccept (s : State) (q : Nat) : State :=
  if turnQueue s ≠ some q then s
  else
    let x := s.queue q
    let s := { s with launchTurn := q + 1 }
    match x.due with
    | some d =>
      let s := s.modQueue q fun x => { x with direct := x.direct.drop 1 }
      (match s.cmd d.2.2.2 with
        | some c => acceptRecord s q d.2.1.toNat (if c.desc.isEmpty then none else some c.desc)
          (if c.comm.isEmpty then none else some c.comm) (some c.id)
        | none => s)
    | none =>
      let pa := x.base.toNat + 128 * (x.tail.toNat % 2 ^ clamp (x.cfg.toNat % 32) 1 16)
      let b := paBytes s pa 128
      (acceptRecord (paReach s pa 128) q pa b (b.bind (ringTable s)) none).modQueue q fun x => { x with tail := x.tail + 1 }

/-- LAUNCH_ACCEPT (R332). -/
def execLaunchAccept (queue : BitVec 8) (s : State) : Host.Outcome State Fault Refusal := done (launchAccept s queue.toNat)

/-- A `cop.sys.launch` enters its queue's order (R332); it ends when the record is accepted. -/
def runLaunch (s : State) (c : Command) : State :=
  let q := c.opb.toNat % 256
  let s := s.modCmd c.id fun c => { c with state := .running }
  s.modQueue q fun x => { x with direct := x.direct ++ [(x.head.toNat, c.opa, c.asid, c.id)] }

/-! ### Launches -/

def State.launch (s : State) (n : Nat) : Option Launch := s.launches.find? fun l => l.seqNo = n
def State.modLaunch (s : State) (n : Nat) (f : Launch → Launch) : State :=
  { s with launches := s.launches.map fun l : Launch => if l.seqNo = n then f l else l }

/-- Whether a launch has finished; one that is no longer listed has. -/
def launchDone (s : State) (n : Nat) : Bool := match s.launch n with | some l => l.finished | none => true

/-- The launches that a write at a target comes after, or is the done write of (R334): those whose done writes stand before the last write of its 8 bytes, or are it. -/
def doneBefore (s : State) (t : Target) : List Nat :=
  let hit (w : CodeWrite) : Bool := match t with
    | .device pa => !w.host && !w.done && overlaps pa 8 w.addr w.old.length
    | .host a _ => w.host && !w.done && overlaps a 8 w.addr w.old.length
    | _ => false
  (s.codeLog.dropWhile fun w => !hit w).filterMap fun w => if w.done then w.who else none

/-- Launches, and those whose finish comes before their starts (R334). -/
def startsAfter (s : State) (ns : List Nat) : List Nat :=
  (ns ++ ns.flatMap fun n => ((s.launch n).map fun l => l.after).getD []).eraseDups

/-- LAUNCH_WAIT_POLL (R333): a read of WAITVA. -/
def waitPoll (s : State) (n : Nat) : State :=
  match s.launch n with
  | none => s
  | some l =>
    if l.finished || l.started || !l.wait then s
    else match hubPage s l.asid l.waitVa .read with
      | none => s
      | some (t, c) =>
        let v := rawRead s t 8
        let s := rawReach s t 8 c
        if l.waitVal.toNat ≤ v then
          let ns := doneBefore s t
          s.modLaunch n fun l => { l with waitMet := true, after := startsAfter s (l.after ++ ns) }
        else s

/-- LAUNCH_WAIT_POLL (R333). -/
def execLaunchWaitPoll (launch : Nat) (s : State) : Host.Outcome State Fault Refusal := done (waitPoll s launch)

/-- Whether the first two conditions of a start hold (R333). -/
def startable (s : State) (l : Launch) : Bool :=
  l.started || ((!l.serial || (match l.prev with | some p => launchDone s p | none => true)) && (!l.wait || l.waitMet))

/-- Teams of the grid (R31). -/
def Launch.total (l : Launch) : Nat := l.gx * l.gy * l.gz

def Launch.size (l : Launch) : Nat := max 1 (l.clh * l.clw)

/-- Whether a further team is due. -/
def Launch.more (l : Launch) : Bool :=
  !l.finished && !l.ended && (if l.qfed then l.nextTeam + l.size ≤ l.node.batch else decide (l.nextTeam < l.total))

/-! ### Room (R23, R24, R26) -/

/-- What a team needs of a core: per group its quadrant and registers, scratchpad and operand-buffer bytes. -/
structure Need where
  groups : List (Nat × Nat)
  scratch : Nat
  ob : Nat
  deriving DecidableEq, Repr

/-- Role of declared group i (R25). -/
def declaredRole (counts : List Nat) (i : Nat) : Role :=
  let n (k : Nat) : Nat := (counts.take k).foldl (· + ·) 0
  if i < n 1 then .matrix else if i < n 2 then .copy else if i < n 3 then .vector else .general

def Role.index : Role → Nat
  | .matrix => 0 | .copy => 1 | .vector => 2 | .general => 3

/-- Declared groups of a launch. -/
def Launch.groups (l : Launch) : Nat := l.counts.foldl (· + ·) 0

def Launch.need (l : Launch) : Need :=
  { groups := (List.range l.groups).map fun i => (i % 4, 16 * l.regs), scratch := l.scratch, ob := l.obShare }

/-- Whether a core has room (R26); a core or die that is out of service or in reset has none. -/
def room (s : State) (n : Need) (core : Nat) : Bool :=
  let teams := s.allTeams.filter fun t => t.core = core
  let d := s.die (dieOf core)
  let sum (f : Team → Nat) : Nat := teams.foldl (fun a t => a + f t) 0
  !d.inReset && !d.outOfService && !(s.core core).outOfService && !(s.core core).draining && teams.length < 16 &&
    sum (fun t => t.scratchSize) + n.scratch ≤ 327680 && sum (fun t => t.obSize) + n.ob ≤ Config.obBytes &&
    (List.range 4).all fun q =>
      let mine := n.groups.filter fun g => g.1 = q
      (usedSlots s core q).length + mine.length ≤ 16 && usedRegs s core q + mine.foldl (fun a g => a + g.2) 0 ≤ Config.quadRegs

/-- Dies in the order of R340. -/
def dieOrder (seqNo t : Nat) : List Nat := (List.range 8).map fun k => (seqNo + t + k) % 8

/-- The core a team goes to (R340): on the first die with room, the one with the fewest resident teams, the lowest id on a tie. -/
def pickCore (s : State) (n : Need) (seqNo t : Nat) : Option Nat :=
  (dieOrder seqNo t).findSome? fun d =>
    ((sortBy (fun c : Nat => (s.allTeams.filter fun t => t.core = c).length)
      (((List.range 96).map fun k => 96 * d + k).filter (room s n))).head?)

/-- The cores of a rectangle of a die (R29). -/
def rectCores (d a0 f0 h w : Nat) : List Nat := (List.range (h * w)).map fun m => 96 * d + 8 * (a0 + m / w) + f0 + m % w

/-- The rectangle a cluster goes to (R340), each member with its own need. -/
def pickRect (s : State) (needs : List Need) (h w seqNo t : Nat) : Option (List Nat) :=
  (dieOrder seqNo t).findSome? fun d =>
    (List.range (13 - h)).findSome? fun a0 =>
      (List.range (9 - w)).findSome? fun f0 =>
        let cs := rectCores d a0 f0 h w
        if (List.zip needs cs).all (fun x => room s x.1 x.2) then some cs else none

/-- Where the next team or cluster of a launch goes; the t of a cluster in the order of the dies is its first team index (DESIGN CHOICE,
notes/assumptions/95.md). -/
def nextCores (s : State) (l : Launch) : Option (List Nat) :=
  if l.size = 1 then (pickCore s l.need l.seqNo l.nextTeam).map fun c => [c]
  else pickRect s (List.replicate l.size l.need) l.clh l.clw l.seqNo l.nextTeam

/-- What a team or cluster is charged, and whether the window admits it (R342): its first charge always, a charge of 0 being none. -/
def charge (l : Launch) : Nat := l.energy * l.size
def budget (a : Admission) : Nat := a.allowance - a.carry
def admitted (a : Admission) (n : Nat) : Bool := a.first || a.charged + n ≤ budget a

/-- Whether a launch can place its next team or cluster now (R333, R339, R419): no team of it is Saved, its context does not drain. -/
def placeable (s : State) (l : Launch) : Bool :=
  l.more && startable s l && !(s.ctl l.asid).drain && !s.saved.any (fun v => v.seqNo = l.seqNo) && (nextCores s l).isSome &&
    admitted s.adm (charge l)

/-! ### Placing a team (R24, R33, R204, R219, R341) -/

/-- A declared group at its start, in the lowest group slot of its quadrant that is free (DESIGN CHOICE, notes/assumptions/77.md: R26 names none). -/
def firstGroup (s : State) (l : Launch) (core i : Nat) (taken : List Group) : Group :=
  let role := declaredRole l.counts i
  let q := i % 4
  let pc := l.codeVa + (l.entry.getD role.index 0).setWidth 64
  let slots := usedSlots s core q ++ (taken.filter fun g => g.quad = q).map fun g => g.gslot
  { gidx := i, role := role, nregs := 16 * l.regs, quad := q, gslot := (leastFree slots).getD 0, live := 0xFFFFFFFF,
    frontier := [{ pc := pc, prio := 0, mask := 0xFFFFFFFF }], stall := [emptyFrame pc], helmClk := s.clock }

/-- The groups of a new team, in index order. -/
def firstGroups (s : State) (l : Launch) (core : Nat) : List Group :=
  (List.range l.groups).foldl (fun gs i => gs ++ [firstGroup s l core i gs]) []

/-- The team slot a new team takes: the lowest free one of the core (DESIGN CHOICE, notes/assumptions/77.md: R26 and R340 name none). -/
def freeSlot (s : State) (core : Nat) : Nat := (leastFree ((s.allTeams.filter fun t => t.core = core).map fun t => t.tslot)).getD 0

/-- The largest write time of any line or block: what is ordered before a launch's start has no later one (R121, R337, R348). -/
def horizon (s : State) : Nat :=
  let d := s.dies.foldl (fun m x =>
    let m := x.2.l2.foldl (fun m e => max m e.wts) m
    let m := x.2.rdc.foldl (fun m e => max m e.wts) m
    x.2.evicted.foldl (fun m e => max m e.2) m) 0
  s.allTeams.foldl (fun m t => t.blocks.foldl (fun m b => max m b.2.1) m) (s.blocks.foldl (fun m b => max m b.2.1) d)

/-- The L1 loses the lines whose units pass to the scratchpad (R95). -/
def shrinkL1 (s : State) (core : Nat) : State :=
  let extra := (s.core core).l1.length - l1Lines s core
  (List.range extra).foldl (fun s _ =>
    let n := (s.core core).l1.length
    { (s.modCore core fun c => { c with l1 := c.l1.eraseIdx (Config.freeVictim s.free % n) }) with free := s.free + 1 }) s

/-- A ring of a new team (R227, R341). -/
def firstRings (l : Launch) : Sparse Ring :=
  (List.zip (List.range 16) l.rings).foldl (fun m x =>
    put m x.1 { offset := x.2.1, slots := x.2.2.1, bytes := x.2.2.2 } {}) []

/-- Places team t of a launch on a core. -/
def placeTeam (s : State) (l : Launch) (t core : Nat) : State :=
  let size := l.size
  let gs := firstGroups s l core
  let expect := mask16 (gs.map fun g => g.gidx)
  let team : Team :=
    { uid := s.nextUid, launchId := l.id, seqNo := l.seqNo, tidx := t,
      tx := if l.qfed then t else t % l.gx, ty := if l.qfed then 0 else t / l.gx % l.gy, tz := if l.qfed then 0 else t / (l.gx * l.gy),
      cidx := t / size, midx := t % size, clh := l.clh, clw := l.clw, asid := l.asid, priv := l.priv, core := core,
      tslot := freeSlot s core, scratchSize := l.scratch, obSize := l.obShare, groups := gs, rings := firstRings l,
      bars := (List.range 16).foldl (fun m b => put m b { expect := expect } {}) [] }
  let s := setCtime { s with nextUid := s.nextUid + 1, teams := insertBy (fun t : Team => t.uid) team s.teams } core (horizon s)
  shrinkL1 s core

/-- The bytes of a core's array, or of its operand buffer, in one piece: the allocations in slot order, and what lies beyond them. -/
def arrayImage (s : State) (ob : Bool) (core : Nat) : Memory :=
  let (m, base) := (teamsOfCore s core).foldl (fun (acc : Memory × Nat) t =>
    (acc.1 ++ (if ob then t.ob else t.scratch).map (fun c => (acc.2 + c.1, c.2)), acc.2 + if ob then t.obSize else t.scratchSize)) ([], 0)
  m ++ (if ob then (s.core core).obArray else (s.core core).array).filter fun c => decide (base ≤ c.1)

/-- A map with the entries of an interval of `n` keys from `a` on replaced. -/
def replaceRange {β : Type} (m : Sparse β) (a n : Nat) (new : Sparse β) : Sparse β :=
  m.takeWhile (fun c => decide (c.1 < a)) ++ new ++ m.dropWhile fun c => decide (c.1 < a + n)

/-- Memory without the writes of launches that do not come before a start (R121), and with every write that does; `log` has the latest write first, and
the fold keeps the addresses that a later write of the second kind has settled. -/
def orderedView (log : List CodeWrite) (host : Bool) (after : List Nat) (m : Memory) : Memory :=
  let seen (w : CodeWrite) : Bool := match w.who with | some n => after.contains n | none => true
  (log.foldl (fun (acc : Sparse Bool × Memory) w =>
    let n := w.old.length
    if w.host ≠ host || w.done then acc
    else if seen w then (replaceRange acc.1 w.addr n ((List.range n).map fun k => (w.addr + k, true)), acc.2)
    else
      let settled := rangeOf acc.1 w.addr n
      let now := rangeOf acc.2 w.addr n
      (acc.1, replaceRange acc.2 w.addr n ((w.old.zipIdx.map fun x =>
        (w.addr + x.2, if look settled (w.addr + x.2) false then memByte now (w.addr + x.2) else x.1)).filter fun c => decide (c.2 ≠ Config.blankByte))))
    ([], m)).2

/-- What the instruction fetches of a launch that starts now, after others have finished, see (R121). -/
def codeView (s : State) (after : List Nat) : CodeView :=
  let cores := (sortBy id (s.cores.map (fun x => x.1) ++ s.allTeams.map fun t => t.core)).eraseDups
  { mem := orderedView s.codeLog false after s.mem, host := orderedView s.codeLog true after s.hostMem, peers := s.peers, hub := s.hub,
    arrays := cores.foldl (fun m k => put (put m (2 * k) (arrayImage s false k) []) (2 * k + 1) (arrayImage s true k) []) [] }

/-- The next team or cluster of a launch is placed (R339 to R342). -/
def placeNext (s : State) (l : Launch) (cores : List Nat) : State :=
  let n := charge l
  let s := { s with adm := { s.adm with charged := s.adm.charged + n, first := s.adm.first && n = 0 } }
  let s := (List.zip (List.range l.size) cores).foldl (fun s x => placeTeam s l (l.nextTeam + x.1) x.2) s
  let s := if l.size = 1 then s
    else { s with clusters := s.clusters ++ [{ seqNo := l.seqNo, cidx := l.nextTeam / l.size }] }
  let after := startsAfter s (l.after ++ if l.serial then l.prev.toList else [])
  s.modLaunch l.seqNo fun l =>
    { l with nextTeam := l.nextTeam + l.size, live := l.live + l.size, after := if l.started then l.after else after,
             code := if l.started then l.code else codeView s after, started := true }

/-- TEAM_PLACE (R339): no older launch can place a team; the unit places one team or cluster every two fabric clocks. -/
def teamPlace (s : State) (n : Nat) : State :=
  match s.launch n with
  | none => s
  | some l =>
    if placeable s l && !s.launches.any (fun o => o.seqNo < l.seqNo && placeable s o) then
      match nextCores s l with
      | some cores => (placeNext s l cores).tick 3
      | none => s
    else s

/-- TEAM_PLACE (R339). -/
def execTeamPlace (launch : Nat) (s : State) : Host.Outcome State Fault Refusal := done (teamPlace s launch)

/-! ### Finish (R40, R121, R124, R333) -/

/-- Whether a launch finishes: no further team, every slot freed, every access of its commands performed. -/
def finishes (s : State) (l : Launch) : Bool :=
  let last := l.ended || (if l.qfed then l.node.closed && l.node.batch < l.nextTeam + l.size else l.nextTeam = l.total)
  !l.finished && last && l.live = 0 &&
    s.commands.all fun c => c.launch ≠ l.seqNo || c.state = .finished

/-- The done write: one 8-byte write, after the launch's host-window writes where DONEVA is a host window; one that fails is dropped
with code 0x302. -/
def doneWrite (s : State) (l : Launch) : State :=
  let s := { s with codeLog := { who := some l.seqNo, host := false, addr := 0, old := [], done := true } :: s.codeLog }
  match hubPage s l.asid l.doneVa .write with
  | none => launchEntry s l.addr 0x302
  | some (.host a tso, _) =>
    rawWrite (flushHost s fun w => w.launch = l.seqNo) (.host a tso) 8 l.doneVal.toNat
  | some (t, c) => rawWrite s t 8 l.doneVal.toNat c

/-- LAUNCH_FINISH (R333): the partials are combined (R124, R310), and every access of the launch stands before those of launches that start later
(R121). -/
def launchFinish (s : State) (n : Nat) : State :=
  match s.launch n with
  | none => s
  | some l =>
    if !finishes s l then s
    else
      let (s, ok) := combinePartials s n
      if !ok then s else
      let s := endUses s (· = n)
      let s := s.modLaunch n fun l => { l with finished := true, regions := [] }
      let s := flushHost (showPast s fun _ w => w.launch = n) fun w => w.launch = n
      if l.done && !l.noDone then doneWrite s l else s

/-- LAUNCH_FINISH (R333). -/
def execLaunchFinish (launch : Nat) (s : State) : Host.Outcome State Fault Refusal := done (launchFinish s launch)

/-! ### Coalescing nodes (R335 to R338, R440) -/

/-- A 32-bit word of a launch's node or slots. -/
def nodeWord (s : State) (l : Launch) (va : Nat) : Option Nat :=
  match hubTarget s l.asid (BitVec.ofNat 64 va) .read with
  | some (.device pa) => some (memRead s.mem pa 4)
  | _ => none

/-- The line of such a word is reached by its read (R101). -/
def nodeReach (s : State) (l : Launch) (va : Nat) : State := hubReach s l.asid va 4

def nodePut (s : State) (l : Launch) (va v : Nat) : Option State :=
  match hubPage s l.asid (BitVec.ofNat 64 va) .write with
  | some (.device pa, c) => some (hubWrite s pa 4 v c)
  | _ => none

/-- An access to the node or the slots has failed (R440). -/
def nodeFailed (s : State) (l : Launch) : State :=
  launchEntry (s.modLaunch l.seqNo fun l => { l with ended := true, noDone := true }) l.nodeVa.toNat 0x303

def Launch.lo (l : Launch) : Nat := l.node.batch * l.node.thresh
def Launch.hi (l : Launch) : Nat := l.lo + l.node.thresh

/-- The launch has a node that is still served. -/
def nodeServed (l : Launch) : Bool := l.qfed && !l.finished && !l.ended && !l.node.closed

/-- TAIL, FLUSHREQ and D3 of a node. -/
def readNodeCtl (s : State) (l : Launch) : Option (Nat × Nat × Nat) :=
  match nodeWord s l (l.nodeVa.toNat + 16), nodeWord s l (l.nodeVa.toNat + 20), nodeWord s l (l.nodeVa.toNat + 24) with
  | some a, some b, some c => some (a, b, c)
  | _, _, _ => none

/-- NODE_TAIL_POLL (R337). -/
def nodePoll (s : State) (n : Nat) : State :=
  match s.launch n with
  | none => s
  | some l =>
    if !nodeServed l || l.node.firing.isSome then s
    else match readNodeCtl s l with
      | none => nodeFailed s l
      | some (tail, _, d3) =>
        let s := nodeReach s l (l.nodeVa.toNat + 16)
        if l.lo < tail then
          s.modLaunch n fun l => { l with node := { l.node with first := some (l.node.first.getD s.clock) } }
        else if bitAt d3 9 then s.modLaunch n fun l => { l with node := { l.node with closed := true } }
        else s

/-- NODE_TAIL_POLL (R337). -/
def execNodeTailPoll (launch : Nat) (s : State) : Host.Outcome State Fault Refusal := done (nodePoll s launch)

/-- Lap of a slot, its VA, and the tag that marks it free in the lap (R335, R336). -/
def Launch.lap (l : Launch) (i : Nat) : Nat := i / max 1 l.node.cap
def Launch.slotVa (l : Launch) (i : Nat) : Nat := l.node.recVa + l.node.recB * (i % max 1 l.node.cap)
def Launch.freeTag (l : Launch) (i : Nat) : Nat := 2 * l.lap i % 2 ^ 31
def Launch.validTag (l : Launch) (i : Nat) : Nat := (2 * l.lap i + 1) % 2 ^ 31

/-- The slots a firing batch goes through (R337): those from the old TAIL on are voided, then those below it are awaited. -/
def fireOrder (l : Launch) (o : Nat) : List Nat :=
  ((List.range l.node.thresh).map fun k => l.lo + k).filter (fun i => decide (o ≤ i)) ++
    ((List.range l.node.thresh).map fun k => l.lo + k).filter fun i => decide (i < o)

/-- Goes through the slots as far as their tags permit: the state, and the slot that is waited for. -/
def fireSlots (l : Launch) (o : Nat) : List Nat → State → Option (State × Option Nat)
  | [], s => some (s, none)
  | i :: rest, s =>
    match nodeWord s l (l.slotVa i) with
    | none => none
    | some tag =>
      let s := nodeReach s l (l.slotVa i)
      if o ≤ i then
        if tag = l.freeTag i then
          match nodePut s l (l.slotVa i) (2 ^ 31 + l.validTag i) with
          | some s => fireSlots l o rest s
          | none => none
        else some (s, some i)
      else if tag = l.validTag i then fireSlots l o rest s
      else some (s, some i)

/-- A batch that has been fired goes on from a slot. -/
def fireFrom (s : State) (l : Launch) (o : Nat) (slots : List Nat) : State :=
  match fireSlots l o slots s with
  | none => nodeFailed s l
  | some (s, some i) =>
    let since := match l.node.firing with
      | some (_, j, c) => if j = i then c else s.clock
      | none => s.clock
    let same := match l.node.firing with | some (_, j, _) => decide (j = i) | none => false
    s.modLaunch l.seqNo fun l =>
      { l with node := { l.node with firing := some (o, i, since), timedOut := same && l.node.timedOut } }
  | some (s, none) =>
    s.modLaunch l.seqNo fun l =>
      { l with node := { l.node with batch := l.node.batch + 1, first := none, firing := none, timedOut := false } }

/-- BATCH_FIRE (R337): AGING is read when the batch may fire; a value outside 1 to 256 that the node got after its acceptance acts as the nearest one
(DESIGN CHOICE, notes/assumptions/78.md). A batch fires once one of its conditions holds, the aging limit at its clock; a batch that waits on a tag goes
on. -/
def batchFire (s : State) (n : Nat) : State :=
  match s.launch n with
  | none => s
  | some l =>
    if !nodeServed l then s
    else match l.node.firing with
      | some (o, i, _) => fireFrom s l o ((fireOrder l o).dropWhile fun k => decide (k ≠ i))
      | none =>
        match readNodeCtl s l with
        | none => nodeFailed s l
        | some (tail, flush, d3) =>
          let s := nodeReach s l (l.nodeVa.toNat + 16)
          if tail ≤ l.lo then s
          else
            let now := decide (l.hi ≤ tail) || decide (BitVec.ofNat 32 flush ≠ l.node.flush) || bitAt d3 9
            let due := l.node.first.getD s.clock + 256 * clamp (d3 % 512) 1 256
            let s := if now || due ≤ s.clock then s else s.tick (due - s.clock)
            match nodePut s l (l.nodeVa.toNat + 16) (max tail l.hi) with
            | none => nodeFailed s l
            | some s =>
              let s := s.modLaunch n fun l => { l with node := { l.node with flush := BitVec.ofNat 32 flush } }
              fireFrom s l tail (fireOrder l tail)

/-- BATCH_FIRE (R337). -/
def execBatchFire (launch : Nat) (s : State) : Host.Outcome State Fault Refusal := done (batchFire s launch)

/-- TAG_WAIT_TIMEOUT (R440): the clock runs to 2^24 after the wait began; the entry is written once. -/
def tagTimeout (s : State) (n : Nat) : State :=
  match s.launch n with
  | none => s
  | some l => match l.node.firing with
    | none => s
    | some (_, i, since) =>
      if l.node.timedOut || l.finished || l.ended then s
      else
        let s := if s.clock < since + 2 ^ 24 then s.tick (since + 2 ^ 24 - s.clock) else s
        let s := ctxRing s l.asid { source := 10, faddr := BitVec.ofNat 64 (l.slotVa i), fcode := BitVec.ofNat 32 i }
        s.modLaunch n fun l => { l with node := { l.node with timedOut := true } }

/-- TAG_WAIT_TIMEOUT (R440). -/
def execTagWaitTimeout (launch : Nat) (s : State) : Host.Outcome State Fault Refusal := done (tagTimeout s launch)

end Sys2Proof.Machine
end

