-- ==== Sys2Proof/Machine/SysRegs.lean ====
section
/-!
DEFINITION. System registers and counters (11 R229 to R231, Tables 11.5 and 11.6, 03 Table 3.2, 23 Tables 23.3 and 23.4), and the
handler return by `wrsys FRESUME` (23 R391).
-/
namespace Sys2Proof.Machine

/-- GQSTAT (Table 3.2). -/
def gqstat (s : State) : Word :=
  let g := s.grp
  let avail := (g.ret.filter (fun e => e.ready ≤ s.clock && !g.speculative e.seq)).length
  BitVec.ofNat 32 ((16 - g.fwd.length) + 2 ^ 8 * avail + 2 ^ 12 * (8 - g.ret.length) + 2 ^ 16 * g.commit.length +
    2 ^ 24 * (strictMode s).toNat)

/-- CORE (Table 11.6). -/
def coreReg (s : State) : Word :=
  BitVec.ofNat 32 (s.team.core + 2 ^ 10 * s.grp.quad + 2 ^ 12 * s.grp.gslot + 2 ^ 16 * s.team.tslot)

/-- Offset in the context descriptor of the 64-bit CTX register a number belongs to. -/
def ctxOffset (n : Nat) : Option Nat :=
  match n / 2 with
  | 0x10 => some 0x00
  | 0x11 => some 0x08
  | 0x12 => some 0x10
  | 0x13 => some 0x18
  | 0x15 => some 0x28
  | 0x16 => some 0x30
  | 0x17 => some 0x38
  | 0x1D => some 0x40
  | _ => none

/-- One half of a 64-bit value: the even number names bits [31:0]. -/
def halfOf (v : DWord) (n : Nat) : Word := if n % 2 = 0 then v.extractLsb' 0 32 else v.extractLsb' 32 32

/-- The value `rdsys` reads (Table 11.5); none for a number or an access that is not permitted. -/
def sysValue (s : State) (n : Nat) : Option Word :=
  let f := s.grp.fault
  match n with
  | 0x00 => some (gqstat s)
  | 0x01 => some (BitVec.ofNat 32 (min 64 s.team.events.length))
  | 0x02 => some s.grp.gang
  | 0x04 => some (s.team.promStat.setWidth 32)
  | 0x05 => some s.team.promCnt
  | 0x06 => some (s.team.promClk.extractLsb' 0 32)
  | 0x07 => some s.grp.promHi
  | 0x10 => if s.team.priv then some (coreReg s) else none
  | 0x28 => some (s.team.asid.setWidth 32)
  | 0x29 => some (ctxOf s s.team.asid).lease
  | 0x30 => some f.fstat
  | 0x31 => some f.lanes
  | 0x32 => some (halfOf f.fpc 0)
  | 0x33 => some (halfOf f.fpc 1)
  | 0x34 => some (halfOf f.faddr 0)
  | 0x35 => some (halfOf f.faddr 1)
  | 0x36 => some f.fword
  | 0x37 => some f.fcode
  | _ => (ctxOffset n).map fun o => halfOf ((ctxOf s s.team.asid).field o) n

/-- `rdsys` (R229); a read of the even half of PROMCLK latches the odd one (R230). -/
def execRdsys (_k : BitVec 1) (d : BitVec 6) (n : BitVec 18) (s : State) : Host.Outcome State Fault Refusal :=
  if s.grp.sysWriting then done (stopHelm s .sysreg)
  else match sysValue s n.toNat with
    | none => done (raiseHelm s 0x06)
    | some v =>
      let s := if n = 6 then s.modGrp fun g => { g with promHi := s.team.promClk.extractLsb' 32 32 } else s
      done (uniformWrite s [(d.toNat, v)] [])

/-- Whether `wrsys` may write a value: the register and the context permit it, reserved bits are zero, a canonical field's value is
canonical (R229, 23 R395, 24 R399). -/
def sysWritable (s : State) (n : Nat) (v : Word) : Bool :=
  match n with
  | 0x04 => v.toNat < 256
  | 0x29 => s.team.priv && v.toNat < 65536
  | 0x38 => v.toNat < 4
  | _ =>
    match ctxOffset n with
    | none => false
    | some o =>
      let top := v.extractLsb' 23 9
      let canon := n % 2 = 0 || !(o = 0x00 || o = 0x08 || o = 0x30 || o = 0x40) || top = 0 || top = 0x1FF
      s.team.priv && v &&& ~~~(halfOf (ctxMask o) n) = 0 && canon

/-- The effect of `wrsys` at retirement, FRESUME apart (R229, R230). -/
def applyWrsys (s : State) (n : Nat) (v : Word) : State :=
  match n with
  | 0x04 => { s with team := { s.team with promStat := s.team.promStat &&& ~~~(v.setWidth 8) } }
  | 0x29 => s.modCtx s.team.asid.toNat fun c => { c with lease := v }
  | _ =>
    match ctxOffset n with
    | some o => s.modCtx s.team.asid.toNat fun c =>
        let old := c.field o
        c.setField o (if n % 2 = 0 then old.extractLsb' 32 32 ++ v else v ++ old.extractLsb' 0 32)
    | none => s

/-- The handler return as a step of the helm (R391). -/
def resumeWord (s : State) (v : Word) (c : Cur) : State :=
  let s := handlerReturn s v c
  (if s.grp.live = 0 then s else s.modGrp fun g => { g with nextSeq := g.nextSeq + 1, passBreak := none, passSeq := none }).tick 1

/-- `wrsys` (R229); a write of FRESUME is the handler return and waits until nothing older is outstanding (R391). -/
def execWrsys (_k : BitVec 1) (d : BitVec 6) (n : BitVec 18) (s : State) : Host.Outcome State Fault Refusal :=
  let v := s.grp.sreg d.toNat
  uniform s [d.toNat]
    (if !sysWritable s n.toNat v then raiseHelm s 0x06
     else if n = 0x38 then (if quiet s then resumeWord s v s.cur else s.tick 1)
     else commitOr s (.wrsys n.toNat v) (fun s => .done (applyWrsys s n.toNat v)) advance)

/-- FRESUME_WRITE (R391): the write retires for the group's top entry. -/
def execFresumeWrite (v : Word) (s : State) : Host.Outcome State Fault Refusal :=
  match topEntry s.grp.frontier with
  | none => done s
  | some e =>
    let c : Cur := { pc := e.pc, mask := e.mask, prio := e.prio, handler := e.handler, seq := s.grp.nextSeq }
    let s := { s with cur := c }
    done (if quiet s then resumeWord s v c else s)

/-- The counter a selector names (R231). -/
def counterValue (s : State) (n : Nat) : Nat :=
  match n with
  | 0 => s.clock
  | 1 => s.trace.ticks
  | 2 => s.team.energy
  | 3 => (look s.ctxRes s.team.asid.toNat {}).energy
  | _ => look s.hub.energy (n - 0x400) 0

/-- `rdcnt` (R231). -/
def execRdcnt (_k : BitVec 1) (d : BitVec 6) (n : BitVec 18) (s : State) : Host.Outcome State Fault Refusal :=
  let v : DWord := BitVec.ofNat 64 (counterValue s n.toNat)
  done (uniformWrite s [(d.toNat, halfOf v 0), (d.toNat + 1, halfOf v 1)] [])

end Sys2Proof.Machine
end

