-- ==== Sys2Proof/Machine/Commit.lean ====
section
/-!
DEFINITION. What the executing group's older work does on its own: commit-buffer entries retire (03 R48, R49), held stores are performed
(06 R110, 12 R258, 23 R383), results return (11 R205), pending faults and page requests are taken (23 R386, 24 R402).
-/
namespace Sys2Proof.Machine

/-! ### Retirement -/

/-- Whether a lane word that has not passed its fault point (Table 3.3), or a pending fault, stands before a word. -/
def laneBefore (g : Group) (seq : Nat) : Bool :=
  g.fwd.any (fun e => match e with | .lane c _ => decide (c.seq < seq) | .value _ _ => false) || g.inFlight seq || faultBefore g seq

/-- The oldest entry, if every older lane word has passed its fault point. -/
def headEntry (g : Group) : Option CommitEntry :=
  match g.commit with
  | e :: _ => if laneBefore g e.cur.seq then none else some e
  | [] => none

/-- The effect of an entry at its retirement. -/
def applyEntry (s : State) (e : CommitEntry) : Applied :=
  match e.effect with
  | .regs sw cw => .done (s.modGrp fun g => g.retireRegs sw cw)
  | .frame push sw => .done (applyFrame s push sw)
  | .store addr n data => applyStore s addr n data
  | .load addr n sd => applyLoad s addr n sd oweRegs
  | .atom op addr data sd => applyAtom s op addr data sd oweRegs
  | .gang v => applyGang s v
  | .obres n w0 w1 => applyObres s n w0 w1
  | .obrel n => applyObrel s n
  | .joint word v => deliver s word v
  | .command major fn opa opb sd r =>
    if (deliveredCmd s).isSome then .wait s
    else deliverCommand s e major fn opa opb sd r (!(major = 0x3A && fn = 3) || (resumed s s.team.uid opa opb).isSome)
  | .wrsys n v => .done (applyWrsys s n v)
  | .arrive b => applyMark s b
  | .enrol b => applyEnrol s b
  | .clusterArrive k => applyClusterMark s k
  | .ringPost r empty n => applyPost s r empty n

/-- The entry of a word has left the buffer: what it popped is gone for good (R385), and undo entries of words that are speculative no longer are
free (R384). -/
def dropPopped (s : State) (seq : Nat) : State :=
  let gone := s.grp.popped.filter fun p => decide (p.seq ≤ seq)
  let s := gone.foldl (fun s p => match p with | .event _ r => settlePop s r | .ret _ _ => s | .value _ _ _ => s) s
  s.modGrp fun g =>
    let g := { g with popped := g.popped.filter fun p => !gone.contains p }
    Group.trimUndo { g with popped := g.popped.filter fun p => match p with | .value q _ _ => g.speculative q | _ => true }

/-- An entry leaves the buffer. -/
def retireEntry (s : State) (seq : Nat) : State := dropPopped (s.modGrp fun g => { g with commit := g.commit.drop 1 }) seq

/-- The oldest entry retires, if it can; the answer says whether it has left the buffer. -/
def retireHead (s : State) : State × Bool :=
  match headEntry s.grp with
  | none => (s, false)
  | some e =>
    match applyEntry { s with cur := e.cur } e with
    | .done s => (retireEntry s e.cur.seq, true)
    | .wait s => (s, false)
    | .stop s => (s, false)

/-- Whether a memory word that waits may go on: nothing holds it, or it may now be sent. -/
def canGo (s : State) (w : MemWord) : Bool :=
  match memWait s w with
  | none => true
  | some (.lost _) => true
  | some .older => false
  | some _ => w.since.isNone

/-- What of the group may go on now that older work of it is done, or what it waited for has come: its waiting control word, and the oldest lane
memory word that waits (R383, R407, R414, R447). -/
def settleOlder (s : State) : State :=
  let s := settleCtl s
  match s.grp.awaits.find? fun w => !w.cur.word.getLsbD 31 && canGo s w with
  | some w => settleWord s w
  | none => s

/-- Whether an effect is an arrival or a post, each of which takes a clock of the core's own, so that none share one (R221, R228). -/
def takesClock (e : CommitEffect) : Bool :=
  match e with
  | .arrive _ => true
  | .enrol _ => true
  | .clusterArrive _ => true
  | .ringPost _ _ _ => true
  | _ => false

/-- Whether a condition of Table 3.1 that only older work of the group ends stops its helm: a full commit buffer, a register whose result has not
returned, an older `wrsys`. -/
def Group.stopped (g : Group) : Bool :=
  decide (24 ≤ g.commit.length) || match g.wait with
    | .operand rs => rs.any (regPending g)
    | .sysreg => g.sysWriting
    | _ => false

/-- Older work has moved on from `s` to `t`: a helm that it stopped resumes in the clock after (R45), and a return-queue value that was speculative
is available from now on. -/
def resumeHelm (s t : State) : State :=
  if t.team.uid = s.team.uid && t.grp.gidx = s.grp.gidx && t.grp.live ≠ 0 then
    t.modGrp fun g =>
      { g with helmClk := if s.grp.stopped && !g.stopped then max g.helmClk (t.clock + 1) else g.helmClk,
               ret := g.ret.map fun e => if s.grp.speculative e.seq && !g.speculative e.seq then { e with ready := max e.ready t.clock } else e }
  else t

/-- COMMIT_RETIRE (R48). -/
def execCommitRetire (s : State) : Host.Outcome State Fault Refusal :=
  let (t, gone) := retireHead s
  done (resumeHelm s (if gone then
      (if (s.grp.commit.head?.map fun e => takesClock e.effect) = some true then (settleOlder t).tick 1 else settleOlder t)
    else t))

/-- The oldest result on its way is written. -/
def returnResult (s : State) : State :=
  match s.grp.owed with
  | o :: r => s.modGrp fun g => { g.writeRegs o.2 [] with owed := r }
  | [] => s

/-- SLD_RESULT_RETURN (R205): the result of the oldest `sld` or `satom` is written. -/
def execSldResultReturn (s : State) : Host.Outcome State Fault Refusal := done (resumeHelm s (returnResult s))

/-! ### Held stores -/

/-- STORE_PERFORMED (R110): the next held access of the group, or store or feedback of an exited group of its team, is performed; where there is none, a
memory word that waited for older ones goes on. -/
def storePerformed (s : State) : State :=
  match heldReady s s.grp with
  | some h =>
    let (s, go) := askAll s s.team.core h.targets (!h.reads)
    if go then performHeld (s.modGrp fun g => { g with held := removeFirst (· = h) g.held }) h else s
  | none =>
    match heldReady s { held := s.team.orphans } with
    | none => settleOlder s
    | some h =>
      let (s, go) := askAll s s.team.core h.targets (!h.reads)
      if !go then s
      else
      let s := { s with team := { s.team with orphans := removeFirst (· = h) s.team.orphans } }
      settleTeam (match h.lod with
        | some (l, x) => (match x.fb with | some (tx, ty) => (feedback s l.slot x.w tx ty).1 | none => s)
        | none => performHeld s { h with dest := none })

/-- STORE_PERFORMED (R110). -/
def execStorePerformed (s : State) : Host.Outcome State Fault Refusal := done (resumeHelm s (storePerformed s))

/-! ### Pending faults -/

/-- The pending fault of the group, once nothing older is outstanding (R386, R387). -/
def ripeFault (g : Group) : Option PendFault :=
  match g.pendFault with
  | some f => if olderOutstanding g f.cur.seq then none else some f
  | none => none

/-- FAULT_TAKE (R386). -/
def execFaultTake (s : State) : Host.Outcome State Fault Refusal :=
  done (match ripeFault s.grp with
    | some f => if f.page.isNone then takePending s f else s
    | none => s)

/-- PAGE_REQUEST (R402). -/
def execPageRequest (s : State) : Host.Outcome State Fault Refusal :=
  done (match ripeFault s.grp with
    | some f => if f.page.isSome then takePending s f else s
    | none => s)

end Sys2Proof.Machine
end

