-- ==== Sys2Proof/Machine/LaneArith.lean ====
section
/-!
DEFINITION. Lane integer words (09 R162 to R169).
-/
namespace Sys2Proof.Machine

/-- A word of one result register computed from its first two operands. -/
def laneAB (i : Instr) (s : State) (a b : BitVec 6) (f : Word → Word → LaneOut) : Host.Outcome State Fault Refusal :=
  done (laneFixed (laneInfo i) s fun rd _ l => f (rd 0 a.toNat l) (rd 1 b.toNat l))

/-- A word of one source. -/
def laneA (i : Instr) (s : State) (a : BitVec 6) (f : Word → LaneOut) : Host.Outcome State Fault Refusal :=
  done (laneFixed (laneInfo i) s fun rd _ l => f (rd 0 a.toNat l))

/-- A word of three sources. -/
def laneABC (i : Instr) (s : State) (a b c : BitVec 6) (f : Word → Word → Word → LaneOut) : Host.Outcome State Fault Refusal :=
  done (laneFixed (laneInfo i) s fun rd _ l => f (rd 0 a.toNat l) (rd 1 b.toNat l) (rd 2 c.toNat l))

def one (x : Word) : LaneOut := { v := [x] }

/-- A 32-bit add or subtract form (R163). -/
def addSubOut (sub : Bool) (f : BitVec 4) (a b : Word) : LaneOut :=
  let r := addSub 32 sub f.toNat a.toNat b.toNat
  { v := [BitVec.ofNat 32 r.1], p := (carryDest f.toNat).map fun n => (n, r.2) }

/-- `iadd` (R163). -/
def execIadd (k : BitVec 1) (d a b : BitVec 6) (f : BitVec 4) (h : BitVec 2) (s : State) : Host.Outcome State Fault Refusal :=
  laneAB (.iadd k d a b f h) s a b (addSubOut false f)

/-- `isub` (R163). -/
def execIsub (k : BitVec 1) (d a b : BitVec 6) (f : BitVec 4) (h : BitVec 2) (s : State) : Host.Outcome State Fault Refusal :=
  laneAB (.isub k d a b f h) s a b (addSubOut true f)

/-- `imul` (R164). -/
def execImul (k : BitVec 1) (d a b : BitVec 6) (f : BitVec 4) (h : BitVec 2) (s : State) : Host.Outcome State Fault Refusal :=
  laneAB (.imul k d a b f h) s a b fun x y => { v := mulOut f.toNat x y }

/-- `imad` (R165). -/
def execImad (k : BitVec 1) (d a b c : BitVec 6) (s : State) : Host.Outcome State Fault Refusal :=
  laneABC (.imad k d a b c) s a b c fun x y z => one (x * y + z)

/-- `imnmx` (R166). -/
def execImnmx (k : BitVec 1) (d a b : BitVec 6) (f : BitVec 4) (h : BitVec 2) (s : State) : Host.Outcome State Fault Refusal :=
  laneAB (.imnmx k d a b f h) s a b fun x y => one (minMax f.toNat x y)

/-- `logic` (R166). -/
def execLogic (k : BitVec 1) (d a b : BitVec 6) (f : BitVec 4) (h : BitVec 2) (s : State) : Host.Outcome State Fault Refusal :=
  laneAB (.logic k d a b f h) s a b fun x y => one (logicOp f.toNat x y)

/-- `shift` (R167); the funnel reads the pair at va. -/
def execShift (k : BitVec 1) (d a b : BitVec 6) (f : BitVec 4) (h : BitVec 2) (s : State) : Host.Outcome State Fault Refusal :=
  done (laneFixed (laneInfo (.shift k d a b f h)) s fun rd _ l =>
    one (shiftOp f.toNat (rd 0 a.toNat l) (rd 1 b.toNat l).toNat (if f = 5 then rd 0 (a.toNat + 1) l else 0)))

/-- `bfe` (R168). -/
def execBfe (k : BitVec 1) (d a b : BitVec 6) (f : BitVec 4) (h : BitVec 2) (s : State) : Host.Outcome State Fault Refusal :=
  laneAB (.bfe k d a b f h) s a b fun x y => one (extractField (f = 1) x y)

/-- `bfi` (R168). -/
def execBfi (k : BitVec 1) (d a b c : BitVec 6) (s : State) : Host.Outcome State Fault Refusal :=
  laneABC (.bfi k d a b c) s a b c fun x y z => one (insertField x y z)

/-- `bitc` (R168). -/
def execBitc (k : BitVec 1) (d a : BitVec 6) (f : BitVec 4) (h : BitVec 2) (s : State) : Host.Outcome State Fault Refusal :=
  laneA (.bitc k d a f h) s a fun x => one (bitCount f.toNat x)

/-- `isetp` (R169): n the condition, p the predicate written, s 1 for natural. -/
def execIsetp (k : BitVec 1) (n p : BitVec 3) (a b : BitVec 6) (nat : BitVec 1) (h : BitVec 2) (s : State) :
    Host.Outcome State Fault Refusal :=
  laneAB (.isetp k n p a b nat h) s a b fun x y => { p := some (p.toNat, intCompare n.toNat (nat = 1) x y) }

/-- `iaddi` (R163). -/
def execIaddi (k : BitVec 1) (d a : BitVec 6) (i : BitVec 12) (s : State) : Host.Outcome State Fault Refusal :=
  laneA (.iaddi k d a i) s a fun x => one (x + i.signExtend 32)

/-- `andi` (R166). -/
def execAndi (k : BitVec 1) (d a : BitVec 6) (i : BitVec 12) (s : State) : Host.Outcome State Fault Refusal :=
  laneA (.andi k d a i) s a fun x => one (x &&& i.setWidth 32)

/-- `ori` (R166). -/
def execOri (k : BitVec 1) (d a : BitVec 6) (i : BitVec 12) (s : State) : Host.Outcome State Fault Refusal :=
  laneA (.ori k d a i) s a fun x => one (x ||| i.setWidth 32)

/-- `xori` (R166). -/
def execXori (k : BitVec 1) (d a : BitVec 6) (i : BitVec 12) (s : State) : Host.Outcome State Fault Refusal :=
  laneA (.xori k d a i) s a fun x => one (x ^^^ i.setWidth 32)

/-- `shifti` (R167). -/
def execShifti (k : BitVec 1) (d a : BitVec 6) (f : BitVec 4) (n : BitVec 5) (s : State) : Host.Outcome State Fault Refusal :=
  laneA (.shifti k d a f n) s a fun x => one (shiftOp f.toNat x n.toNat 0)

/-- `dp4` (R165). -/
def execDp4 (k : BitVec 1) (d a b c : BitVec 6) (s : State) : Host.Outcome State Fault Refusal :=
  laneABC (.dp4 k d a b c) s a b c fun x y z => one (dotFour x y z)

/-- `sad` (R165). -/
def execSad (k : BitVec 1) (d a b c : BitVec 6) (s : State) : Host.Outcome State Fault Refusal :=
  laneABC (.sad k d a b c) s a b c fun x y z => one (absDiffAdd x y z)

/-- The two registers of a 64-bit result (R64). -/
def two (x : Nat) : List Word := [BitVec.ofNat 32 x, BitVec.ofNat 32 (x / 2 ^ 32)]

/-- `iadd64` (R163 on pairs). -/
def execIadd64 (k : BitVec 1) (d a b : BitVec 6) (f : BitVec 4) (h : BitVec 2) (s : State) : Host.Outcome State Fault Refusal :=
  done (laneFixed (laneInfo (.iadd64 k d a b f h)) s fun rd _ l =>
    let r := addSub 64 false f.toNat (Rd.pair rd 0 a.toNat l).toNat (Rd.pair rd 1 b.toNat l).toNat
    { v := two r.1, p := (carryDest f.toNat).map fun n => (n, r.2) })

end Sys2Proof.Machine
end

