-- ==== Sys2Proof/Machine/LaneMove.lean ====
section
/-!
DEFINITION. Lane moves, selection, cross-lane words, queues, indexed registers and names (10 R177 to R187).
-/
namespace Sys2Proof.Machine

/-- `mov` and its predicate forms (R179). -/
def execMov (k : BitVec 1) (d a : BitVec 6) (f : BitVec 4) (h : BitVec 2) (s : State) : Host.Outcome State Fault Refusal :=
  done (laneFixed (laneInfo (.mov k d a f h)) s (fun rd p l =>
    match f.toNat with
    | 0 => one (rd 0 a.toNat l)
    | 1 => one (if p l then 1 else 0)
    | _ => { p := some (d.toNat % 8, (rd 0 a.toNat l).getLsbD 0) }) (a.toNat % 8))

/-- `movi` (R179). -/
def execMovi (k : BitVec 1) (d : BitVec 6) (i : BitVec 18) (s : State) : Host.Outcome State Fault Refusal :=
  done (laneFixed (laneInfo (.movi k d i)) s fun _ _ _ => one (signImm i))

/-- `movhi` (R179); it reads its destination. -/
def execMovhi (k : BitVec 1) (d : BitVec 6) (i : BitVec 18) (s : State) : Host.Outcome State Fault Refusal :=
  done (laneFixed (laneInfo (.movhi k d i)) s fun rd _ l => one (highImm i (rd 0 d.toNat l)))

/-- `sel` (R179). -/
def execSel (k : BitVec 1) (d a b : BitVec 6) (p : BitVec 3) (s : State) : Host.Outcome State Fault Refusal :=
  done (laneFixed (laneInfo (.sel k d a b p)) s
    (fun rd t l => one (if t l then rd 0 a.toNat l else rd 1 b.toNat l)) p.toNat)

/-- The source lane of `xlane` (R180); none where it lies outside 0 to 31. -/
def sourceLane (f k l : Nat) : Option Nat :=
  match f with
  | 0 => some k
  | 1 => if k ≤ l then some (l - k) else none
  | 2 => if l + k ≤ 31 then some (l + k) else none
  | _ => some (l ^^^ k)

/-- `xlane` (R180). -/
def execXlane (k : BitVec 1) (d a b : BitVec 6) (f h : BitVec 2) (s : State) : Host.Outcome State Fault Refusal :=
  done (laneFixed (laneInfo (.xlane k d a b f h)) s fun rd _ l =>
    match sourceLane f.toNat ((rd 1 b.toNat l).toNat % 32) l with
    | some q => one (if s.cur.mask.getLsbD q then rd 0 a.toNat q else rd 0 a.toNat l)
    | none => one (rd 0 a.toNat l))

/-- What `vote` computes of a predicate over the mask (R181). -/
def voteOf (f : Nat) (m : Word) (t : Nat → Bool) : Word :=
  let ls := lanesOf m
  match f with
  | 0 => if ls.any t then 1 else 0
  | 1 => if ls.all t then 1 else 0
  | 2 => maskOf (ls.filter t)
  | _ => if ls.all t || ls.all (fun l => !t l) then 1 else 0

/-- `vote` (R181). -/
def execVote (k : BitVec 1) (d : BitVec 6) (p : BitVec 3) (f : BitVec 4) (h : BitVec 2) (s : State) :
    Host.Outcome State Fault Refusal :=
  done (laneFixed (laneInfo (.vote k d p f h)) s (fun _ t _ => one (voteOf f.toNat s.cur.mask t)) p.toNat)

/-- The reduction of `redux` (R182), coded as Table 7.4 codes it. -/
def reduceOp (f : Nat) (a b : Word) : Word :=
  match f with
  | 0 => a + b
  | 1 => minMax 0 a b
  | 2 => minMax 1 a b
  | 3 => a &&& b
  | 4 => a ||| b
  | 5 => a ^^^ b
  | 6 => minMax 2 a b
  | _ => minMax 3 a b

/-- A word that fills a return-queue slot (R182, R183): it waits for one (R46). -/
def pushRet (i : Instr) (s : State) (lat : Nat) (f : Rd → Word) : Host.Outcome State Fault Refusal :=
  match laneCheck s (laneInfo i) with
  | some cls => done (raiseAll s cls)
  | none =>
    if retFull s.grp then done (s.tick 1)
    else
      let (s, t) := issueLane s (laneInfo i)
      let e : RetEntry := { seq := s.cur.seq, value := f (rdOf s t), ready := t + lat }
      done { s with grp := { s.grp with ret := s.grp.ret ++ [e] }, free := s.free + 1 }

/-- `redux` (R182). -/
def execRedux (k : BitVec 1) (a : BitVec 6) (f : BitVec 4) (h : BitVec 2) (s : State) : Host.Outcome State Fault Refusal :=
  pushRet (.redux k a f h) s 8 fun rd =>
    match (lanesOf s.cur.mask).map (fun l => rd 0 a.toNat l) with
    | [] => 0
    | x :: r => r.foldl (reduceOp f.toNat) x

/-- `qpush` (R183). -/
def execQpush (k : BitVec 1) (a : BitVec 6) (h : BitVec 2) (s : State) : Host.Outcome State Fault Refusal :=
  pushRet (.qpush k a h) s 4 fun rd => rd 0 a.toNat (lowestLane s.cur.mask)

/-- The oldest value that lies ahead of a word in the forward queue (R44). -/
def valueAhead (g : Group) (seq : Nat) : Option (Nat × Word) :=
  g.fwd.findSome? fun e => match e with
    | .value q v => if q < seq then some (q, v) else none
    | .lane _ _ => none

/-- `qpop` (R184); QUEUE with no value ahead of it, then LOCKED (R396). -/
def execQpop (k : BitVec 1) (d : BitVec 6) (h : BitVec 2) (s : State) : Host.Outcome State Fault Refusal :=
  if !(laneInfo (.qpop k d h)).inAllocation s.grp.nregs then done (raiseAll s 0x02)
  else
    match valueAhead s.grp s.cur.seq with
    | none => done (raiseAll s 0x07)
    | some (q, v) => match laneCheck s (laneInfo (.qpop k d h)) with
    | some cls => done (raiseAll s cls)
    | none =>
      let taken (e : FwdEntry) : Bool := match e with
        | .value r _ => decide (r = q)
        | .lane _ _ => false
      let s' := s.modGrp fun g =>
        { g with fwd := removeFirst taken g.fwd,
                 popped := if g.speculative s.cur.seq then g.popped ++ [.value s.cur.seq q v] else g.popped }
      done (laneFixed (laneInfo (.qpop k d h)) s' fun _ _ _ => one v)

/-- The effective register of an indexed access (R57, R185). -/
def effective (x : Word) (i : BitVec 8) : Int := (bits x.toNat 15 8 : Int) + bits x.toNat 7 0 + i.toInt

/-- Whether it is within bounds (R57). -/
def inBounds (x : Word) (i : BitVec 8) (nregs : Nat) : Bool :=
  let e := effective x i
  decide ((bits x.toNat 15 8 : Int) ≤ e) && decide (e ≤ bits x.toNat 23 16) && decide (e < nregs)

/-- The fault of an indexed word (R389, R396): INDEX in the lanes out of bounds, LOCKED in others, the class that of the lowest lane. -/
def raiseIndex (s : State) (bad locked : List Nat) : State :=
  let m := maskOf (bad ++ locked)
  raise s { cur := s.cur, lanes := m, cls := if bad.contains (lowestLane m) then 0x03 else 0x1D }

/-- `ldx` (R185): with a lane out of bounds the word writes no lane (notes/assumptions/8.md). -/
def execLdx (k : BitVec 1) (d : BitVec 6) (x : BitVec 2) (i : BitVec 8) (s : State) : Host.Outcome State Fault Refusal :=
  let info := laneInfo (.ldx k d x i)
  if !info.inAllocation s.grp.nregs then done (raiseAll s 0x02)
  else
    let (s, t) := issueLane s info
    let xv (l : Nat) : Word := readX s.grp (t + 1) x.toNat l
    let lanes := lanesOf s.cur.mask
    let bad := lanes.filter fun l => !inBounds (xv l) i s.grp.nregs
    let locked := (laneCheck s info).isSome
    if bad.isEmpty && !locked then
      let out (l : Nat) : LaneOut := one (readV s.grp (t + 1) s.free (effective (xv l) i).toNat l)
      done { s with grp := (outWrites info s.cur.seq t lanes out).foldl Group.addPend s.grp, free := s.free + 1 }
    else done (raiseIndex s bad (if locked then lanes.filter fun l => !bad.contains l else []))

/-- `stx` (R185): the write of v[e] at t + 4; INDEX, then LOCKED (R258), per lane. -/
def execStx (k : BitVec 1) (d : BitVec 6) (x : BitVec 2) (i : BitVec 8) (s : State) : Host.Outcome State Fault Refusal :=
  let info := laneInfo (.stx k d x i)
  match laneCheck s info with
  | some cls => done (raiseAll s cls)
  | none =>
    let (s, t) := issueLane s info
    let e (l : Nat) : Nat := (effective (readX s.grp (t + 1) x.toNat l) i).toNat
    let lanes := lanesOf s.cur.mask
    let bad := lanes.filter fun l => !inBounds (readX s.grp (t + 1) x.toNat l) i s.grp.nregs
    let locked := lockedRegs s.team s.grp.gidx
    let stuck := lanes.filter fun l => !bad.contains l && locked.contains (e l)
    if bad.isEmpty then
      let cells := (lanes.filter fun l => !stuck.contains l).map fun l => (32 * e l + l, readV s.grp (t + 1) s.free d.toNat l)
      let s := { s with grp := s.grp.addPend { seq := s.cur.seq, due := some (t + 4), space := .v, cells := cells }, free := s.free + 1 }
      if stuck.isEmpty then done s else done (raiseIndex s [] stuck)
    else done (raiseIndex s bad stuck)

/-- `xset` (R186). -/
def execXset (k : BitVec 1) (x : BitVec 2) (a : BitVec 6) (f : BitVec 4) (h : BitVec 2) (s : State) :
    Host.Outcome State Fault Refusal :=
  let info := laneInfo (.xset k x a f h)
  match laneCheck s info with
  | some cls => done (raiseAll s cls)
  | none =>
    let (s, t) := issueLane s info
    let cells := (lanesOf s.cur.mask).map fun l => (32 * x.toNat + l, rdOf s t 0 a.toNat l)
    done { s with grp := s.grp.addPend { seq := s.cur.seq, due := some (t + 4), space := .x f.toNat, cells := cells }, free := s.free + 1 }

/-- A field of Table 10.2 for a lane. -/
def nameField (s : State) (f l : Nat) : Word :=
  BitVec.ofNat 32 (match f with
    | 0 => l
    | 1 => s.grp.gidx
    | 2 => s.team.tidx
    | 3 => s.team.launchId.toNat
    | 4 => s.team.tx
    | 5 => s.team.ty
    | 6 => s.team.tz
    | 7 => s.team.cidx
    | _ => s.team.midx)

/-- `rdid` (R187). -/
def execRdid (k : BitVec 1) (d : BitVec 6) (f : BitVec 4) (h : BitVec 2) (s : State) : Host.Outcome State Fault Refusal :=
  done (laneFixed (laneInfo (.rdid k d f h)) s fun _ _ l => one (nameField s f.toNat l))

end Sys2Proof.Machine
end

