-- ==== Sys2Proof/Machine/Fetch.lean ====
section
/-!
DEFINITION. Instruction fetch (05 R83, 06 R121, 23 R388, R394), breakpoints (18 R364, R365), the helm's service of a group (03 R43 to
R45, R50), the wide pipe's arbitration (03 R51, 16 R343), and the landing of results (03 R52, R53).
-/
namespace Sys2Proof.Machine

/-! ### Waits -/

/-- Whether the helm may execute the word the group stopped in front of. -/
def waitOver (s : State) (g : Group) : Bool :=
  match g.wait with
  | .ready => true
  | .passed => true
  | .bar b _ => barOpen g b
  | .cbar k _ => clusterOpen s k
  | .ring r empty n => ringReady s.team r empty n
  | .event => !s.team.events.isEmpty
  | .mwait m => !jointPending s m
  | .spop => match g.ret with | e :: _ => decide (e.ready < s.clock) && !g.speculative e.seq | [] => false
  | .operand rs => !rs.any (regPending g)
  | .sysreg => !g.sysWriting
  | .homeDie d _ => !(s.die d).inReset || g.homeGone
  | _ => false

/-- BARRIER_RELEASE_READY (R345): a released waiter becomes ready at its offset. -/
def execBarrierReleaseReady (s : State) : Host.Outcome State Fault Refusal :=
  done (match s.grp.wait with
    | .released t => (if s.clock < t then s.tick (t - s.clock) else s).modGrp fun g => { g with wait := .passed }
    | _ => s)

/-- Whether every group that a `yield` waits for has issued a run (R216); one that is gone is waited for no longer. -/
def Yield.answered (s : State) (y : Yield) : Bool :=
  y.others.all fun x =>
    match (s.groupsOf (x.1 / 16)).find? (fun g => g.gidx = x.1 % 16) with
    | some g => decide (g.pipeRun ≠ x.2)
    | none => true

/-- YIELD_EXPIRY (R216): the oldest `yield` of the group bars its run no longer, once the others have issued a run or 64 clocks have passed. -/
def execYieldExpiry (s : State) : Host.Outcome State Fault Refusal :=
  done (match s.grp.yielded with
    | y :: _ =>
      (if y.answered s || y.since + 64 ≤ s.clock then s else s.tick (y.since + 64 - s.clock)).modGrp fun g => { g with yielded := g.yielded.drop 1 }
    | [] => s)

/-! ### Fetch -/

/-- A word at a target as the launch sees it: as it stood at the launch's start (R121); of the hub's registers what stores give. -/
def codeWord (s : State) (t : Target) : Word :=
  let v := ((s.launch s.team.seqNo).map fun l => l.code).getD {}
  BitVec.ofNat 32 (match t with
    | .device pa => memRead v.mem pa 4
    | .hub pa => hubGet { s with hub := v.hub } (pa - hubBase) 4
    | .host a _ => memRead v.host a 4
    | .peer m pa => memRead (if m = fabId s then v.mem else (look v.peers m {}).mem) pa 4
    | .scratch k o => memRead (look v.arrays (2 * k) []) o 4
    | .opbuf k o => memRead (look v.arrays (2 * k + 1) []) o 4
    | .share _ _ => 0)

/-- A fetch of device memory goes through the L1, as a load does (R96, R101), and is ordered against no access (R121). -/
def fetchLine (s : State) (pa : Nat) (c : Caching) : State :=
  let core := s.team.core
  let ct := (s.core core).ctime
  (l1Load s core (pa / 128) (leaseLen s s.team.asid) c s.team.asid false).modCore core fun k => { k with ctime := ct }

/-- A fetch reaches its target: device memory through the L1; through a peer page of this module past it, at the line's home (R101, R354). -/
def fetchReach (s : State) (t : Target) (c : Caching) : State :=
  match t with
  | .device pa => fetchLine s pa c
  | .peer m pa =>
    if m = fabId s then
      reachRead (countRequest s (some s.team.core) (homeOf (pa / 128)) (pa / 128) false s.team.asid) (homeOf (pa / 128)) (pa / 128) bypass
    else s
  | _ => s

/-- What a fetch comes to: the word, or a state in which the helm does not go on. -/
inductive Fetched where
  | word (s : State) (w : Word)
  | ended (s : State)

/-- What an access to another module's page, or through a page that names this one, comes to for a fetch (R408, R409). -/
def fetchPeer (s : State) (t : Target) : State × Option Word :=
  match t with
  | .peer m pa =>
    if m = fabId s then (match inboundReason s pa with
      | some d => (refusal s pa d m, some (reason 3 0 d))
      | none => (s, none))
    else ({ s with free := s.free + 1 }, (packetEnd s.free).map Prod.fst)
  | _ => (s, none)

/-- A fetch fault of a PC (R388); a bad target is checked before any fetch from it. -/
def fetchFault (s : State) (c : Cur) (cls : Byte) (code : Word) (page : Option (DWord × Nat) := none) : Fetched :=
  let s := { s.modGrp (fun g => { g with homeGone := false, wait := .ready }) with cur := c }
  .ended ((raise s { cur := c, lanes := c.mask, cls := cls, faddr := c.pc, fcode := code, fetch := page.isNone && cls ≠ 0x15,
                     page := page }).tick 1)

/-- Fetches the word of a frontier entry (R83, R388, R402, R447); a child's bad first target is BRANCH (R218). -/
def fetchWord (s : State) (c : Cur) : Fetched :=
  if c.pc.toNat % 4 ≠ 0 || (!canonical c.pc && s.grp.nextSeq = 1) then fetchFault s c 0x15 0
  else
    let (s, r) := checkAccess s (.core s.team.core) s.team.asid s.team.priv s.team.seqNo c.pc 4 .fetch
    match verdict s .fetch 4 r with
    | .pend l => fetchFault s c clsXlate (reason 7 l 0) (some (c.pc, l))
    | .fail cls code => fetchFault s c cls code
    | .lost pa => .ended (lostReset s s.team.asid pa)
    | .walk d l =>
      if s.grp.homeGone then fetchFault s c clsXlate (reason 8 l 0)
      else .ended (match s.grp.wait with | .homeDie _ _ => s.tick 1 | _ => stopHelm s (.homeDie d s.clock))
    | .home d _ k =>
      if s.grp.homeGone || (s.die d).outOfService then fetchFault s c clsXlate (reason 8 k.level 0)
      else .ended (match s.grp.wait with | .homeDie _ _ => s.tick 1 | _ => stopHelm s (.homeDie d s.clock))
    | .ok t k =>
      match fetchPeer s t with
      | (s, some code) => fetchFault s c clsRemote code
      | (s, none) =>
      let s := match s.grp.wait with | .homeDie _ _ => s.modGrp fun g => { g with wait := .ready, homeGone := false } | _ => s
      .word (fetchReach s t k) (codeWord s t)

/-! ### Debug stops -/

/-- The lowest lane of a mask for which a breakpoint entry matches a fetch at a PC (R364, Table 18.6). -/
def breakLane (s : State) (b : BreakEntry) (e : FEntry) : Option Nat :=
  let n := s.name
  let bit (k : Nat) : Bool := b.ctl.getLsbD k
  if bit 0 && b.pc = e.pc && (!bit 1 || b.name.extractLsb' 32 24 = n.extractLsb' 32 24) &&
      (!bit 2 || b.name.extractLsb' 0 32 = n.extractLsb' 0 32) && (!bit 3 || b.name.extractLsb' 56 4 = n.extractLsb' 56 4) then
    (lanesOf e.mask).find? fun l => !bit 4 || l = bits b.ctl.toNat 9 5
  else none

/-- The lowest entry that matches, with its lane, as the debug block applies to a word fetched now (R363); none for the word at which the
group resumes (R365), and for a word whose fetch was before a wait. -/
def breakHit (s : State) (e : FEntry) : Option (Nat × Nat) :=
  if s.grp.passBreak = some e.pc || s.grp.wait ≠ .ready then none
  else
    let blk := debugAt s s.team.asid s.clock
    (List.range 8).findSome? fun k => (breakLane s (look blk.entries k {}) e).map fun l => (k, l)

/-- Nothing older than the next word is outstanding. -/
def allQuiet (g : Group) : Bool := !olderOutstanding g g.nextSeq && g.pendFault.isNone

/-- Whether the group stops in front of the next word because it has executed the one at which it resumed (R365). -/
def stepOver (s : State) : Bool := s.grp.stepping && s.grp.passBreak.isNone && s.grp.wait = .ready

/-- Whether a word that the group executes after RESUME is followed by a stop: STEP as it applies to that word (R363, R365). -/
def noteStep (s : State) : State :=
  if s.grp.stepping && s.grp.passBreak.isSome && s.grp.wait = .ready then
    s.modGrp fun g => { g with stepping := (debugAt s s.team.asid s.clock).step }
  else s

/-! ### The helm -/

/-- A lane control word that has not updated the frontier (Table 3.1): it is queued, or it has issued. -/
def controlPending (g : Group) : Bool :=
  g.ctl.isSome || g.fwd.any fun e => match e with
    | .lane c _ => (match decodeWord c.word with | some i => (laneInfo i).control | none => false)
    | .value _ _ => false

/-- Whether the next word stays in the run-ahead window (Table 3.1). -/
def windowOpen (g : Group) : Bool :=
  match nextLane g with
  | some (_, r) => decide (g.runNo ≤ r + 2)
  | none => true

/-- Whether a group may move at all: its team is neither about to be saved nor waits for a page, its core is not in reset. -/
def teamRuns (s : State) : Bool :=
  s.team.uid ≠ 0 && s.grp.live ≠ 0 && s.team.saving.isNone && s.team.pageWait.isNone &&
    !(s.die (dieOf s.team.core)).inReset

/-- Whether the helm may serve the executing group (R45, Table 3.1). -/
def helmReady (s : State) : Bool :=
  teamRuns s && waitOver s s.grp && s.grp.pendFault.isNone && s.grp.helmClk ≤ s.clock && !controlPending s.grp && windowOpen s.grp &&
    decide (s.grp.commit.length < 24)

/-- What the helm's service comes to: a uniform word to execute, a lane word that has been queued, or neither. -/
inductive Served where
  | uniform (s : State) (i : Instr)
  | lane (s : State) (i : Instr)
  | ended (s : State)

/-- A lane word enters the forward queue (R43, R50), REGISTER checked first (R396); a control word leaves the PC to its own effect. -/
def queueLane (s : State) (c : Cur) (i : Instr) : Served :=
  let info := laneInfo i
  if !info.inAllocation s.grp.nregs then .ended ((raise s { cur := c, lanes := c.mask, cls := 0x02 }).tick 1)
  else if 16 ≤ s.grp.fwd.length then .ended (s.tick 1)
  else
    let c := { c with clk := s.clock }
    .lane (s.modGrp fun g =>
      { (g.countWord c s.clock info.control) with
        fwd := g.fwd ++ [.lane c g.runNo],
        frontier := if info.control then g.frontier else moveLanes g.frontier c (c.pc + 4) }) i

/-- The helm's record of the group it served last in a team (R43): group `g` of team `t`. -/
def noteHelm (s : State) (t : Team) (g : Group) : State :=
  s.modTeam t.uid fun x => { x with lastHelm := put x.lastHelm g.quad g.gidx 16 }

/-- The helm serves the executing group: the stop after one word of R365, breakpoints, the fetch, UNASSIGNED, before which the run closes (R394). -/
def helmServe (s : State) : Served :=
  match topEntry s.grp.frontier with
  | none => .ended (s.tick 1)
  | some e =>
    let c : Cur := { pc := e.pc, mask := e.mask, prio := e.prio, handler := e.handler, seq := s.grp.nextSeq, clk := s.clock }
    if stepOver s then
      .ended (if allQuiet s.grp then (stopGroup s e.pc (lowestLane e.mask) 2 0 0).tick 1 else s.tick 1)
    else match breakHit s e with
      | some (k, l) => .ended (if allQuiet s.grp then (stopGroup s e.pc l 0 k 0).tick 1 else s.tick 1)
      | none =>
        match fetchWord (noteStep s) c with
        | .ended s => .ended s
        | .word s w =>
          let c := { c with word := w }
          let s := { s with cur := c }
          match decodeWord w with
          | none => .ended ((raise (s.modGrp fun g => g.closeRun s.clock) { cur := c, lanes := c.mask, cls := 0x01 }).tick 1)
          | some i => if w.getLsbD 31 then .uniform s i else queueLane s c i

/-- HELM_LANE_FETCH (R43): the helm appends the next word of the executing group, if it is a lane word. -/
def execHelmLaneFetch (s : State) : Host.Outcome State Fault Refusal :=
  done (if helmReady s then
      match helmServe s with
      | .lane t _ => (noteHelm t s.team s.grp).tick 1
      | .uniform _ _ => s
      | .ended s => s
    else s)

/-- BREAKPOINT_STOP (R364): the next word of the executing group matches an entry, and none below it. -/
def execBreakpointStop (entry : BitVec 3) (s : State) : Host.Outcome State Fault Refusal :=
  done (match topEntry s.grp.frontier with
    | some e => match breakHit s e with
      | some (k, l) => if k = entry.toNat && helmReady s && !stepOver s && allQuiet s.grp then stopGroup s e.pc l 0 k 0 else s
      | none => s
    | none => s)

/-! ### The wide pipe -/

/-- Whether the run of a hold was not known to end with the holding word at the hold's placing clock (R58): another word of the run has
followed, or the helm closed the run later. -/
def mayFollow (s : State) (h : Hold) : Bool :=
  decide (h.serves < 2) || match (s.groupsOf h.uid).find? fun g => g.gidx = h.gidx with
    | some g => match g.closed.find? fun c => c.1 = h.run with
      | some c => decide (h.from_ < c.2)
      | none => false
    | none => false

/-- The run that had the pipe has ended with its last read cycle (R58): its holds have been placed by then or never are, and lapse. -/
def endRun (s : State) (p : Pipe) : List Hold :=
  ((settleHolds (mayFollow s) p.lastRead p.holds).filter fun h => h.placed = some true).map fun h =>
    { h with until_ := some (min (h.until_.getD p.lastRead) p.lastRead) }

/-- A winner takes the pipe: its park is over, the holds of the run before it lapse, its AGE and URGENT are cleared (R52, R58, R343). -/
def grantRun (s : State) : State :=
  match nextLane s.grp with
  | none => s
  | some (_, run) =>
    let urgent := s.grp.urgent.isSome
    let holds := endRun s s.pipe
    let s := s.modGrp fun g => { g.landAll.clearAge with pipeRun := run }
    let s := s.modPipe fun p => { p with urgent := urgent, next := max s.clock p.next, holds := holds }
    { s with team := { s.team with lastWin := put s.team.lastWin s.grp.quad s.grp.gidx 16 } }

/-- Whether the machine stands at a group. -/
def State.executes (s : State) (t : Team) (g : Group) : Bool := s.team.uid = t.uid && s.grp.gidx = g.gidx && s.grp.live ≠ 0

/-- RUN_ARBITRATION (R343): the machine turns to the winner of a quadrant, and it takes the pipe. -/
def execRunArbitration (core quad : Nat) (s : State) : Host.Outcome State Fault Refusal :=
  done (match winner s core quad with
    | some (t, g) => grantRun (if s.executes t g then s else s.turnTo t.uid g.gidx)
    | none => s)

/-- AGE of the other eligible groups of the quadrant in the clock `clk` in which a lane word has issued (R343); a group that is not eligible has none,
one whose AGE reaches 256 sets URGENT. -/
def ageOthers (s : State) (clk core quad uid gidx : Nat) (urgentRun : Bool) : State :=
  let f (t : Team) (g : Group) : Group :=
    if t.core ≠ core || g.quad ≠ quad || g.live = 0 || (t.uid = uid && g.gidx = gidx) then g
    else if !eligible clk t g then g.clearAge
    else if urgentRun then g
    else { g with age := g.age + 1, urgent := if 256 ≤ g.age + 1 && g.urgent.isNone then some clk else g.urgent }
  { s with grp := f s.team s.grp, team := { s.team with groups := s.team.groups.map (f s.team) },
           teams := s.teams.map fun t : Team => { t with groups := t.groups.map (f t) } }

/-- AGE_URGENT (R343): every group of a quadrant whose AGE has reached 256 has URGENT. -/
def execAgeUrgent (core quad : Nat) (s : State) : Host.Outcome State Fault Refusal :=
  let f (t : Team) (g : Group) : Group :=
    if t.core = core && g.quad = quad && 256 ≤ g.age && g.urgent.isNone then { g with urgent := some s.clock } else g
  done { s with grp := f s.team s.grp, team := { s.team with groups := s.team.groups.map (f s.team) },
                teams := s.teams.map fun t : Team => { t with groups := t.groups.map (f t) } }

/-- Registers that cells of v, p or x lie in. -/
def cellRegs (cells : List (Nat × Word)) : Nat := (cells.map fun c => c.1 / 32).eraseDups.length

/-- Entries that speculative words of a group hold for results that memory has still to give, and for a j register (R384). -/
def Group.undoOwed (g : Group) : Nat :=
  ((g.held.filter fun h => g.speculative h.seq).map fun h => match h.load, h.lod, h.dest with
    | some f, _, some key => (h.seq, key / 32, lmRegs f)
    | none, some (l, _), _ => (h.seq, l.d, l.width)
    | none, none, some key => (h.seq, key / 32, 1)
    | _, _, _ => (h.seq, 0, 0)).eraseDups.foldl (fun n x => n + x.2.2) 0 +
  ((g.awaits.filter fun w => g.speculative w.cur.seq).map fun w => match w.kind with
    | .load f _ => lmRegs f
    | .atomic _ (some _) => 1
    | .lod l _ => l.width
    | _ => 0).sum +
  match g.ctl with
  | some c => if g.speculative c.cur.seq then 1 else 0
  | none => 0

/-- Entries of a quadrant's undo log that words of its groups hold (R384): of writes that have landed, of writes on their way, and of those that
have no value yet. -/
def undoUsed (s : State) (core quad : Nat) : Nat :=
  (groupsIn s core quad).foldl (fun n x => n + (x.2.undo.map fun u => cellRegs u.cells).sum +
    ((x.2.pend.filter fun w => x.2.speculative w.seq).map fun w => cellRegs w.cells).sum + x.2.undoOwed) 0

/-- How many registers a lane word will write (R384); a divergence word other than `lexit` writes one j register. -/
def undoNeed (g : Group) (c : Cur) (i : Instr) : Nat :=
  let carry (f : Nat) : Nat := if (carryDest f).isSome then 1 else 0
  (laneInfo i).width + match i with
    | .iadd _ _ _ _ f _ => carry f.toNat
    | .isub _ _ _ _ f _ => carry f.toNat
    | .iadd64 _ _ _ _ f _ => carry f.toNat
    | .isetp _ _ _ _ _ _ _ => 1
    | .fsetp _ _ _ _ _ _ _ => 1
    | .mov _ _ _ f _ => if 2 ≤ f.toNat then 1 else 0
    | .xset _ _ _ _ _ => 1
    | .bdiv _ _ _ _ _ => 1
    | .join _ _ => 1
    | .strike _ _ _ => 1
    | .callr _ _ _ _ _ => 1
    | .lret _ => 1
    | .stx _ _ x m => ((lanesOf c.mask).map fun l => effective (g.xreg x.toNat l) m).eraseDups.length
    | _ => 0

/-- Whether the undo log has room for a word (R384). -/
def undoRoom (s : State) (i : Instr) : Bool :=
  !s.grp.speculative s.cur.seq || undoUsed s s.team.core s.grp.quad + undoNeed s.grp s.cur i ≤ 48

/-- The lane word at the head of the executing group's queue, the pipe granted for it (R51); none where the pipe has nothing to do for the
group. -/
def pipeNext (s : State) : Option (State × Instr) :=
  match nextLane s.grp with
  | none => none
  | some (c, run) =>
    if !teamRuns s || faultBefore s.grp (c.seq + 1) then none
    else match decodeWord c.word with
      | none => none
      | some i =>
        if run = s.grp.pipeRun then some ({ s with cur := c }, i)
        else match winner s s.team.core s.grp.quad with
          | some (t, g) => if t.uid = s.team.uid && g.gidx = s.grp.gidx then some ({ grantRun s with cur := c }, i) else none
          | none => none

/-- Words that hold the pipe without issuing: `qpush` and `redux` without a return-queue slot (R46), and what strict mode waits for (R54). -/
def pipeWait (s : State) (i : Instr) : Bool := (retFull s.grp && fillsRet s.cur.word) || strictWait s i

/-- The lane word the executing group issues next. -/
def pipeServe (s : State) : Option (State × Instr) :=
  match pipeNext s with
  | some (t, i) => if pipeWait t i || !undoRoom t i || !(strictLate t i).isEmpty then none else some (t, i)
  | none => none

/-- A stale-read event (R54, KIND 2): the name of the group, the PC and mask of the word that waited, the register. -/
def staleRead (s : State) (c : Cur) (w : PendWrite) : State :=
  traceWrite s 2 2 0xFFFF (s.name.toNat + c.pc.toNat * 2 ^ 64 + c.mask.toNat * 2 ^ 128 + ((w.cells.head?.map fun c => c.1 / 32).getD 0) * 2 ^ 160)

/-- A word of strict mode waits for returns that have their slots (R54): it issues so late that it reads them, and the wait is recorded. -/
def strictDelay (s : State) (i : Instr) (w : PendWrite) : State :=
  let late := (strictLate s i).foldl (fun m x => max m x.2) 0
  let next := max s.clock s.pipe.next + late
  let s := staleRead (s.modPipe fun p => { p with next := next }) s.cur w
  s.countStalls s.team.core (next - late) late

/-- A word at the head that does not issue: it takes a bubble where the undo log has no room (R384), counted in stall class bank; otherwise its
group holds the pipe (R46, R54). -/
def pipeStall (s : State) : Option State :=
  match pipeNext s with
  | some (t, i) =>
    if pipeWait t i then
      some { (if strictWait t i then t.modGrp fun g => { g with strictAt := some t.cur.seq } else t) with cur := s.cur }
    else match strictLate t i with
    | x :: _ => some { strictDelay t i x.1 with cur := s.cur }
    | [] =>
    if undoRoom t i then none
    else
      let t := t.modPipe fun p => { p with next := max p.next t.clock + 1 }
      some ({ (t.modGrp fun g => g.countStall 1 1).countStalls t.team.core (t.pipe.next - 1) 1 with cur := s.cur }.tick (t.pipe.next - t.clock))
  | none => none

/-! ### Results land (R52, R53, R59) -/

/-- The clock in which a return is written: the first to come in which nothing has its bank's write slot (R59), after the registers of its word that
are on their way (R189). -/
def returnSlot (s : State) (g : Group) (w : PendWrite) : Nat :=
  let before := (g.pend.filter fun x => x.seq = w.seq && x.long).foldl (fun m x => max m (x.due.getD 0)) 0
  openSlot s.pipe w.bank (max s.clock before + 1)

/-- A return for a group of the executing group's quadrant gets its write slot (R59); the park does not end before it (R52). -/
def returnWrite (s : State) (t : Team) (g : Group) (w : PendWrite) : State :=
  let d := returnSlot s g w
  moveReturn (s.modPipe fun p => { p with returns := (p.returns.filter fun r => s.clock ≤ r.1) ++ [(d, w.bank)] }) t.uid g.gidx w d

/-- The oldest write that memory has returned and that has no write slot. -/
def nextReturn (g : Group) : Option PendWrite := g.pend.find? fun w => w.due.isNone && w.seq ≠ 0

/-- The returns of other groups of the quadrant that wait longer for the bank of one than it does (R59). -/
def olderReturns (s : State) (w : PendWrite) : List (Team × Group × PendWrite) :=
  sortBy (fun x => x.2.2.born) ((groupsIn s s.team.core s.grp.quad).flatMap fun x =>
    if x.1.uid = s.team.uid && x.2.gidx = s.grp.gidx then []
    else (x.2.pend.filter fun y => y.due.isNone && y.seq ≠ 0 && y.bank = w.bank && y.born < w.born).map fun y => (x.1, x.2, y))

/-- LOAD_RETURN (R59): the next write that memory has returned gets its slot, after those that wait longer for its bank. A word of strict mode that
waited for it reads no earlier (R54). -/
def execLoadReturn (s : State) : Host.Outcome State Fault Refusal :=
  done (match nextReturn s.grp with
    | none => s
    | some w =>
      let s := (olderReturns s w).foldl (fun s x => returnWrite s x.1 x.2.1 x.2.2) s
      let t := returnWrite s s.team s.grp w
      match pipeNext s, pipeNext t with
      | some (a, i), some (b, j) =>
        if strictWait a i && !strictWait b j then { strictDelay { t with cur := b.cur } j w with cur := s.cur } else t
      | _, _ => t)

/-- Whether the next word of the run that has the pipe may still read, before a clock, what a register holds now. -/
def readsBefore (s : State) (d : Nat) : Bool :=
  match nextLane s.grp with
  | some (c, r) => r = s.grp.pipeRun && decide (max s.pipe.next c.clk < d)
  | none => false

/-- RESULT_WRITEBACK (R53): the next write of the executing group lands at its clock; a word of the run that issues before it comes first. -/
def execResultWriteback (s : State) : Host.Outcome State Fault Refusal :=
  done (match s.grp.pend.findSome? fun w => w.due with
    | some d => if readsBefore s d then s else (if s.clock < d then s.tick (d - s.clock) else s).modGrp fun g => g.landTo d
    | none => s)

/-- RUN_PARK_END (R52): the last run of the executing group is fully issued; what memory has returned gets its slots, and the clock runs to the
end of the park. -/
def execRunParkEnd (s : State) : Host.Outcome State Fault Refusal :=
  done (if holdsPipe s.grp || s.grp.live = 0 then s
    else
      let s := (s.grp.pend.filter fun w => w.due.isNone && w.seq ≠ 0).foldl (fun s w => returnWrite s s.team s.grp w) s
      if s.grp.parkOpen then s
      else (if s.clock < s.grp.parkClk then s.tick (s.grp.parkClk - s.clock) else s).modGrp Group.landAll)

end Sys2Proof.Machine
end

