-- ==== Sys2Proof/Machine/Save.lean ====
section
/-!
DEFINITION. Saving and restoring teams (25 R423 to R434, 13 R282, 24 R403, 27 R461 to R463), and core dumps (24 R416). Where the payload tables name a
region's contents and no places in it, the places are the model's (DESIGN CHOICE, notes/assumptions/60.md).
-/
namespace Sys2Proof.Machine

/-! ### Payloads (Tables 25.2 to 25.4) -/

/-- A CRC-32C (Castagnoli) over bytes, reflected, as Table 13.14 names it. -/
def crcByte (c : Nat) (b : Byte) : Nat :=
  (List.range 8).foldl (fun x _ => if x % 2 = 1 then (x / 2) ^^^ 0x82F63B78 else x / 2) (c ^^^ b.toNat)
def crc32c (bs : List Byte) : Nat := bs.foldl crcByte 0xFFFFFFFF ^^^ 0xFFFFFFFF

/-- Writes the 32-bit cells of a map, cell k at o + 4k, below `n` cells. -/
def cellsOut (p : Memory) (o n : Nat) (m : Sparse Word) : Memory :=
  m.foldl (fun p e => if e.1 < n then memWrite p (o + 4 * e.1) 4 e.2.toNat else p) p

def cellsIn (p : Memory) (o n : Nat) : Sparse Word :=
  (List.range n).filterMap fun i =>
    let v := BitVec.ofNat 32 (memRead p (o + 4 * i) 4)
    if v = 0 then none else some (i, v)

/-- Copies a memory into a payload. -/
def bytesOut (p : Memory) (o : Nat) (m : Memory) : Memory := m.foldl (fun p c => memPut p (o + c.1) c.2) p

/-- The bytes of an area. -/
def bytesIn (p : Memory) (o n : Nat) : Memory := (p.filter fun c => o ≤ c.1 && c.1 < o + n).map fun c => (c.1 - o, c.2)

/-- A frontier entry's 16 bytes, its fields packed in the order of the table. -/
def entryOut (p : Memory) (o : Nat) (e : FEntry) : Memory :=
  memWrite (memWrite (memWrite p o 8 e.pc.toNat) (o + 8) 1 e.prio.toNat) (o + 9) 4 e.mask.toNat

def entryIn (p : Memory) (o : Nat) (handler : Bool) : Option FEntry :=
  let m := BitVec.ofNat 32 (memRead p (o + 9) 4)
  if m = 0 then none
  else some { pc := BitVec.ofNat 64 (memRead p o 8), prio := BitVec.ofNat 6 (memRead p (o + 8) 1), mask := m, handler := handler }

/-- A stall frame of 40 bytes: entry PC and eight counters. -/
def frameOut (p : Memory) (o : Nat) (f : StallFrame) : Memory :=
  (List.zip (List.range 8) f.counts).foldl (fun p x => memWrite p (o + 8 + 4 * x.1) 4 x.2.toNat) (memWrite p o 8 f.pc.toNat)

def frameIn (p : Memory) (o : Nat) : StallFrame :=
  { pc := BitVec.ofNat 64 (memRead p o 8), counts := (List.range 8).map fun k => BitVec.ofNat 32 (memRead p (o + 8 + 4 * k) 4) }

/-- Value entries of the forward queue. -/
def FwdEntry.value? : FwdEntry → Option (Nat × Word)
  | .value q v => some (q, v)
  | .lane _ _ => none

/-- QUEUES: an entry is 4 bytes of value and, at byte 4, a valid flag; of the return queue bit 0 says that the slot is reserved, bit 1 that its value is
available. -/
def queuesOut (p : Memory) (g : Group) (clk : Nat) : Memory :=
  let p := (List.zip (List.range 16) (g.fwd.filterMap FwdEntry.value?)).foldl (fun p x => memWrite p (0x8800 + 8 * x.1) 5 (x.2.2.toNat + 2 ^ 32)) p
  (List.zip (List.range 8) g.ret).foldl (fun p x =>
    memWrite p (0x8880 + 8 * x.1) 5 (x.2.value.toNat + 2 ^ 32 * (1 + if x.2.ready ≤ clk then 2 else 0))) p

/-- The queues from a payload; the places in program order are as saved. -/
def queuesIn (p : Memory) (g : Group) : Group :=
  let seqs := (g.fwd.filterMap FwdEntry.value?).map fun x => x.1
  { g with
    fwd := (List.range 16).filterMap fun k =>
      if memRead p (0x8804 + 8 * k) 1 = 0 then none else some (.value (seqs.getD k 0) (BitVec.ofNat 32 (memRead p (0x8800 + 8 * k) 4))),
    ret := (List.range 8).filterMap fun k =>
      if memRead p (0x8884 + 8 * k) 1 = 0 then none
      else some { seq := (g.ret[k]?.map fun r => r.seq).getD 0, value := BitVec.ofNat 32 (memRead p (0x8880 + 8 * k) 4), ready := 0 } }

def Rejoin.maskBits (r : Rejoin) : Nat := r.enrolled.toNat + 2 ^ 32 * r.arrived.toNat

/-- A group's payload (Table 25.2); a park record's 16 bytes hold RPC, RPRIO and KIND (0 join, 1 call) in the order of R200 (notes/assumptions/60.md). -/
def groupPayload (g : Group) (clk : Nat) : Memory :=
  let p := cellsOut [] 0 8192 g.v
  let p := (List.range 32).foldl (fun p l =>
    memWrite p (0x8000 + l) 1 ((List.range 7).foldl (fun n k => if (look g.p k 0).getLsbD l then n + 2 ^ k else n) 0)) p
  let p := cellsOut p 0x8020 128 g.x
  let p := cellsOut p 0x8400 64 g.s
  let p := memWrite p 0x8500 1 (g.c.toNat % 128)
  let p := memWrite p 0x8504 4 g.gang.toNat
  let p := memWrite p 0x8508 1 g.role.index
  let p := memWrite p 0x8509 1 g.gidx
  let p := memWrite p 0x850A 1 g.nregs
  let prog := g.frontier.filter fun e => !e.handler
  let p := (List.zip (List.range 8) prog).foldl (fun p x => entryOut p (0x8600 + 16 * x.1) x.2) p
  let p := match g.frontier.find? fun e => e.handler with
    | some e => entryOut p 0x8680 e
    | none => p
  let p := (List.range 8).foldl (fun p k => memWrite p (0x8690 + 8 * k) 8 (look g.j k {}).maskBits) p
  let p := (List.range 8).foldl (fun p k =>
    let r := look g.j k {}
    memWrite (memWrite (memWrite p (0x86D0 + 16 * k) 8 r.rpc.toNat) (0x86D8 + 16 * k) 1 r.rprio.toNat) (0x86D9 + 16 * k) 1
      (if r.kind = .call then 1 else 0)) p
  let p := (List.zip (List.range 4) g.frames).foldl (fun p x => memWrite p (0x8750 + x.1) 1 (0x80 + x.2.toNat)) p
  let p := queuesOut p g clk
  let r := g.fault
  let p := memWrite p 0x8C00 4 r.fstat.toNat
  let p := memWrite p 0x8C04 4 r.lanes.toNat
  let p := memWrite p 0x8C08 8 r.fpc.toNat
  let p := memWrite p 0x8C10 8 r.faddr.toNat
  let p := memWrite p 0x8C18 4 r.fword.toNat
  let p := memWrite p 0x8C1C 4 r.fcode.toNat
  let p := memWrite p 0x8C20 1 g.stall.length
  let p := memWrite p 0x8C21 1 (min 255 g.stallExtra)
  let p := (List.zip (List.range 4) g.stall.reverse).foldl (fun p x => frameOut p (0x8C28 + 40 * x.1) x.2) p
  let p := (List.range 16).foldl (fun p b =>
    let m := look g.bars b {}
    memWrite p (0x8CD0 + b) 1 (m.phase.toNat + 2 * m.held.toNat)) p
  match g.wait with
  | .stopped cause => memWrite p 0x8CE0 2 (1 + 256 * cause)
  | _ => p

/-- A record's 16 bytes (Table 13.3). -/
def recordOut (p : Memory) (o : Nat) (r : Record) : Memory :=
  memWrite p o 16 (r.tag.toNat + 2 ^ 32 * r.status.toNat + 2 ^ 48 * r.flags.toNat + 2 ^ 56 * r.unit.toNat + 2 ^ 64 * r.cookie.toNat +
    2 ^ 96 * r.count.toNat)

/-- The record from them; what else is known of it is as saved. -/
def recordIn (p : Memory) (o : Nat) (r : Record) : Record :=
  { r with
    tag := BitVec.ofNat 32 (memRead p o 4), status := BitVec.ofNat 16 (memRead p (o + 4) 2), flags := BitVec.ofNat 8 (memRead p (o + 6) 1),
    unit := BitVec.ofNat 8 (memRead p (o + 7) 1), cookie := BitVec.ofNat 32 (memRead p (o + 8) 4), count := BitVec.ofNat 32 (memRead p (o + 12) 4) }

/-- A ray's 52 bytes (Table 25.4). -/
def rayOut (p : Memory) (o batch : Nat) (r : Ray) : Memory :=
  let ckind := match r.callout with | some h => if h.hkind = 2 then 0 else 1 | none => 0
  let p := memWrite p o 1 batch
  let p := memWrite p (o + 1) 1 (r.kind + 4 * r.callout.isSome.toNat + 8 * ckind + 16 * r.cull.toNat + 32 * r.opaq.toNat)
  let p := memWrite p (o + 2) 1 r.mask.toNat
  let p := memWrite p (o + 3) 2 r.index
  let words := r.org ++ r.dir ++ [r.tmin.toNat, r.tmax.toNat]
  let p := (List.zip (List.range 8) words).foldl (fun p x => memWrite p (o + 5 + 4 * x.1) 4 x.2) p
  if r.kind = 2 then
    let p := (List.range 3).foldl (fun p k => memWrite p (o + 37 + 2 * k) 2 (r.contrib.getD k 0).toNat) p
    memWrite p (o + 43) 8 r.fbva.toNat
  else memWrite p (o + 37) 4 (min r.visits 0xFFFFFFFF)

/-- Index of a ray's batch among those saved with it. -/
def batchIndex (batches : List Command) (cmd : Nat) : Nat := batches.findIdx fun c => c.id = cmd

/-- The batch of a ray from its 52 bytes, and the fields that Table 25.4 names. -/
def rayIn (p : Memory) (o : Nat) (r : Ray) : Ray :=
  let b := memRead p (o + 1) 1
  let word (k : Nat) : Nat := memRead p (o + 5 + 4 * k) 4
  let r := { r with
    cull := bitAt b 4, opaq := bitAt b 5, mask := BitVec.ofNat 8 (memRead p (o + 2) 1), index := memRead p (o + 3) 2 % 2 ^ 13,
    org := (List.range 3).map word, dir := (List.range 3).map fun k => word (3 + k), tmin := BitVec.ofNat 32 (word 6), tmax := BitVec.ofNat 32 (word 7),
    callout := if bitAt b 2 then r.callout else none }
  if r.kind = 2 then
    { r with contrib := (List.range 3).map fun k => BitVec.ofNat 16 (memRead p (o + 37 + 2 * k) 2), fbva := BitVec.ofNat 64 (memRead p (o + 43) 8) }
  else { r with visits := memRead p (o + 37) 4 }

/-- CTRL in the order in which the table names its parts; the group list at 0x60 holds the group-in-team index and the group save slot of each group, 0xFFFF
where there is none. -/
def ctrlOut (s : State) (t : Team) : Memory :=
  let cl := s.clusters.find? fun c : Cluster => c.seqNo = t.seqNo && c.cidx = t.cidx
  let p := memWrite [] 0 4 t.launchId.toNat
  let p := memWrite p 4 4 t.tidx
  let p := memWrite p 8 4 t.midx
  let p := memWrite p 12 4 t.seqNo
  let p := memWrite p 0x10 8 (s.core t.core).ctime
  let p := memWrite p 0x18 8 t.cmdSeq.toNat
  let p := memWrite p 0x20 8 t.energy
  let p := memWrite p 0x28 8 t.energyFrac
  let p := memWrite p 0x30 4 t.promStat.toNat
  let p := memWrite p 0x34 4 t.promCnt.toNat
  let p := memWrite p 0x38 8 t.promClk.toNat
  let p := (List.range 8).foldl (fun p k => memWrite p (0x40 + 2 * k) 2 (look t.slots k 0)) p
  let p := memWrite p 0x50 4 (65536 * t.events.length)
  let p := (List.range 16).foldl (fun p k => memWrite p (0x60 + 2 * k) 2 (match t.groups[k]? with
    | some g => g.gidx + 256 * (16 * g.quad + g.gslot)
    | none => 0xFFFF)) p
  match cl with
  | some c => memWrite ((List.range 4).foldl (fun p k => memWrite p (0x80 + 2 * k) 2 (look c.arr k 0).toNat) p) 0x88 1 c.phase.toNat
  | none => p

/-- The group list of a payload: index and save slot. -/
def groupList (p : Memory) : List (Nat × Nat) :=
  (List.range 16).filterMap fun k =>
    let v := memRead p (0x60 + 2 * k) 2
    if v = 0xFFFF then none else some (v % 256, v / 256)

/-- MCTL of a tile: TYPE, threshold, scale record (all ones where it is empty), latch, chain; its locks follow from its log (R258). -/
def mctlOut (p : Memory) (o : Nat) (x : Tile) : Memory :=
  let p := memWrite p o 4 (match x.type with | .zero => 0 | .f32 => 1 | .wide => 2 | .i32 => 3)
  let p := memWrite p (o + 4) 4 x.threshold.toNat
  let p := memWrite p (o + 8) 8 (match x.scale with | some (r, c) => r + 2 ^ 32 * c | none => 2 ^ 64 - 1)
  let p := match x.latch with
    | some l => memWrite (memWrite p (o + 16) 12 (l.word.toNat + 2 ^ 32 * l.gang.toNat + 2 ^ 64 * l.arrived.toNat + 2 ^ 80)) (o + 32) 8 l.val.toNat
    | none => p
  match x.chain with
  | some c =>
    (List.zip (List.range 16) c.log).foldl (fun p w => memWrite p (o + 48 + 12 * w.1) 12 (w.2.word.toNat + 2 ^ 32 * w.2.gang.toNat + 2 ^ 64 * w.2.kpos))
      (memWrite p (o + 40) 3 (1 + 2 ^ 8 * c.checkpoint.toNat + 2 ^ 16 * c.log.length))
  | none => p

/-- The record of a tile from a payload; the operands that a logged word has captured are as saved. -/
def mctlIn (p : Memory) (o : Nat) (x : Tile) : Tile :=
  let sc := memRead p (o + 8) 8
  let word (k : Nat) : LogWord :=
    let old : LogWord := ((x.chain.bind fun c => c.log[k]?)).getD { word := 0, gang := 0, kpos := 0 }
    { old with word := BitVec.ofNat 32 (memRead p (o + 48 + 12 * k) 4), gang := BitVec.ofNat 32 (memRead p (o + 52 + 12 * k) 4),
               kpos := memRead p (o + 56 + 12 * k) 4 }
  { x with
    type := (match memRead p o 4 with | 0 => .zero | 1 => .f32 | 2 => .wide | _ => .i32),
    threshold := BitVec.ofNat 32 (memRead p (o + 4) 4),
    scale := if sc = 2 ^ 64 - 1 then none else some (sc % 2 ^ 32, sc / 2 ^ 32),
    latch := if memRead p (o + 26) 1 = 0 then none else some
      { word := BitVec.ofNat 32 (memRead p (o + 16) 4), gang := BitVec.ofNat 32 (memRead p (o + 20) 4), val := BitVec.ofNat 64 (memRead p (o + 32) 8),
        arrived := BitVec.ofNat 16 (memRead p (o + 24) 2) },
    chain := if memRead p (o + 40) 1 = 0 then none else some
      { log := (List.range (memRead p (o + 42) 1)).map word, checkpoint := memRead p (o + 41) 1 ≠ 0 } }

/-- BATCH of a traversal batch: tag, stamped tag, rays outstanding, descriptor. -/
def batchOut (p : Memory) (o : Nat) (c : Command) : Memory :=
  memWrite (memWrite p o 8 (c.tag.toNat + 2 ^ 32 * c.stamp + 2 ^ 48 * c.outstanding)) (o + 8) 32 (ofLeBytes c.desc)

def batchIn (p : Memory) (o : Nat) (c : Command) : Command :=
  { c with tag := BitVec.ofNat 32 (memRead p o 4), stamp := memRead p (o + 4) 2, outstanding := memRead p (o + 6) 2,
           desc := leBytes 32 (memRead p (o + 8) 32) }

/-- A team's payload (Table 25.3, R463). -/
def teamPayload (s : State) (t : Team) (batches : List Command) (rays : List Ray) : Memory :=
  let p := ctrlOut s t
  let p := (List.range 16).foldl (fun p b =>
    let x := look t.bars b {}
    memWrite p (0x400 + 8 * b) 8 (x.expect.toNat + 2 ^ 16 * x.arrived.toNat + 2 ^ 32 * x.phase.toNat)) p
  let p := (List.range 16).foldl (fun p n =>
    let r := look t.rings n {}
    memWrite (memWrite p (0x480 + 8 * n) 8 r.full.toNat) (0x500 + 8 * n) 8 r.ph.toNat) p
  let p := (List.zip (List.range 64) t.events).foldl (fun p x => recordOut p (0x800 + 16 * x.1) x.2) p
  let p := (List.range 8).foldl (fun p k => mctlOut p (0xC00 + 256 * k) (look t.tiles k {})) p
  let p := (List.range 16).foldl (fun p n =>
    let r := look t.resv n {}
    memWrite (memWrite (memWrite p (0x1400 + 24 * n) 8 r.w0.toNat) (0x1408 + 24 * n) 8 r.w1.toNat) (0x1410 + 24 * n) 8
      (r.kpos + 2 ^ 32 * r.held.toNat)) p
  let p := (List.zip (List.range 16) batches).foldl (fun p x => batchOut p (0x1600 + 64 * x.1) x.2) p
  let p := (List.range 8).foldl (fun p k =>
    let x := look t.tiles k {}
    let half (o : Nat) (m : Sparse Half) (p : Memory) : Memory := m.foldl (fun p e => memWrite p (o + 2 * e.1) 2 e.2.toNat) p
    let p := half (0x1E00 + 128 * k) x.ckBounds (half (0x1A00 + 128 * k) x.bounds p)
    cellsOut (cellsOut p (0x2200 + 16384 * k) 4096 x.elems) (0x22200 + 16384 * k) 4096 x.plane) p
  let p := bytesOut p 0x42200 t.ob
  let p := bytesOut p 0x82200 t.scratch
  (List.zip (List.range 1024) rays).foldl (fun p x => rayOut p (0xD2200 + 52 * x.1) (batchIndex batches x.2.cmd) x.2) p

/-- What a restore takes from a group's payload; the rest is as saved. -/
def groupOf (p : Memory) (g : Group) : Group :=
  let fs := memRead p 0x8C00 4
  { g with
    trail := [], closed := [], yielded := [], flight := [], undo := [], age := 0, urgent := none, parkClk := 0,
    v := cellsIn p 0 (32 * g.nregs),
    p := (List.range 7).filterMap fun k =>
      let m := maskWhere fun l => (memByte p (0x8000 + l)).getLsbD k
      if m = 0 then none else some (k, m),
    x := cellsIn p 0x8020 128,
    frames := (List.range 4).filterMap fun k =>
      let b := memRead p (0x8750 + k) 1
      if b = 0 then none else some (BitVec.ofNat 3 b),
    fwd := (queuesIn p g).fwd,
    ret := (queuesIn p g).ret,
    stall := ((List.range (min 4 (memRead p 0x8C20 1))).map fun k => frameIn p (0x8C28 + 40 * k)).reverse,
    stallExtra := if memRead p 0x8C21 1 = 255 then g.stallExtra else memRead p 0x8C21 1,
    wait := (match g.wait with
      | .stopped _ => if memRead p 0x8CE0 1 = 0 then .ready else .stopped (memRead p 0x8CE1 1)
      | w => w),
    s := cellsIn p 0x8400 64,
    c := BitVec.ofNat 8 (memRead p 0x8500 1 % 128),
    gang := BitVec.ofNat 32 (memRead p 0x8504 4),
    frontier := ((List.range 9).filterMap fun k => entryIn p (0x8600 + 16 * k) (decide (k = 8))),
    j := (List.range 8).foldl (fun j k => change j k {} fun r : Rejoin =>
      { r with enrolled := BitVec.ofNat 32 (memRead p (0x8690 + 8 * k) 4), arrived := BitVec.ofNat 32 (memRead p (0x8694 + 8 * k) 4),
               rpc := BitVec.ofNat 64 (memRead p (0x86D0 + 16 * k) 8), rprio := BitVec.ofNat 6 (memRead p (0x86D8 + 16 * k) 1),
               kind := if memRead p (0x86D9 + 16 * k) 1 = 0 then .join else .call }) g.j,
    fault := { cls := BitVec.ofNat 8 fs, prio := BitVec.ofNat 6 (fs / 256), fetch := bitAt fs 14, defer := bitAt fs 15,
               tile := BitVec.ofNat 3 (fs / 65536), valid := bitAt fs 19, lanes := BitVec.ofNat 32 (memRead p 0x8C04 4),
               fpc := BitVec.ofNat 64 (memRead p 0x8C08 8), faddr := BitVec.ofNat 64 (memRead p 0x8C10 8),
               fword := BitVec.ofNat 32 (memRead p 0x8C18 4), fcode := BitVec.ofNat 32 (memRead p 0x8C1C 4) },
    bars := (List.range 16).foldl (fun m b =>
      let x := memByte p (0x8CD0 + b)
      put m b { phase := x.getLsbD 0, held := x.getLsbD 1 } {}) [] }

/-- What a restore takes from a team's payload. -/
def teamOfPayload (p : Memory) (t : Team) : Team :=
  let half (o : Nat) : Sparse Half := (List.range 64).filterMap fun i =>
    let v := BitVec.ofNat 16 (memRead p (o + 2 * i) 2)
    if v = 0 then none else some (i, v)
  { t with
    cmdSeq := BitVec.ofNat 16 (memRead p 0x18 2),
    energy := memRead p 0x20 8,
    energyFrac := memRead p 0x28 8,
    promStat := BitVec.ofNat 8 (memRead p 0x30 1),
    promCnt := BitVec.ofNat 32 (memRead p 0x34 4),
    promClk := BitVec.ofNat 64 (memRead p 0x38 8),
    slots := (List.range 8).foldl (fun m k => put m k (memRead p (0x40 + 2 * k) 2) 0) t.slots,
    bars := (List.range 16).foldl (fun m b =>
      put m b { expect := BitVec.ofNat 16 (memRead p (0x400 + 8 * b) 2), arrived := BitVec.ofNat 16 (memRead p (0x402 + 8 * b) 2),
                phase := (memByte p (0x404 + 8 * b)).getLsbD 0 } {}) [],
    rings := (List.range 16).foldl (fun m n => change m n {} fun r : Ring =>
      { r with full := BitVec.ofNat 64 (memRead p (0x480 + 8 * n) 8), ph := BitVec.ofNat 64 (memRead p (0x500 + 8 * n) 8) }) t.rings,
    events := (List.range (memRead p 0x52 2)).map fun k => recordIn p (0x800 + 16 * k) (t.events.getD k { tag := 0 }),
    resv := (List.range 16).foldl (fun m n => change m n {} fun r : Reservation =>
      { r with w0 := BitVec.ofNat 64 (memRead p (0x1400 + 24 * n) 8), w1 := BitVec.ofNat 64 (memRead p (0x1408 + 24 * n) 8),
               kpos := memRead p (0x1410 + 24 * n) 4, held := memRead p (0x1414 + 24 * n) 1 ≠ 0 }) t.resv,
    tiles := (List.range 8).foldl (fun m k => change m k {} fun x : Tile =>
      let x := mctlIn p (0xC00 + 256 * k) x
      { x with elems := cellsIn p (0x2200 + 16384 * k) 4096, plane := cellsIn p (0x22200 + 16384 * k) 4096,
               bounds := half (0x1A00 + 128 * k), ckBounds := half (0x1E00 + 128 * k) }) t.tiles,
    ob := bytesIn p 0x42200 t.obSize,
    scratch := bytesIn p 0x82200 t.scratchSize }

/-! ### Segments (Table 13.14) -/

def teamSegs : Nat := 224
def groupSegs : Nat := 10

/-- VA of a team slot, and of a group slot (R282). -/
def teamSlotVa (area : DWord) (t : Nat) : DWord := area + BitVec.ofNat 64 (t * 896 * 1024)
def groupSlotVa (area : DWord) (g : Nat) : DWord := area + BitVec.ofNat 64 (14336 * 1024 + g * 40 * 1024)

/-- Segment k of a payload. -/
def segment (p : Memory) (k : Nat) (saveId : Word) (kind : Nat) : List Byte :=
  let head := leBytes 4 k ++ leBytes 4 saveId.toNat
  let tail := leBytes 2 4080 ++ leBytes 2 kind ++ (List.range 4080).map fun i => memByte p (4080 * k + i)
  head ++ leBytes 4 (crc32c (head ++ tail)) ++ tail

/-- Whether a segment is what R433 wants. -/
def segOk (b : List Byte) (k : Nat) (saveId kind : Nat) : Bool :=
  let f (o n : Nat) : Nat := ofLeBytes ((b.drop o).take n)
  f 8 4 = crc32c (b.take 8 ++ b.drop 12) && f 0 4 = k && f 14 2 = kind && f 12 2 = 4080 && f 4 4 = saveId

/-- The context DMA writes bytes: device memory or a host window, a host write being visible at once. -/
def dmaWrite (s : State) (e : Agent) (va : DWord) (bs : List Byte) : State × Option EngStop :=
  let (s, cs, stop) := engMap s e va bs.length .write deviceOrHost
  match stop with
  | some x => (s, some x)
  | none =>
    (cs.foldl (fun s c => match c.target with
      | .host a _ =>
        let s := flushHost s fun w => overlaps a c.len w.addr w.data.length
        let s := noteCode s (some e.launch) true a c.len
        { s with hostMem := memWrite s.hostMem a c.len (ofLeBytes ((bs.drop c.off).take c.len)) }
      | _ => writeChunk s e c ((bs.drop c.off).take c.len)) s, none)

/-- It reads bytes. -/
def dmaRead (s : State) (e : Agent) (va : DWord) (n : Nat) : State × List Byte × Option EngStop :=
  let (s, cs, stop) := engMap s e va n .read deviceOrHost
  match stop with
  | some x => (s, [], some x)
  | none => let (s, bs) := readChunks s e cs; (s, bs, none)

/-- Writes pieces until one is stopped: the state, the pieces written, the stop. -/
def dmaWriteAll (e : Agent) : List (DWord × List Byte) → State → Nat → State × Nat × Option EngStop
  | [], s, n => (s, n, none)
  | (va, bs) :: rest, s, n =>
    match dmaWrite s e va bs with
    | (s, some x) => (s, n, some x)
    | (s, none) => dmaWriteAll e rest s (n + 1)

/-! ### Settling a team (R423) -/

/-- One more thing the group's older work can still do: a held access, a memory or control word that waited for older ones, a result, a retirement. A
command stays undelivered. -/
def settleOnce (s : State) : State :=
  match heldReady s s.grp with
  | some h => performHeld (s.modGrp fun g => { g with held := removeFirst (· = h) g.held }) h
  | none =>
    let s := returnResult (settleOlder s)
    match s.grp.commit with
    | [] => s
    | e :: _ => match e.effect with
      | .command _ _ _ _ _ _ => s
      | e => let (t, gone) := retireHead s; if gone && takesClock e then t.tick 1 else t

/-- The oldest word of a group that has not completed. -/
def cutWord (g : Group) : Option Cur :=
  let lanes := g.fwd.filterMap fun e => match e with | .lane c _ => some c | .value _ _ => none
  let all := lanes ++ g.commit.map (fun e => e.cur) ++ g.awaits.map (fun w => w.cur) ++ (g.ctl.map fun c => c.cur).toList ++
    (g.pendFault.map fun f => f.cur).toList
  (sortBy (fun c : Cur => c.seq) all).head?

/-- The issued words of the group pass their fault points. -/
def passFlight (s : State) : State :=
  let last := s.grp.flight.foldl (fun t f => max t f.2) s.clock
  if last = s.clock then s else s.tick (last - s.clock)

/-- What a wait becomes: a barrier not yet released and a stop stay, a word whose wait is over counts as completed, and every other
word executes again (R423, R463). -/
def settleWait (g : Group) : Group :=
  let past : Group :=
    match topEntry g.frontier with
    | some e => { g with frontier := addEntry (removeLanes g.frontier e.mask) { e with pc := e.pc + 4 }, wait := .ready }
    | none => { g with wait := .ready }
  match g.wait with
  | .bar _ _ => g
  | .cbar _ _ => g
  | .stopped _ => g
  | .released _ => past
  | .passed => past
  | _ => { g with wait := .ready }

/-- The executing group is settled and rolled back to the oldest word it has not completed: of a word with a fault, the lanes that passed their checks have
had their effects and stand behind it, the others execute it again; where the frontier has no room for both, the fault stays pending. -/
def settleFocus (s : State) : State :=
  let s := { s with commands := s.commands.filter fun c : Command =>
    !(c.state = .delivered && c.uid = s.team.uid && c.gidx = s.grp.gidx) }
  let s := passFlight s
  let s := (List.range (64 + 40 * (s.grp.held.length + s.grp.awaits.length))).foldl (fun s _ => settleOnce s) s
  if s.grp.live = 0 then s
  else
    let s := s.modGrp Group.landAll
    match cutWord s.grp with
    | none => s.modGrp settleWait
    | some c =>
      let fault := s.grp.pendFault.filter fun f => f.cur.seq = c.seq
      let again := match fault with | some f => f.lanes &&& c.mask | none => c.mask
      let s := discardYounger s c.seq c.mask
      let e : FEntry := { pc := c.pc, prio := c.prio, mask := again, handler := c.handler }
      let past : FEntry := { pc := c.pc + 4, prio := c.prio, mask := c.mask &&& ~~~again, handler := c.handler }
      let fr := addEntry (removeLanes s.grp.frontier c.mask) past
      if fault.isSome && 8 < programEntries (addEntry fr e) then
        s.modGrp fun g => { g with frontier := addEntry fr { past with mask := again }, pendFault := fault }
      else s.modGrp fun g => { g.unpass c with frontier := addEntry fr e, awaits := g.awaits.filter fun w => w.cur.seq ≠ c.seq }

/-- Every group of a team is settled, in quadrant order (R221, R228). -/
def settleGroups (s : State) (uid : Nat) : State :=
  ((sortBy (fun g : Group => 16 * g.quad + g.gidx) (s.groupsOf uid)).map fun g => g.gidx).foldl (fun s g => settleFocus (s.turnTo uid g)) s

/-- The executing group of before comes back into focus, if it is still there. -/
def refocus (s : State) (uid gidx : Nat) : State := if uid = 0 then s else s.turnTo uid gidx

/-! ### Saving (R423 to R432) -/

/-- The members of a team's cluster, in member order. -/
def membersOf (s : State) (t : Team) : List Team :=
  sortBy (fun u : Team => u.midx) (s.allTeams.filter fun u => u.seqNo = t.seqNo && u.cidx = t.cidx)

/-- The traversal batches of a team that have not ended. -/
def liveBatches (s : State) (uid : Nat) : List Command :=
  s.commands.filter fun c => c.uid = uid && c.major = 0x3A && c.fn ≤ 2 && c.state ≠ .finished && c.state ≠ .delivered

/-- Whether a ray is quiescent (R425), or its command has not started, or it has no place in its unit yet. -/
def rayQuiet (s : State) (r : Ray) : Bool :=
  match s.cmd r.cmd with
  | some c =>
    c.state = .queued || c.state = .delivered || !hasPlace s r || r.callout.isSome ||
      (!r.done && ((r.todo.isEmpty && !r.parked.isEmpty) || budgetSpent s r))
  | none => true

/-- Whether a command reads or writes the scratchpad or the operand buffer of its team. -/
def usesArrays (c : Command) : Bool :=
  match c.engine with
  | .copy _ => c.fn ≠ 8
  | .gather _ _ => true
  | _ => false

/-- Whether a member can be written now: its matrix words are complete, its rays quiet, no group of it waits for another module or a
die or has an event to take, and no copy or gather of it still works on its arrays; one that cannot start, since its team's event queue is full, and what
of one an open chain locks go on once the team has been restored (R424). -/
def memberQuiet (s : State) (t : Team) : Bool :=
  t.words.isEmpty && (s.rays.filter fun r => r.uid = t.uid).all (rayQuiet s) &&
    (s.groupsOf t.uid).all (fun g => (ripeFault g).isNone && g.awaits.all fun w => w.since.isNone) &&
    s.commands.all fun c => c.uid ≠ t.uid || !usesArrays c || c.state = .finished || c.state = .delivered || (c.state = .queued && recordHeld s c) || !c.rest.isEmpty

/-- The save slots of a group and the bytes of its segments. -/
def slotPieces (va : DWord) (n : Nat) (p : Memory) (saveId : Word) (kind : Nat) : List (DWord × List Byte) :=
  (List.range n).map fun k => (va + BitVec.ofNat 64 (4096 * k), segment p k saveId kind)

/-- The team as its image holds it: every group a member of its list. -/
def wholeTeam (s : State) (t : Team) : Team :=
  { t with groups := s.groupsOf t.uid, saving := none, pageWait := none, pageRetry := false, saveWait := none }

/-- The result record of a ray that has accepted a candidate holds it (R427); a write that fails leaves it. -/
def keepHit (s : State) (c : Command) (r : Ray) : State :=
  if r.kind = 2 || r.callout.isSome then s
  else match r.hit with
    | some h => (match sceneWrite (travAgent c) (resultVa c r.index) (resultBytes r (some h)) s with
      | .ok (_, s) => s
      | .error _ => s)
    | none => s

/-- The SAVEID, the pieces and the record of one member; `area` is the save area of its core. -/
def memberSave (s : State) (t : Team) (area : DWord) (va : Option DWord) : State × List (DWord × List Byte) × SavedTeam :=
  let s := settleCtime s t.core
  let id := s.saveCount + 1
  let img := wholeTeam s t
  let batches := liveBatches s t.uid
  let rays := s.rays.filter fun r => batches.any fun c => c.id = r.cmd
  let s := rays.foldl (fun s r => match batches.find? fun c => c.id = r.cmd with | some c => keepHit s c r | none => s) s
  let team := slotPieces (teamSlotVa area t.tslot) teamSegs (teamPayload s img batches rays) id 1
  let groups := img.groups.flatMap fun g => slotPieces (groupSlotVa area (16 * g.quad + g.gslot)) groupSegs (groupPayload g s.clock) id 0
  let v : SavedTeam := { uid := t.uid, asid := t.asid, seqNo := t.seqNo, tidx := t.tidx, launchId := t.launchId, core := t.core,
                         tslot := t.tslot, area := area, saveId := id, ctime := (s.core t.core).ctime,
                         groups := img.groups.map fun g => (g.quad, g.gslot), image := img, va := va, batches := batches, rays := rays }
  ({ s with saveCount := id }, team ++ groups, v)

/-- The slots of a saved team are freed; what its image holds leaves the machine. -/
def removeSaved (s : State) (v : SavedTeam) : State :=
  let focus := s.team.uid = v.uid
  let gone (c : Command) : Bool := v.batches.any fun b => b.id = c.id
  { s with
    grp := if focus then {} else s.grp,
    team := if focus then {} else s.team,
    teams := s.teams.filter (fun t : Team => t.uid ≠ v.uid),
    commands := s.commands.filter (fun c : Command => !gone c),
    rays := s.rays.filter (fun r : Ray => !v.batches.any fun b => b.id = r.cmd),
    saved := s.saved ++ [v] }

def State.modSaved (s : State) (uid : Nat) (f : SavedTeam → SavedTeam) : State :=
  { s with saved := s.saved.map fun v : SavedTeam => if v.uid = uid then f v else v }

/-- Who the context DMA writes for: a command, or a team's own page request. -/
def saveAgent (s : State) (t : Team) (c : Option Command) : Agent :=
  match c with
  | some c => agentOf c 8
  | none =>
    { unit := .die (dieOf t.core), asid := t.asid, priv := (ctxOf s t.asid).priv, launch := t.seqNo, uid := t.uid, gidx := 0,
      name := nameOf t.tidx t.launchId 0, path := 8 }

/-- The cores of an element of a KIND and ID of Table 26.8. -/
def spareCores (kind ident : Nat) : List Nat :=
  match kind with
  | 1 => [ident % 768]
  | 10 => if ident < 8 then (List.range 96).map fun k => 96 * ident + k else []
  | _ => []

/-- The save is abandoned (R423): `n` segments are written, the next one at `seg` cannot be. A core that was to be drained stays in service, and so does its
element (R449; DESIGN CHOICE, notes/assumptions/97.md). -/
def abandonSave (s : State) (t : Team) (cause : SaveCause) (cmd : Option Command) (e : Agent) (x : EngStop) (n : Nat) (seg : DWord) : State :=
  let f (wait : Option DWord) (u : Team) : Team :=
    if u.uid ≠ 0 && u.seqNo = t.seqNo && u.cidx = t.cidx then { u with saving := none, saveWait := none, pageWait := wait } else u
  let all (s : State) (wait : Option DWord) : State := { s with team := f wait s.team, teams := s.teams.map (f wait) }
  match cause, cmd with
  | .page va, _ =>
    let s := all s (some va)
    match x with
    | .fail cls code _ _ => engEntry s e cls code seg
    | .lost _ _ => engEntry s e 0 0 seg
    | _ => s
  | .command _, some c => stopCmd (all s none) c e x n
  | .command _, none => all s none
  | .spare, _ =>
    let ds := (membersOf s t).map fun u => u.core
    let s := all s none
    let s := { ds.foldl (fun s c => s.modCore c fun x => { x with draining := false }) s with
      sparing := s.sparing.filter fun p => !(spareCores p.1 p.2.1).any ds.contains }
    match x with
    | .fail cls code _ _ => engEntry s e cls code seg
    | .lost _ _ => engEntry s e 0 0 seg
    | _ => s

/-- TEAM_SAVE (R423): a team that is about to be saved is settled, and it is written once it is quiet; a save whose writes wait begins anew with the same
SAVEID (R432). -/
def teamSave (s : State) (core slot : Nat) : State :=
  match s.allTeams.find? fun t => t.core = core && t.tslot = slot && t.saving.isSome with
  | none => s
  | some t =>
    match t.saving with
    | none => s
    | some cause =>
      let ms := membersOf s t
      if !ms.all (memberQuiet s) || (t.saveWait.isSome && !t.pageRetry) then s
      else
        let focus := (s.team.uid, s.grp.gidx)
        let s := ms.foldl (fun s u => settleGroups s u.uid) s
        if !(membersOf s t).all (memberQuiet s) then refocus s focus.1 focus.2 else
        let cmd := match cause with | .command id => s.cmd id | _ => none
        match s.teamOf t.uid with
        | none => match cmd with
          | some c => finishCmd s c.id 0xE 0
          | none => s
        | some t =>
          let e := saveAgent s t cmd
          let base := match cause, cmd with
            | .command _, some c => BitVec.ofNat 64 (16 * (c.opa.toNat / 16))
            | _, _ => (ctxOf s t.asid).saveBase + BitVec.ofNat 64 (t.core * areaBytes)
          let home := match cause, cmd with
            | .command _, some c => bits c.opb.toNat 9 0
            | _, _ => t.core
          let area (u : Team) : DWord := base + BitVec.ofNat 64 (u.core * areaBytes) - BitVec.ofNat 64 (home * areaBytes)
          let va := match cause with | .page va => some va | _ => none
          let count := s.saveCount
          let (s1, pieces, vs) := (membersOf s t).foldl (fun acc u =>
            let (s, l, vs) : State × List (DWord × List Byte) × List SavedTeam := acc
            let (s, m, v) := memberSave s u (area u) va
            (s, l ++ m, vs ++ [v])) (s, [], [])
          match dmaWriteAll e pieces s1 0 with
          | (s, n, none) =>
            let s := vs.foldl removeSaved s
            let s := if cause = .spare then vs.foldl (fun s v => s.modSaved v.uid fun v => { v with restoring := some none }) s else s
            let s := match cmd with
              | some c => finishCmd s c.id 0 n
              | none => s
            refocus s focus.1 focus.2
          | (s, _, some (.pend pva l)) =>
            let s := if t.saveWait = some pva then s
              else match cmd with
                | some c => if c.pages.contains (pva.toNat / 65536) then s else
                    (engPage s e pva l).modCmd c.id fun c => { c with pages := pva.toNat / 65536 :: c.pages }
                | none => engPage s e pva l
            let s := s.modTeam t.uid fun u => { u with saveWait := some pva, pageRetry := false }
            refocus { s with saveCount := count } focus.1 focus.2
          | (s, _, some (.home hva d)) => refocus { homeWait s e hva d with saveCount := count } focus.1 focus.2
          | (s, n, some x) => refocus (abandonSave s t cause cmd e x n ((pieces[n]?.map Prod.fst).getD 0)) focus.1 focus.2

/-- TEAM_SAVE (R423); the writes of a `.ctxsave` stand in G before its `evpop` (R278). -/
def execTeamSave (core slot : Nat) (s : State) : Host.Outcome State Fault Refusal :=
  done (match (s.allTeams.find? fun t => t.core = core && t.tslot = slot && t.saving.isSome).bind fun t => t.saving with
    | some (.command id) => runFor s id fun s => teamSave s core slot
    | _ => teamSave s core slot)

/-- The team that a running `.ctxsave` or `.ctxrestore` waits for is gone, as after a reset of its context (R434). -/
def lostTeam (s : State) (c : Command) : Bool :=
  c.state = .running && c.major = 0x3F &&
    ((c.fn = 4 && s.allTeams.all fun t => t.saving ≠ some (.command c.id)) || (c.fn = 5 && s.saved.all fun v => v.restoring ≠ some (some c.id)))

/-- `.ctxsave` (R282, R423, R434): the team stops; TEAM_SAVE writes it. -/
def runCtxsave (s : State) (c : Command) : State :=
  let slot := c.opa.toNat % 16
  let core := bits c.opb.toNat 9 0
  match s.allTeams.find? fun t => t.core = core && t.tslot = slot with
  | none => finishCmd s c.id 0xE 0
  | some t =>
    if t.saving.isSome then finishCmd s c.id 0xE 0
    else (markSaving s t (.command c.id)).modCmd c.id fun c => { c with state := .running }

/-! ### Restoring (R403, R426 to R428, R433, R434, R461) -/

/-- What a restore comes to. -/
inductive Restored where
  | placed (s : State) (segs : Nat)
  /-- a segment fails a check -/
  | bad (s : State) (seg : Nat)
  /-- a segment cannot be read -/
  | stop (s : State) (x : EngStop) (seg : Nat)
  /-- no core has room -/
  | noRoom (s : State)

/-- Reads and checks the segments of a slot; `first` numbers them. -/
def readSlot (e : Agent) (va : DWord) (kind first saveId : Nat) : List Nat → State → Memory → Except Restored (State × Memory)
  | [], s, p => .ok (s, p)
  | k :: rest, s, p =>
    match dmaRead s e (va + BitVec.ofNat 64 (4096 * k)) 4096 with
    | (s, _, some x) => .error (.stop s x (first + k))
    | (s, b, none) =>
      if segOk b k saveId kind then
        let new : Memory := (List.range 4080).filterMap fun i =>
          let x := b.getD (16 + i) 0
          if x = Config.blankByte then none else some (4080 * k + i, x)
        readSlot e va kind first saveId rest s (p ++ new)
      else .error (.bad s (first + k))

/-- SAVEID of segment 0 of a team slot. -/
def slotSaveId (s : State) (e : Agent) (va : DWord) : State × Nat × Option EngStop :=
  let (s, b, stop) := dmaRead s e va 4096
  (s, ofLeBytes ((b.drop 4).take 4), stop)

/-- Reads a team slot of an area and the group slots that its group list names (R433): SAVEID, the team's payload, and each group's index and payload. -/
def readSlots (s : State) (e : Agent) (area : DWord) (tslot : Nat) : Except Restored (State × Nat × Memory × List (Nat × Memory)) :=
  let va := teamSlotVa area tslot
  match slotSaveId s e va with
  | (s, _, some x) => .error (.stop s x 0)
  | (s, id, none) =>
    match readSlot e va 1 0 id (List.range teamSegs) s [] with
    | .error r => .error r
    | .ok (s, p) =>
      let groups : Except Restored (State × List (Nat × Memory)) := (groupList p).foldl (fun acc x =>
        match acc with
        | .error r => .error r
        | .ok (s, qs) =>
          match readSlot e (groupSlotVa area x.2) 0 (teamSegs + groupSegs * qs.length) id (List.range groupSegs) s [] with
          | .error r => .error r
          | .ok (s, q) => .ok (s, qs ++ [(x.1, q)])) (.ok (s, []))
      match groups with
      | .error r => .error r
      | .ok (s, qs) => .ok (s, id, p, qs)

/-- What a restore takes from a member's payloads: the team with its groups, its batches and rays. -/
def imageOf (v : SavedTeam) (p : Memory) (qs : List (Nat × Memory)) : SavedTeam :=
  let gs := qs.filterMap fun x => (v.image.groups.find? fun g => g.gidx = x.1).map fun g => groupOf x.2 g
  { v with
    image := { teamOfPayload p v.image with groups := gs },
    ctime := memRead p 0x10 8,
    batches := (List.zip (List.range 16) v.batches).map (fun x => batchIn p (0x1600 + 64 * x.1) x.2) ++ v.batches.drop 16,
    rays := (List.zip (List.range 1024) v.rays).map (fun x => rayIn p (0xD2200 + 52 * x.1) x.2) ++ v.rays.drop 1024 }

/-- Reads the image of one member; one of an earlier save of the team is refused (R432, R443). -/
def readImage (s : State) (e : Agent) (v : SavedTeam) (area : DWord) : Except Restored (State × SavedTeam) :=
  match readSlots s e area v.tslot with
  | .error r => .error r
  | .ok (s, id, p, qs) => if id = v.saveId.toNat then .ok (s, imageOf v p qs) else .error (.bad s 0)

/-- What a saved team needs of a core (R461). -/
def savedNeed (t : Team) : Need :=
  { groups := t.groups.map fun g => (g.quad, g.nregs), scratch := t.scratchSize, ob := t.obSize }

/-- Whether a unit has room for saved rays and their (scene, tag) entries (R426). -/
def rayRoom (s : State) (core : Nat) (rays : List Ray) : Bool :=
  let live := (s.rays.filter fun r => r.core = core).length
  let held := (s.rayCounts.filter fun x => x.1.1 = core).map fun x => x.1.2
  let new := (rays.map fun r => (r.scene, r.tag)).filter fun k => !held.contains k
  rays.isEmpty || (live + rays.length ≤ 1024 && held.length + new.eraseDups.length ≤ 32)

/-- Where the members go: by R340, or at a named core for the first of the list (R428, R461). -/
def restoreCores (s : State) (vs : List SavedTeam) (lead : SavedTeam) (target : Nat) : Option (List Nat) :=
  let t := lead.image
  let fits (cs : List Nat) : Bool := (List.zip vs cs).all fun x => room s (savedNeed x.1.image) x.2 && rayRoom s x.2 x.1.rays
  if target = 0x3FF then
    if vs.length ≤ 1 then
      (dieOrder lead.seqNo lead.tidx).findSome? fun d =>
        (sortBy (fun c : Nat => (s.allTeams.filter fun t => t.core = c).length)
          (((List.range 96).map fun k => 96 * d + k).filter fun c => fits [c])).head?.map fun c => [c]
    else
      (dieOrder lead.seqNo (lead.tidx - t.midx)).findSome? fun d =>
        (List.range (13 - t.clh)).findSome? fun a0 => (List.range (9 - t.clw)).findSome? fun f0 =>
          let cs := rectCores d a0 f0 t.clh t.clw
          if fits cs then some cs else none
  else
    let w := max 1 t.clw
    let a := target % 96 / 8
    let f := target % 8
    if t.midx / w ≤ a && t.midx % w ≤ f && a - t.midx / w + t.clh ≤ 12 && f - t.midx % w + t.clw ≤ 8 then
      let cs := if vs.length ≤ 1 then [target] else rectCores (target / 96) (a - t.midx / w) (f - t.midx % w) t.clh t.clw
      if fits cs then some cs else none
    else none

/-- A restored ray walks again from the root copy in the restoring die's pool, with the candidate it has accepted as its result record holds it: best is the
record's T, and the candidate is not offered again (R427). -/
def restoreRay (r : Ray) (core : Nat) : Ray :=
  let hit := r.hit.map fun h => { h with t := (ExtQ.ofF32 h.tBits.toNat).getD h.t }
  let start : List RayTask := match r.root with
    | some ref => if r.done then [] else [.node { scene := r.scene, tag := r.tag, inst := none, org := r.org, dir := r.dir }
        (dieOf core * 2 ^ 29 + ref % 2 ^ 29)]
    | none => []
  { r with core := core, todo := start, parked := [], dropped := false, saveFrom := none, hit := hit, kept := hit,
           best := (match hit with | some h => h.t | none => (ExtQ.ofF32 r.tmax.toNat).getD .pinf),
           root := r.root.map fun ref => dieOf core * 2 ^ 29 + ref % 2 ^ 29 }

/-- Places one member on a core (R114, R426, R461). -/
def placeSaved (s : State) (v : SavedTeam) (core : Nat) : State :=
  let t := v.image
  let gs := t.groups.foldl (fun gs g =>
    let taken := usedSlots s core g.quad ++ (gs.filter fun x : Group => x.quad = g.quad).map fun x => x.gslot
    gs ++ [{ g with gslot := (leastFree taken).getD 0, helmClk := s.clock, parkClk := s.clock }]) []
  let team := { t with core := core, tslot := freeSlot s core, groups := gs }
  let s := setCtime { s with teams := insertBy (fun t : Team => t.uid) team s.teams, saved := s.saved.filter fun x : SavedTeam => x.uid ≠ v.uid }
    core v.ctime
  let rays := v.rays.map fun r => restoreRay r core
  let s := (v.rays.filter fun r => r.root.isSome || s.rayCounts.any fun x => x.1 = (r.core, r.scene, r.tag)).foldl (fun s r =>
    countRay (countRay s core r.scene r.tag true) r.core r.scene r.tag false) s
  let back (c : Command) : Command :=
    { c with engine := .trav core, core := core, state := match c.state with | .waiting _ => .running | x => x }
  shrinkL1 { s with rays := s.rays ++ rays, commands := s.commands ++ v.batches.map back } core

/-- The saved members of a cluster, in member order. -/
def savedMembers (s : State) (v : SavedTeam) : List SavedTeam :=
  sortBy (fun x : SavedTeam => x.image.midx) (s.saved.filter fun x => x.seqNo = v.seqNo && x.image.cidx = v.image.cidx)

/-- Reads every image, then places every member. -/
def restoreAll (s : State) (e : Agent) (v : SavedTeam) (area : DWord) (target : Nat) : Restored :=
  let vs := savedMembers s v
  let at_ (x : SavedTeam) : DWord := area + BitVec.ofNat 64 (x.core * areaBytes) - BitVec.ofNat 64 (v.core * areaBytes)
  let images : Except Restored (State × List SavedTeam) := vs.foldl (fun acc x =>
    match acc with
    | .error r => .error r
    | .ok (s, ts) => match readImage s e x (at_ x) with
      | .error r => .error r
      | .ok (s, t) => .ok (s, ts ++ [t])) (.ok (s, []))
  match images with
  | .error r => r
  | .ok (s, ts) =>
    match restoreCores s ts v target with
    | none => .noRoom s
    | some cs =>
      let s := (List.zip ts cs).foldl (fun s x => placeSaved s x.1 x.2) s
      .placed s (vs.foldl (fun n x => n + teamSegs + groupSegs * x.groups.length) 0)

/-- A restore on behalf of a command (R433, R434). -/
def restoreFor (s : State) (c : Command) (v : SavedTeam) : State :=
  if (s.ctl v.asid).drain then s
  else
    let e := agentOf c 8
    match restoreAll s e v (BitVec.ofNat 64 (16 * (c.opa.toNat / 16))) (bits c.opb.toNat 9 0) with
    | .placed s n => finishCmd s c.id 0 n
    | .bad s n => finishCmd (s.modSaved v.uid fun v => { v with restoring := none }) c.id 0xD n
    | .stop s x n =>
      (stopCmd (s.modSaved v.uid fun v => { v with restoring := none }) c e x n)
    | .noRoom s =>
      if bits c.opb.toNat 9 0 = 0x3FF then s else finishCmd (s.modSaved v.uid fun v => { v with restoring := none }) c.id 0xF 0

/-- `.ctxrestore` (R282, R433, R434): every segment is checked, then the team that CTRL names is restored at once, or waits for room. A complete image of an
earlier save of the team ends with STATUS 0x000D (R443) and COUNT 0, the segment whose SAVEID names the save (DESIGN CHOICE, notes/assumptions/60.md). -/
def runCtxrestore (s : State) (c : Command) : State :=
  let e := agentOf c 8
  let area := BitVec.ofNat 64 (16 * (c.opa.toNat / 16))
  match readSlots s e area (c.opa.toNat % 16) with
  | .error (.bad s n) => finishCmd s c.id 0xD n
  | .error (.stop s x n) => stopCmd s c e x n
  | .error _ => s
  | .ok (s, id, p, _) =>
    match s.saved.find? fun v => v.seqNo = memRead p 12 4 && v.tidx = memRead p 4 4 && !launchDone s v.seqNo with
    | none => finishCmd s c.id 0xE 0
    | some v =>
      if v.saveId.toNat ≠ id then finishCmd s c.id 0xD 0
      else
        let s := (s.modCmd c.id fun c => { c with state := .running }).modSaved v.uid fun v => { v with restoring := some (some c.id) }
        match s.cmd c.id with
        | some c => restoreFor s c v
        | none => s

/-- A restore by the launch unit itself (R403, R433): one that fails resets the context. -/
def restoreOwn (s : State) (v : SavedTeam) : State :=
  if (s.ctl v.asid).drain then s
  else
    let e := saveAgent s v.image none
    let fail (s : State) (n : Nat) : State :=
      let va := if n < teamSegs then teamSlotVa v.area v.tslot + BitVec.ofNat 64 (4096 * n)
        else match v.groups[(n - teamSegs) / groupSegs]? with
          | some g => groupSlotVa v.area (16 * g.1 + g.2) + BitVec.ofNat 64 (4096 * ((n - teamSegs) % groupSegs))
          | none => teamSlotVa v.area v.tslot
      forcedReset (modRing s { source := 11, faddr := va, fcode := BitVec.ofNat 32 n }) v.asid 5
    match restoreAll s e v v.area 0x3FF with
    | .placed s _ => s
    | .bad s n => fail s n
    | .stop s (.pend va l) _ => (engPage s e va l).modSaved v.uid fun v => { v with restoring := none, va := some va, retry := false }
    | .stop s (.home va d) _ => homeWait s e va d
    | .stop s _ n => fail s n
    | .noRoom s => s

/-- TEAM_RESTORE (R433): the launch unit, or the command that asked for it, restores a saved team. A target other than the one R461
picks leaves the team as it is. -/
def teamRestore (s : State) (uid target : Nat) : State :=
  match s.saved.find? fun v => v.uid = uid with
  | none => s
  | some v =>
    match v.restoring with
    | none => s
    | some who =>
      let named := match who with
        | some id => match s.cmd id with | some c => bits c.opb.toNat 9 0 | none => 0x3FF
        | none => 0x3FF
      let core := (restoreCores s (savedMembers s v) v named).bind fun cs => cs[if cs.length ≤ 1 then 0 else v.image.midx]?
      if target ≠ 0x3FF && core.isSome && core ≠ some target then s
      else match who with
        | none => restoreOwn s v
        | some id => match s.cmd id with
          | some c => restoreFor s c v
          | none => s.modSaved uid fun v => { v with restoring := none }

/-- TEAM_RESTORE (R433). -/
def execTeamRestore (team target : Nat) (s : State) : Host.Outcome State Fault Refusal := done (teamRestore s team target)

/-- Whether the walk of a VA yields a translation that permits an access (R403). -/
def walkPermits (s : State) (asid : BitVec 12) (priv : Bool) (va : DWord) (kind : Nat) : Bool :=
  let a : Access := match kind with | 0 => .read | 1 => .write | 2 => .atomic | _ => .fetch
  match walk s asid va with
  | .leaf e log2 _ level =>
    (denied e priv a).isNone && (match targetOf s e log2 va priv level with | .ok _ _ _ => true | _ => false)
  | _ => false

/-- PAGE_RESTORE_WALK (R403): after a covering `.tlbinv` the launch unit walks the VA a team waits for, once. -/
def pageRestoreWalk (s : State) (uid : Nat) : State :=
  match s.teamOf uid with
  | some t => match t.pageWait with
    | some va =>
      if !t.pageRetry then s
      else if walkPermits s t.asid t.priv va t.pageKind then s.modTeam uid fun t => { t with pageWait := none, pageRetry := false }
      else s.modTeam uid fun t => { t with pageRetry := false }
    | none => s
  | none => match s.saved.find? fun v => v.uid = uid with
    | some v => match v.va with
      | some va =>
        if !v.retry || v.restoring.isSome then s
        else if walkPermits s v.asid v.image.priv va v.image.pageKind then
          s.modSaved uid fun v => { v with retry := false, restoring := some none }
        else s.modSaved uid fun v => { v with retry := false }
      | none => s
    | none => s

/-- PAGE_RESTORE_WALK (R403). -/
def execPageRestoreWalk (team : Nat) (s : State) : Host.Outcome State Fault Refusal := done (pageRestoreWalk s team)

/-! ### Core dumps (R416) -/

/-- The stop point of a group: FPC where it holds a record, else the PC of its top entry. -/
def stopPoint (g : Group) : DWord := if g.fault.valid then g.fault.fpc else ((topEntry g.frontier).map fun e => e.pc).getD 0

/-- GROUP(g) of Table 24.8. -/
def dumpGroup (p : Memory) (g : Group) : Memory :=
  let st := match g.wait with | .ready => 1 | .stopped _ => 3 | _ => 2
  let o := 0x40 + 64 * g.gidx
  let p := memWrite p o 2 (st + 256 * g.gslot)
  let p := memWrite p (o + 4) 4 g.fault.fstat.toNat
  let p := memWrite p (o + 8) 4 g.fault.lanes.toNat
  let p := memWrite p (o + 16) 8 g.fault.fpc.toNat
  let p := memWrite p (o + 24) 8 g.fault.faddr.toNat
  let p := memWrite p (o + 32) 4 g.fault.fword.toNat
  let p := memWrite p (o + 36) 4 g.fault.fcode.toNat
  memWrite p (o + 40) 8 (stopPoint g).toNat

/-- The header of a dump. -/
def dumpHeader (s : State) (t : Team) (gs : List Group) : Memory :=
  let p := memWrite [] 0 8 (nameOf t.tidx t.launchId 0).toNat
  let p := memWrite p 8 4 t.core
  let p := memWrite p 12 4 t.tslot
  let p := memWrite p 16 4 gs.length
  let p := memWrite p 0x18 8 s.clock
  let p := memWrite p 0x20 8 (s.core t.core).ctime
  gs.foldl dumpGroup p

/-- Bytes of an area in pieces of 4,096. -/
def areaPieces (va : DWord) (p : Memory) (n : Nat) : List (DWord × List Byte) :=
  (List.range (n / 4096)).map fun k => (va + BitVec.ofNat 64 (4096 * k), (List.range 4096).map fun i => memByte p (4096 * k + i))

/-- Settles a group for a dump: its waits stay, since the team resumes unchanged. -/
def dumpFocus (s : State) : State :=
  let w := s.grp.wait
  let s := settleFocus (s.modGrp fun g => { g with wait := match w with | .released _ => .ready | .passed => .ready | _ => w })
  match w with
  | .released _ => s.modGrp fun g => { g with wait := w }
  | .passed => s.modGrp fun g => { g with wait := w }
  | _ => s

/-- `.dump` (R416). -/
def runDump (s : State) (c : Command) : State :=
  match s.allTeams.find? fun t => t.core = bits c.opb.toNat 9 0 && t.tslot = bits c.opb.toNat 13 10 with
  | none => finishCmd s c.id 0xE 0
  | some t =>
    let focus := (s.team.uid, s.grp.gidx)
    let s := ((s.groupsOf t.uid).map fun g => g.gidx).foldl (fun s g => dumpFocus (s.turnTo t.uid g)) s
    match s.teamOf t.uid with
    | none => finishCmd (refocus s focus.1 focus.2) c.id 0xE 0
    | some t =>
      let gs := sortBy (fun g : Group => g.gidx) (s.groupsOf t.uid)
      let batches := liveBatches s t.uid
      let rays := s.rays.filter fun r => batches.any fun b => b.id = r.cmd
      let s := settleCtime s t.core
      let pieces := areaPieces c.opa (dumpHeader s t gs) 4096 ++ areaPieces (c.opa + 4096) (teamPayload s (wholeTeam s t) batches rays) 917504 ++
        (List.zip (List.range 16) gs).flatMap fun x => areaPieces (c.opa + BitVec.ofNat 64 (0xE1000 + 40960 * x.1)) (groupPayload x.2 s.clock) 40960
      let e := agentOf c 8
      let s := match dmaWriteAll e pieces s 0 with
        | (s, n, none) => finishCmd s c.id 0 (4096 * n)
        | (s, n, some x) => stopCmd s c e x (4096 * n)
      refocus s focus.1 focus.2

end Sys2Proof.Machine
end

