-- ==== Sys2Proof/Machine/EngineRun.lean ====
section
/-!
DEFINITION. Acceptance of a delivered command with the read of its descriptor (13 R262 to R264, 24 R406), its start by its engine
instance (R265), and the second walk of an access that waits for a page (24 R404).
-/
namespace Sys2Proof.Machine

/-- COOKIE of a command, its descriptor read (13, 14, 15). -/
def cookieOf (c : Command) : Word :=
  let b := c.opb.toNat
  BitVec.ofNat 32 (match c.major with
    | 0x3A => b % 2 ^ 30
    | 0x3D => fieldAt c.desc 28 4
    | 0x3E => b / 2 ^ 32
    | 0x3F => 0
    | _ => b)

/-- Dies in reset. -/
def diesInReset (s : State) : List Nat := (List.range 8).filter fun d => (s.die d).inReset

/-- A die counts as acknowledged by its reset: the flag of the record and the SOURCE 8 entry (R406). -/
def resetAck (s : State) (id die : Nat) : State :=
  modRing (s.modCmd id fun c => { c with flags := c.flags ||| 8 }) { source := 8, fcode := BitVec.ofNat 32 die }

/-- Whether a command waits for every die's acknowledgement (R406). -/
def wantsAcks (c : Command) : Bool := c.major = 0x3F && c.fn ≤ 2

/-- The cookie of a command whose descriptor cannot be read: a free value where the descriptor would name it (notes/assumptions/3.md). -/
def unreadCookie (s : State) (c : Command) : State × Command :=
  if c.major = 0x3D && c.desc.isEmpty then
    ({ s with free := s.free + 4 },
     { c with cookie := BitVec.ofNat 32 (ofLeBytes ((List.range 4).map fun i => Config.freeByte (s.free + i))) })
  else (s, { c with cookie := cookieOf c })

/-- What a descriptor read that stops does to the command: it waits, or ends with STATUS 1 or 4 (R264, R414, R435). -/
def descStop (s : State) (c : Command) (x : EngStop) : State :=
  match x with
  | .pend va l => waitPage s c { agentOf c 0 with unit := .core c.core } va l
  | .home va d => homeWait s (agentOf c 0) va d
  | .lost va _ =>
    let (s, c) := unreadCookie s c
    acceptCmd (engEntry s (agentOf c 0) 0 0 va) c (some (4, 0))
  | .fail _ _ _ _ =>
    let (s, c) := unreadCookie s c
    acceptCmd s c (some (1, 0))

/-- The command enters its queue, with the fences it opens and the acknowledgements of dies in reset. -/
def enterQueue (s : State) (c : Command) : State :=
  let fs := fencesAtAccept s c
  let s := acceptCmd (openFences s c.asid fs) { c with opened := fs } none
  if wantsAcks c then (diesInReset s).foldl (fun s d => resetAck s c.id d) s else s

/-- The communicator a collective names at OPB is read, and the engine instance is that of its COMMID (R265, R275). -/
def acceptColl (s : State) (c : Command) : State :=
  let (s, bs, stop) := laneRange s c c.opb 272 anyTarget
  match stop with
  | some x => descStop s c x
  | none =>
    let e := Engine.coll (fieldAt bs 4 4 % 4)
    if queueFull s e then s else enterQueue s { c with engine := e, unit := e.unitCode, comm := bs }

/-- A traversal batch or `.resume` is accepted (R304, R308). -/
def acceptTrav (s : State) (c : Command) : State :=
  match acceptBatch s c with
  | .wait s => s
  | .ended s st n => acceptCmd s c (some (st, n))
  | .enter s c => enterQueue s c

/-- Any other command is accepted; a launch whose record cannot be read is the launch unit's to reject (R439). -/
def acceptOther (s : State) (c : Command) : State :=
  let n := descBytes c.major c.fn c.opa
  let (s, bs, stop) := if n = 0 then (s, [], none) else laneRange s c c.opa n (if c.major = 0x3A then deviceOnly else anyTarget)
  match stop with
  | some x => if c.major = 0x3F && (match x with | .fail _ _ _ _ => true | .lost _ _ => true | _ => false) then enterQueue s c else descStop s c x
  | none =>
    let c := { c with desc := bs }
    let c := { c with cookie := cookieOf c }
    match c.major with
    | 0x3A => if c.fn ≤ 2 then acceptTrav s c else enterQueue s c
    | 0x3D => acceptColl s c
    | 0x3F => enterQueue s { c with comm := if c.fn = 0x0A then (ringTable s bs).getD [] else [] }
    | _ => enterQueue s c

/-- COMMAND_ACCEPT (R262, R264): the delivered command of the executing group, once its older accesses are performed and its queue has
room; one that waits for a page reads again after a covering `.tlbinv`. The record of a collective whose communicator cannot be read, which gives it no
instance, names OX0 (DESIGN CHOICE, notes/assumptions/87.md). -/
def commandAccept (s : State) : State :=
  match deliveredCmd s with
  | none => s
  | some c =>
    if s.grp.olderAccess ((s.grp.commit.head?.map fun e => e.cur.seq).getD 0) || (c.major ≠ 0x3D && queueFull s c.engine) || (!c.pages.isEmpty && !c.retry) then s
    else
      let c := { c with prof := (look s.ctxRes c.asid.toNat {}).prof, unit := c.engine.unitCode, cookie := cookieOf c,
                        tag := tagOf s.team.cmdSeq s.grp.gidx c.fn c.major }
      if c.major = 0x3A && c.fn = 3 then
        match acceptResume s c with
        | .wait s => s
        | .ended s st n => { acceptCmd s c (some (st, n)) with commands := s.commands.filter fun x : Command => x.id ≠ c.id }
        | .enter s c => enterQueue s c
      else acceptOther s c

/-- COMMAND_ACCEPT (R262). -/
def execCommandAccept (s : State) : Host.Outcome State Fault Refusal :=
  let t := commandAccept s
  done (resumeHelm s (match s.grp.commit with
    | e :: _ => if t.grp.commit.length < s.grp.commit.length then dropPopped t e.cur.seq else t
    | [] => t))

/-- A command's work; a copy that has left locked bytes unwritten goes on with them (R258). -/
def runCommand (s : State) (c : Command) : State :=
  match c.major with
  | 0x38 => if c.rest.isEmpty then runCopy s c else copyRest s c
  | 0x39 => runGather s c
  | 0x3A => runTrav s c
  | 0x3B => runBuild s c
  | 0x3C => runStream s c
  | 0x3D => runColl s c
  | 0x3E => runLod s c
  | _ => match c.fn with
    | 0x04 => runCtxsave s c
    | 0x05 => runCtxrestore s c
    | 0x08 => runDump s c
    | 0x0A => runLaunch s c
    | _ => runSys s c

/-- COMMAND_START (R265): the instance takes the command into progress; a copy that found locked bytes tries again (R258), and a `.ctxsave` or `.ctxrestore` whose
team is gone ends (R434). -/
def commandStart (s : State) (id : Nat) : State :=
  match s.cmd id with
  | none => s
  | some c => if lostTeam s c then finishCmd s id 0xE 0 else if mayStart s c || (c.state = .running && c.major = 0x38) then runFor s id fun s => runCommand s c else s

/-- COMMAND_START (R265). -/
def execCommandStart (cmd : Nat) (s : State) : Host.Outcome State Fault Refusal := done (commandStart s cmd)

/-- Whether a command in progress goes on by events of its own: rays, listed subtrees. -/
def ownEvents (c : Command) : Bool := (c.major = 0x3A && c.fn ≤ 2) || !c.todo.isEmpty

/-- ENGINE_PAGE_RETRY (R404): a waiting command walks again after a covering `.tlbinv` record. -/
def pageRetry (s : State) (id : Nat) : State :=
  match s.cmd id with
  | none => s
  | some c => match c.state with
    | .waiting _ =>
      if !c.retry then s
      else if ownEvents c then s.modCmd id fun c => { c with state := .running, retry := false }
      else runFor (s.modCmd id fun c => { c with retry := false }) id fun s => runCommand s { c with retry := false }
    | _ => s

/-- ENGINE_PAGE_RETRY (R404). -/
def execEnginePageRetry (cmd : Nat) (s : State) : Host.Outcome State Fault Refusal := done (pageRetry s cmd)

end Sys2Proof.Machine
end

