-- ==== Sys2Proof/Machine/Fence.lean ====
section
/-!
DEFINITION. `fence`, `xfence` and `publish` with their completions (06 R119 to R125, 11 R223, R224, 26 R453). The accesses of this
model are performed in the step that makes them, so a fence waits only for held stores, shadow rays and older words.
-/
namespace Sys2Proof.Machine

def pathLane : Nat := 0
def pathTrav : Nat := 4
def scopeDevice : Nat := 3
def scopeSystem : Nat := 4

/-- The group's own host-window writes of the LANE path are followed by a system fence (R122, R125). -/
def fenceOwn (s : State) : State :=
  { s with hostPending := s.hostPending.map fun w : HostWrite =>
      if w.uid = s.team.uid && w.gidx = s.grp.gidx && w.path = pathLane then { w with fenced := true } else w }

/-- The older lane stores and atomics of the executing group are performed; at system scope its loads as well (R122). -/
def accessesDone (s : State) (system : Bool) : Bool :=
  allQuiet s.grp && s.grp.held.all fun h => !system && (h.load.isSome || h.lod.isSome)

/-- What a completed `fence` leaves (R122). -/
def fenceEffect (s : State) (system : Bool) : State := if system then fenceOwn s else s

/-- `fence` (R122, R223). -/
def execFence (_k : BitVec 1) (sc : BitVec 3) (s : State) : Host.Outcome State Fault Refusal :=
  let system := decide (sc.toNat = scopeSystem)
  done (if s.grp.wait = .passed then advance s
    else if accessesDone s system then advance (fenceEffect s system)
    else stopHelm s (.fence system))

/-- FENCE_COMPLETE (R122). -/
def execFenceComplete (s : State) : Host.Outcome State Fault Refusal :=
  done (match s.grp.wait with
    | .fence system => if accessesDone s system then (fenceEffect s system).modGrp fun g => { g with wait := .passed } else s
    | _ => s)

/-- Whether the before-set of an `xfence` is performed (R120): the group's lane stores, and every shadow ray of the team. -/
def beforeDone (s : State) (bm : BitVec 9) : Bool :=
  (!bm.getLsbD pathLane || s.grp.held.isEmpty) &&
    (!bm.getLsbD pathTrav || !s.rays.any (fun r => r.uid = s.team.uid && r.kind = 2))

/-- Whether a write is in the before-set of an `xfence` of the executing group (R120): the combination of the launch's partials is made before the `xfence`
completes (R124), for no team. -/
def inBefore (s : State) (bm : BitVec 9) (w : PastWrite) : Bool :=
  bm.getLsbD w.path && (w.uid = s.team.uid || (w.uid = 0 && w.path = pathTrav && w.launch = s.team.seqNo)) && (if w.path = pathLane then decide (w.gidx = s.grp.gidx) else w.popped)

/-- The writes of the before-set come before the accesses of the group's later commands on the paths of AM, and with LANE in AM before every
lane-order event from here on (R119). -/
def orderPast (s : State) (bm am : BitVec 9) : State :=
  let after := ((List.range 9).filter fun p => am.getLsbD p).map (fun p => (s.team.uid, s.grp.gidx, p, s.nextCmd)) ++
    if am.getLsbD pathLane then [(0, 0, 0, 0)] else []
  { s with past := s.past.map fun w => if inBefore s bm w then { w with ordered := (w.ordered ++ after).eraseDups } else w }

/-- The partials are combined where the `xfence` asks for it (R124); their writes are in its before-set. False where the combination waits. -/
def xfenceCombine (s : State) (bm : BitVec 9) (sc : BitVec 3) : State × Bool :=
  if bm.getLsbD pathTrav && scopeDevice ≤ sc.toNat then
    let (s, ok) := combinePartials { s with engWts := 0 } s.team.seqNo
    ({ s with team := { s.team with seenWts := change s.team.seenWts pathTrav 0 (max s.engWts) } }, ok)
  else (s, true)

/-- What a completed `xfence` leaves (R119, R120, R125): CTIME above the writes of the before-set, their order, the host writes it covers
marked. A group- or team-scope `xfence` raises the core's CTIME and orders the writes before every lane-order event as a device-scope one does, which R120
permits and does not guarantee (DESIGN CHOICE, notes/assumptions/88.md). -/
def xfenceEffect (s : State) (bm am : BitVec 9) (sc : BitVec 3) : State :=
  let s := if am.getLsbD pathLane then
      setCtime s s.team.core ((List.range 9).foldl (fun t p => if bm.getLsbD p then max t (look s.team.seenWts p 0 + 1) else t) 0)
    else s
  let s := orderPast s bm am
  if sc.toNat = scopeSystem then
    let s := { s with hostPending := s.hostPending.map fun w : HostWrite =>
      if w.popped && bm.getLsbD w.path && w.uid = s.team.uid then { w with fenced := true } else w }
    if bm.getLsbD pathLane then fenceOwn s else s
  else s

/-- Whether the older words of the group and the before-set are done. -/
def xfenceReady (s : State) (bm : BitVec 9) : Bool := allQuiet s.grp && beforeDone s bm

/-- `xfence` (R119, R223). -/
def execXfence (_k : BitVec 1) (bm am : BitVec 9) (sc : BitVec 3) (s : State) : Host.Outcome State Fault Refusal :=
  done (if s.grp.wait = .passed then advance s
    else if xfenceReady s bm then
      let (t, ok) := xfenceCombine s bm sc
      if ok then advance (xfenceEffect t bm am sc) else stopHelm t (.xfence bm am sc)
    else stopHelm s (.xfence bm am sc))

/-- XFENCE_COMPLETE (R119). -/
def execXfenceComplete (s : State) : Host.Outcome State Fault Refusal :=
  done (match s.grp.wait with
    | .xfence bm am sc =>
      if xfenceReady s bm then
        let (t, ok) := xfenceCombine s bm sc
        if ok then (xfenceEffect t bm am sc).modGrp fun g => { g with wait := .passed } else t
      else s
    | _ => s)

/-- The covered writes become visible, then the counter is raised (R224); nothing reaches a host whose link is lost (R453). -/
def publishEffect (s : State) (v : DWord) : State :=
  if s.slalia.lost then modRing s { source := 20, fcode := 2 }
  else
    let mine (w : HostWrite) : Bool := w.uid = s.team.uid && w.gidx = s.grp.gidx && w.path = pathLane
    let s := flushHost s fun w => w.fenced || mine w
    let a := 8 * bits (ctxOf s s.team.asid).pubAddr.toNat 45 3
    let s := noteCode s none true a 8
    { s with hostMem := memWrite s.hostMem a 8 (max v.toNat (memRead s.hostMem a 8)) }

/-- Whether a `publish` may complete: the group's older writes are performed. A retrain of Slalia is one step (R453). -/
def publishReady (s : State) : Bool := s.grp.held.isEmpty

/-- `publish` (R224). -/
def execPublish (_k : BitVec 1) (a : BitVec 6) (s : State) : Host.Outcome State Fault Refusal :=
  done (if s.grp.wait = .passed then advance s
    else if [a.toNat, a.toNat + 1].any (regPending s.grp) then stopHelm s (.operand [a.toNat, a.toNat + 1])
    else if quiet s && publishReady s then advance (publishEffect s (s.grp.spair a.toNat))
    else stopHelm s (.publish (s.grp.spair a.toNat)))

/-- PUBLISH_COMPLETE (R224). -/
def execPublishComplete (s : State) : Host.Outcome State Fault Refusal :=
  done (match s.grp.wait with
    | .publish v => if allQuiet s.grp && publishReady s then (publishEffect s v).modGrp fun g => { g with wait := .passed } else s
    | _ => s)

end Sys2Proof.Machine
end

