-- ==== Sys2Proof/Machine/HostEvents.lean ====
section
/-!
DEFINITION. What the host does to the module: writes of hub registers (00 R7, 16 R331, 17 R347, 18 R365, 25 R418 to R421), and
accesses through the device-memory aperture (17 R348, 24 R411, R414). Once Slalia is lost none of them arrives (26 R452).
-/
namespace Sys2Proof.Machine

/-- A write of `n` bytes at a PA of the hub-resource region; the host reaches what BAR0 maps, every other offset ignores it (R347). -/
def registerWrite (s : State) (pa n : Nat) (v : DWord) (byHost : Bool) : State :=
  if pa < hubBase || (byHost && (s.slalia.lost || !bar0Mapped (pa - hubBase))) then s else hubSet s (pa - hubBase) n v.toNat

/-- REGISTER_WRITE (R7). -/
def execRegisterWrite (pa n : Nat) (v : DWord) (byHost : Bool) (s : State) : Host.Outcome State Fault Refusal :=
  done (registerWrite s pa n v byHost)

/-- LQHEAD_WRITE (R331). -/
def execLqheadWrite (queue : BitVec 8) (v : Word) (s : State) : Host.Outcome State Fault Refusal :=
  done (if s.slalia.lost then s else hubSet s (64 * queue.toNat + 0x10) 4 v.toNat)

/-- DEBUG_RESUME (R365). -/
def execDebugResume (asid : BitVec 12) (name : DWord) (s : State) : Host.Outcome State Fault Refusal := done (resumeGroup s asid name)

/-- PCTL_DRAIN_WRITE (R419): DRAIN alone is written. -/
def execPctlDrainWrite (asid : BitVec 12) (on : Bool) (s : State) : Host.Outcome State Fault Refusal :=
  done (writePctl s asid (if on then 1 else 0) 1)

/-- PCTL_RESET (R421): RESET alone is written. -/
def execPctlReset (asid : BitVec 12) (s : State) : Host.Outcome State Fault Refusal := done (writePctl s asid 2 2)

/-- A host read of a hub register through BAR0 (R347): every unmapped offset reads as zero. Before Ready Slalia lane 0 carries only reads of MOD_BOOTSTAT
(R19, R456), after FAIL too, since FAIL is one of its bits (Table 1.5; DEDUCED, notes/assumptions/67.md). -/
def bar0Read (s : State) (off n : Nat) : State :=
  let carried : Bool := if s.stage = 7 then !s.slalia.lost else decide (off / 8 = 0xF000 / 8)
  let v := if bar0Mapped off then hubGet s off n else 0
  { s with hostReplies := s.hostReplies ++ [{ bar := 0, addr := off, size := n, value := if carried then some v else none }] }

/-- The PA that a BAR2 offset reaches (R348). -/
def bar2Pa (s : State) (off : Nat) : Nat := s.hub.aperBase.toNat + off

/-- A BAR2 access to an unbacked PA is logged (R411). -/
def bar2Entry (s : State) (pa code : Nat) : State :=
  modRing s { source := 7, faddr := BitVec.ofNat 64 pa, fcode := BitVec.ofNat 32 code }

/-- HOST_BAR2_READ (R348, R411); it waits for a die in reset (R447). -/
def bar2Read (s : State) (off n : Nat) : State :=
  let pa := bar2Pa s off
  if s.slalia.lost then bar2Answer s off n none
  else if !backed pa then bar2Answer (bar2Entry s pa 1) off n none
  else if dieWaits s pa then holdOutside s { bar2 := some off, pa := pa, size := n, kind := 0, v := 0, since := s.clock }
  else bar2ReadAt s off pa n

/-- HOST_BAR2_READ (R348). -/
def execHostBar2Read (off n : Nat) (s : State) : Host.Outcome State Fault Refusal := done (bar2Read s off n)

/-- HOST_BAR2_WRITE (R348, R411, R414). -/
def bar2Write (s : State) (off n : Nat) (v : DWord) : State :=
  let pa := bar2Pa s off
  if s.slalia.lost then s
  else if !backed pa then bar2Entry s pa 2
  else if dieWaits s pa then holdOutside s { bar2 := some off, pa := pa, size := n, kind := 1, v := v.toNat, since := s.clock }
  else bar2WriteAt s pa n v.toNat

/-- HOST_BAR2_WRITE (R348). -/
def execHostBar2Write (off n : Nat) (v : DWord) (s : State) : Host.Outcome State Fault Refusal := done (bar2Write s off n v)

end Sys2Proof.Machine
end

