-- ==== Sys2Proof/Machine/LaneFloat.lean ====
section
/-!
DEFINITION. Lane float and conversion words (09 R170 to R176).
-/
namespace Sys2Proof.Machine

/-- Applies an operation to both halves of packed values (R66, R170). -/
def packed2 (f : Nat → Nat → Nat) (a b : Word) : Word :=
  BitVec.ofNat 16 (f (bits a.toNat 31 16) (bits b.toNat 31 16)) ++ BitVec.ofNat 16 (f (a.toNat % 65536) (b.toNat % 65536))

def packed3 (f : Nat → Nat → Nat → Nat) (a b c : Word) : Word :=
  BitVec.ofNat 16 (f (bits a.toNat 31 16) (bits b.toNat 31 16) (bits c.toNat 31 16)) ++
    BitVec.ofNat 16 (f (a.toNat % 65536) (b.toNat % 65536) (c.toNat % 65536))

/-- A two-source float word of any type (R133): `op` at a format. -/
def floatAB (i : Instr) (s : State) (t : Nat) (a b : BitVec 6) (op : Fmt → Nat → Nat → Nat) : Host.Outcome State Fault Refusal :=
  done (laneFixed (laneInfo i) s fun rd _ l =>
    match t with
    | 0 => one (BitVec.ofNat 32 (op f32 (rd 0 a.toNat l).toNat (rd 1 b.toNat l).toNat))
    | 1 => one (packed2 (op f16) (rd 0 a.toNat l) (rd 1 b.toNat l))
    | 2 => one (packed2 (op bf16) (rd 0 a.toNat l) (rd 1 b.toNat l))
    | _ => { v := two (op f64 (Rd.pair rd 0 a.toNat l).toNat (Rd.pair rd 1 b.toNat l).toNat) })

/-- `fadd` (R170). -/
def execFadd (k : BitVec 1) (d a b : BitVec 6) (f : BitVec 4) (h : BitVec 2) (s : State) : Host.Outcome State Fault Refusal :=
  floatAB (.fadd k d a b f h) s (f.toNat / 4) a b fun t => fAdd t (modeOf f.toNat)

/-- `fsub` (R170). -/
def execFsub (k : BitVec 1) (d a b : BitVec 6) (f : BitVec 4) (h : BitVec 2) (s : State) : Host.Outcome State Fault Refusal :=
  floatAB (.fsub k d a b f h) s (f.toNat / 4) a b fun t => fSub t (modeOf f.toNat)

/-- `fmul` (R170). -/
def execFmul (k : BitVec 1) (d a b : BitVec 6) (f : BitVec 4) (h : BitVec 2) (s : State) : Host.Outcome State Fault Refusal :=
  floatAB (.fmul k d a b f h) s (f.toNat / 4) a b fun t => fMul t (modeOf f.toNat)

/-- `ffma` (R170). -/
def execFfma (k : BitVec 1) (d a b c : BitVec 6) (s : State) : Host.Outcome State Fault Refusal :=
  laneABC (.ffma k d a b c) s a b c fun x y z => one (BitVec.ofNat 32 (fFma f32 x.toNat y.toNat z.toNat))

/-- `hfma2` (R170). -/
def execHfma2 (k : BitVec 1) (d a b c : BitVec 6) (s : State) : Host.Outcome State Fault Refusal :=
  laneABC (.hfma2 k d a b c) s a b c fun x y z => one (packed3 (fFma f16) x y z)

/-- `dfma` (R170). -/
def execDfma (k : BitVec 1) (d a b c : BitVec 6) (s : State) : Host.Outcome State Fault Refusal :=
  done (laneFixed (laneInfo (.dfma k d a b c)) s fun rd _ l =>
    { v := two (fFma f64 (Rd.pair rd 0 a.toNat l).toNat (Rd.pair rd 1 b.toNat l).toNat (Rd.pair rd 2 c.toNat l).toNat) })

/-- `bfma2` (R170). -/
def execBfma2 (k : BitVec 1) (d a b c : BitVec 6) (s : State) : Host.Outcome State Fault Refusal :=
  laneABC (.bfma2 k d a b c) s a b c fun x y z => one (packed3 (fFma bf16) x y z)

/-- `fmnmx` (R171). -/
def execFmnmx (k : BitVec 1) (d a b : BitVec 6) (f : BitVec 4) (h : BitVec 2) (s : State) : Host.Outcome State Fault Refusal :=
  floatAB (.fmnmx k d a b f h) s (f.toNat / 4) a b fun t => fMinMax t (f.toNat % 4)

/-- `fsetp` (R173): n the condition, p the predicate, t the type, 0 f32 or 3 f64. -/
def execFsetp (k : BitVec 1) (n p : BitVec 3) (a b : BitVec 6) (t h : BitVec 2) (s : State) : Host.Outcome State Fault Refusal :=
  done (laneFixed (laneInfo (.fsetp k n p a b t h)) s fun rd _ l =>
    { p := some (p.toNat, if t = 3 then fCompare f64 n.toNat (Rd.pair rd 0 a.toNat l).toNat (Rd.pair rd 1 b.toNat l).toNat
                          else fCompare f32 n.toNat (rd 0 a.toNat l).toNat (rd 1 b.toNat l).toNat) })

/-- `sfu` (R174). -/
def execSfu (k : BitVec 1) (d a : BitVec 6) (f : BitVec 4) (h : BitVec 2) (s : State) : Host.Outcome State Fault Refusal :=
  laneA (.sfu k d a f h) s a fun x => one (BitVec.ofNat 32 (sfuVal f.toNat x.toNat))

/-- `fround` (R175). -/
def execFround (k : BitVec 1) (d a : BitVec 6) (f : BitVec 4) (h : BitVec 2) (s : State) : Host.Outcome State Fault Refusal :=
  done (laneFixed (laneInfo (.fround k d a f h)) s fun rd _ l =>
    let op (t : Fmt) (x _y : Nat) : Nat := fIntegral t (f.toNat % 4) x
    match f.toNat / 4 with
    | 0 => one (BitVec.ofNat 32 (op f32 (rd 0 a.toNat l).toNat 0))
    | 1 => one (packed2 (op f16) (rd 0 a.toNat l) 0)
    | 2 => one (packed2 (op bf16) (rd 0 a.toNat l) 0)
    | _ => { v := two (op f64 (Rd.pair rd 0 a.toNat l).toNat 0) })

/-- What `cvt` writes (R176): src, tgt the type codes, x the source bits. -/
def cvtOut (src tgt : Nat) (mode : Mode) (x : Nat) : List Word :=
  let r := convert src tgt mode x
  match tgt with
  | 0 => [toWord (signExt r 8)]
  | 1 => [toWord (signExt r 16)]
  | 3 => two r
  | 7 => two r
  | 8 => two r
  | _ => [BitVec.ofNat 32 r]

/-- `cvt` (R176): s the source type, r the rounding mode, t the target type. -/
def execCvt (k : BitVec 1) (d a : BitVec 6) (src : BitVec 4) (r : BitVec 2) (t : BitVec 4) (h : BitVec 2) (s : State) :
    Host.Outcome State Fault Refusal :=
  done (laneFixed (laneInfo (.cvt k d a src r t h)) s fun rd _ l =>
    let wide := src.toNat = 3 || src.toNat = 7 || src.toNat = 8
    { v := cvtOut src.toNat t.toNat (modeOf r.toNat) (if wide then (Rd.pair rd 0 a.toNat l).toNat else (rd 0 a.toNat l).toNat) })

/-- `fdot2` (R170). -/
def execFdot2 (k : BitVec 1) (d a b c : BitVec 6) (s : State) : Host.Outcome State Fault Refusal :=
  laneABC (.fdot2 k d a b c) s a b c fun x y z =>
    let p (i : Nat) : FVal := (f16.decode (bits x.toNat (16 * i + 15) (16 * i))).mul (f16.decode (bits y.toNat (16 * i + 15) (16 * i)))
    one (BitVec.ofNat 32 (sumRound f32 .rn [p 0, p 1, f32.decode z.toNat]))

/-- `fclamp` (R172). -/
def execFclamp (k : BitVec 1) (d a b c : BitVec 6) (s : State) : Host.Outcome State Fault Refusal :=
  laneABC (.fclamp k d a b c) s a b c fun x y z =>
    one (BitVec.ofNat 32 (fMinMax f32 0 (fMinMax f32 1 x.toNat y.toNat) z.toNat))

end Sys2Proof.Machine
end

