-- ==== Sys2Proof/Machine/Service.lean ====
section
/-!
DEFINITION. Bring-up (01 R19, R20, 26 R456), repair records and elements out of service (26 R449, R457 to R459), pontoon links (R444 to
R446), dies in reset (R447, R448, 24 R406), optical ports (17 R351, R352, 26 R450), Slalia (R452, R453), heat (R454), and soft errors (24
R414, R415).
-/
namespace Sys2Proof.Machine

/-! ### Dies in reset (R406, R447, R448) -/

/-- Whether a command is in progress on a compute die. -/
def onDie (c : Command) (d : Nat) : Bool :=
  c.state ≠ .finished && c.state ≠ .delivered && (match c.engine with
    | .copy k => decide (dieOf k = d)
    | .gather k _ => decide (k = d)
    | .stream k => decide (dieOf k = d)
    | .trav k => decide (dieOf k = d)
    | .builder k => decide (k = d)
    | _ => false)

/-- Contexts with a resident team, a command in progress or a ray on a die. -/
def contextsOn (s : State) (d : Nat) : List (BitVec 12) :=
  let teams := (s.allTeams.filter fun t => dieOf t.core = d).map fun t => t.asid
  let cmds := (s.commands.filter fun c => onDie c d).map fun c => c.asid
  let rays := (s.rays.filter fun r => dieOf r.core = d).filterMap fun r => (s.cmd r.cmd).map fun c => c.asid
  sortBy (fun a : BitVec 12 => a.toNat) (teams ++ cmds ++ rays).eraseDups

/-- The caches of a die are cleared, dirty lines of its slices written back and their times kept; its RDC partition, which lies on the landing, keeps
its lines (R370, R447). -/
def clearDie (s : State) (d : Nat) : State :=
  let s := (s.die d).l2.foldl (fun s e => l2Evict s e.line) s
  let ks := (List.range 96).map fun k => 96 * d + k
  let s := ks.foldl (fun s k => s.modCore k fun c => { c with l1 := [], tlb := [], residency := [] }) s
  { (s.modDie d fun x => { x with tlb := [], fills := [], queued := [] }) with injected := s.injected.filter fun r => r.slice / 16 ≠ d }

/-- DIE_RESET (R447): the contexts on the die are reset, its TLBs are flushed, its caches cleared; invalidations in progress count it as
acknowledged (R406). -/
def dieReset (s : State) (d : Nat) : State :=
  if (s.die d).inReset || (s.die d).outOfService then s
  else
    let s := (contextsOn s d).foldl (fun s a => forcedReset s a 6) s
    let es := ((List.range 96).flatMap fun k => (s.core (96 * d + k)).tlb) ++ (s.die d).tlb
    let s := clearDie (es.foldl flushEntry s) d
    let s := s.modDie d fun x => { x with inReset := true, resetAt := s.clock }
    (s.commands.filter fun c => wantsAcks c && c.state ≠ .delivered && c.state ≠ .finished).foldl (fun s c => resetAck s c.id d) s

/-- The neighbour a die's landing traffic goes through: none while its own hub link works; `some none` where no route works (R446). -/
def routeOf (s : State) (d : Nat) : Option (Option Nat) :=
  let up := (d + 1) % 8
  let down := (d + 7) % 8
  if linkWorks s d then none
  else if linkWorks s (8 + d) && linkWorks s up then some (some up)
  else if linkWorks s (8 + down) && linkWorks s down then some (some down)
  else some none

/-- Routes change with the links that work (R446): a die without a route is taken out of service as a die in reset (R447). -/
def rerouteAll (s : State) : State :=
  (List.range 8).foldl (fun s d => match routeOf s d with
    | none => s.modDie d fun x => { x with route := none }
    | some (some n) => s.modDie d fun x => { x with route := some n }
    | some none => dieReset s d) s

/-! ### Elements and repair records (R449, R457, R459) -/

/-- Whether some element is out of service or a link runs narrower. -/
def isDegraded (s : State) : Bool :=
  s.hub.capCores < 768 || s.hub.capSlices < 128 || s.hub.capChannels < 64 || s.hub.capPorts < 24 || s.slalia.lost ||
    s.slalia.lanes < 8 || s.links.any (fun l => l.2.failed ≠ 0) || s.ports.any fun p => p.2.retired ≠ 0

def noteDegraded (s : State) : State := { s with hub := { s.hub with degraded := isDegraded s } }

/-- A record is added: the oldest goes beyond 256, SVCSTAT.REQ is set, a SOURCE 16 entry is written (R457). -/
def addRepair (s : State) (kind action ident left : Nat) : State :=
  let r : Repair := { kind := BitVec.ofNat 8 kind, action := BitVec.ofNat 8 action, ident := BitVec.ofNat 16 ident,
                      left := BitVec.ofNat 32 left, boot := s.boots, time := BitVec.ofNat 64 s.clock }
  let l := s.repairs ++ [r]
  let l := l.drop (l.length - 256)
  let s := { s with repairs := l, hub := { s.hub with svcReq := true } }
  modRing (noteDegraded s) { source := 16, fcode := BitVec.ofNat 32 (l.length - 1) }

/-- The counts of elements in service (Table 26.4): a die that is out takes its cores, slices and channels with it (R448). -/
def recount (s : State) : State :=
  let out := (s.dies.filter fun x => x.2.outOfService).map fun x => x.1
  let live := (s.dies.filter fun x => !x.2.outOfService).map fun x => x.2
  let total (f : Die → Nat) : Nat := (live.map f).sum
  { s with hub := { s.hub with
    capCores := 768 - 96 * out.length - (s.cores.filter fun x => x.2.outOfService && !out.contains (dieOf x.1)).length,
    capSlices := 128 - 16 * out.length - total fun d => d.slicesOut.length,
    capChannels := 64 - 8 * out.length - total fun d => ((List.range 8).filter fun c => channelDown d c).length,
    capPorts := 24 - (s.ports.filter fun x => x.2.outOfService).length } }

/-- A core goes out of service or comes back; nothing may be resident on it (R449). -/
def setCoreOut (s : State) (c : Nat) (out : Bool) : State := recount (s.modCore c fun x => { x with outOfService := out })

/-- The lines a slice serves leave its L2, dirty ones written back, and its snoop filter, their copies with them. -/
def emptySlice (s : State) (d sl : Nat) : State :=
  let s := ((s.die d).directory.filter fun e => servingSlice s e.line = sl).foldl (fun s e => dropRemote s e.line) s
  ((s.die d).l2.filter fun e => servingSlice s e.line = sl).foldl (fun s e => l2Evict s e.line) s

/-- A channel goes out of service or comes back. -/
def setChannelOut (s : State) (d c : Nat) (out : Bool) : State :=
  recount (s.modDie d fun x => { x with channelsOut := (if out then [c] else []) ++ x.channelsOut.filter (· ≠ c) })

/-- A slice goes out of service, or comes back (Table 26.2): the slice that served its lines is emptied first, and of two slice registers the one in service
keeps the larger time (R108). -/
def setSliceOut (s : State) (d sl : Nat) (out : Bool) : State :=
  if (s.die d).slicesOut.contains sl = out then s
  else
    let s := emptySlice s d (if out then sl else sl ^^^ 1)
    recount (s.modDie d fun x => { x with
      slicesOut := (if out then [sl] else []) ++ x.slicesOut.filter (· ≠ sl),
      evicted := (let m := max (look x.evicted sl 0) (look x.evicted (sl ^^^ 1) 0); put (put x.evicted sl m 0) (sl ^^^ 1) m 0) })

/-- Ways of a slice that are retired. -/
def waysRetired (d : Die) (sl : Nat) : Nat := ((List.range 16).filter fun w => (look d.waysOut sl 0).testBit w).length

/-- A way of a slice is retired: its lines leave, and no line is filled into it. Where 4 ways are retired already the slice goes out of service (Table 26.2). -/
def retireWay (s : State) (d sl w : Nat) : State :=
  if (look (s.die d).waysOut sl 0).testBit w then s
  else if 4 ≤ waysRetired (s.die d) sl then setSliceOut s d sl true
  else
    let s := ((s.die d).l2.filter fun e => servingSlice s e.line = sl && e.way = w).foldl (fun s e => l2Evict s e.line) s
    s.modDie d fun x => { x with waysOut := change x.waysOut sl 0 fun m => m ||| 2 ^ w }

/-- A port goes out of service or comes back (R450). -/
def setPortOut (s : State) (p : Nat) (out : Bool) : State :=
  recount { s with ports := change s.ports p {} fun x : Port => { x with outOfService := out } }

/-- A wavelength group is parked for good; a port without an active group goes out of service (R450). -/
def retireGroup (s : State) (p g : Nat) : State :=
  let bit : BitVec 4 := BitVec.ofNat 4 (2 ^ g)
  let s : State := { s with ports := change s.ports p {} fun x : Port =>
    let x := x.restripe s.clock fun x => { x with retired := x.retired ||| bit, parked := x.parked &&& ~~~bit, waking := x.waking &&& ~~~bit }
    if (x.waker.map fun w => w.1) = some g then x.nextWake s.clock else x }
  if (look s.ports p {}).active = 0 then setPortOut s p true else s

/-- A die goes out of service or comes back, with its cores, slices and channels (R448). -/
def setDieOut (s : State) (d : Nat) (out : Bool) : State :=
  recount (s.modDie d fun x => { x with outOfService := out })

/-- A repair lane of a module and direction takes a lane's place, while one is left (R13, Table 26.2). -/
def spareLane (s : State) (ident : Nat) : State :=
  { s with links := change s.links (ident / 2048) {} fun l : Link => { l with spared := change l.spared (ident / 128 % 16) 0 fun n => min 4 (n + 1) } }

/-- Spares of a kind left in the group of an element, where Table 26.2 gives a number; otherwise as the harbourmaster reports it. -/
def sparesLeft (s : State) (kind ident reported : Nat) : Nat :=
  match kind with
  | 1 => 8 - (s.die (dieOf (ident % 768))).coresSpared
  | 3 => 4 - waysRetired (s.die (ident / 256 % 8)) (ident / 16 % 16)
  | 6 => 4 - look (look s.links (ident / 2048) {}).spared (ident / 128 % 16) 0
  | _ => reported

/-- An element is spared (ACTION 1): a core of the 13th rank or a repair lane takes its place, a way is retired. Where Table 26.2's spares are gone it comes to
what the table's last column says. The ACTION of its record with it. -/
def spareElement (s : State) (kind ident : Nat) : State × Nat :=
  match kind with
  | 1 =>
    let c := ident % 768
    if (s.die (dieOf c)).coresSpared < 8 then (s.modDie (dieOf c) fun d => { d with coresSpared := d.coresSpared + 1 }, 1)
    else (setCoreOut s c true, 2)
  | 3 =>
    let full := 4 ≤ waysRetired (s.die (ident / 256 % 8)) (ident / 16 % 16) && !(look (s.die (ident / 256 % 8)).waysOut (ident / 16 % 16) 0).testBit (ident % 16)
    (retireWay s (ident / 256 % 8) (ident / 16 % 16) (ident % 16), if full then 2 else 1)
  | 6 => (spareLane s ident, 1)
  | _ => (s, 1)

/-- What a record's element comes to (Tables 26.2, 26.8); `out` tells taking out of service from a return. -/
def applyElement (s : State) (kind ident : Nat) (out : Bool) : State :=
  match kind with
  | 1 => setCoreOut s (ident % 768) out
  | 2 => setSliceOut s (ident / 16 % 8) (ident % 16) out
  | 3 => if out then retireWay s (ident / 256 % 8) (ident / 16 % 16) (ident % 16) else s
  | 4 => setChannelOut s (ident / 8 % 8) (ident % 8) out
  | 5 =>
    if linkModules (ident / 16) ≤ ident % 16 then s else
    let bit : Byte := BitVec.ofNat 8 (2 ^ (ident % 16))
    { s with links := change s.links (ident / 16) {} fun l : Link => { l with failed := if out then l.failed ||| bit else l.failed &&& ~~~bit } }
  | 7 => if out then retireGroup s (ident / 4) (ident % 4) else s
  | 8 => setPortOut s ident out
  | 10 => if ident < 8 then setDieOut s ident out else s
  | _ => s

/-- Whether a core holds a team, or one of its engines a command in progress. -/
def coreBusy (s : State) (c : Nat) : Bool :=
  (s.allTeams.any fun t => t.core = c) || s.commands.any fun x => (x.state ≠ .finished && x.state ≠ .delivered && x.state ≠ .queued) && (match x.engine with
    | .copy k => k = c
    | .stream k => k = c
    | .trav k => k = c
    | _ => false)

/-- The cores of an element are drained (R449): no team is placed on them, and their teams are saved by the procedure of R423, to be restored on other cores. A
team that SAVEBASE gives no place stays, and the element waits for it. -/
def drainElement (s : State) (kind ident left action : Nat) : State :=
  let ds := spareCores kind ident
  let s := ds.foldl (fun s c => if (s.core c).draining then s else s.modCore c fun x => { x with draining := true }) s
  let s := (s.allTeams.filter fun t => ds.contains t.core && t.saving.isNone && t.pageWait.isNone && (ctxOf s t.asid).saveBase.toNat / 65536 ≠ 0 &&
    !slotHeld s t).foldl (fun s t => markSaving s t .spare) s
  if s.sparing.contains (kind, ident, left, action) then s else { s with sparing := s.sparing ++ [(kind, ident, left, action)] }

/-- A repaired, spared or failed element (R449, R457, R459), once it holds nothing. -/
def spareNow (s : State) (kind ident left action : Nat) : State :=
  let x : State × Nat := match action with
    | 1 => spareElement s kind ident
    | 2 => (applyElement s kind ident true, 2)
    | 3 => (applyElement s kind ident false, 3)
    | a => (s, a)
  let s := (spareCores kind ident).foldl (fun s c => if (s.core c).draining then s.modCore c fun x => { x with draining := false } else s) x.1
  let s := { s with sparing := s.sparing.filter (· ≠ (kind, ident, left, action)) }
  addRepair (if kind = 5 then rerouteAll s else s) kind x.2 ident (sparesLeft s kind ident left)

/-- SPARE_APPLY (R449, R459). ACTION 1 puts a spare in the element's place, 2 takes the element out of service, 3 returns it; 1 and 2 wait until it holds no
team and no command. -/
def spareApply (s : State) (kind ident left action : Nat) : State :=
  if action ≠ 3 && (spareCores kind ident).any (coreBusy s) then drainElement s kind ident left action
  else spareNow s kind ident left action

/-- SPARE_APPLY (R449). -/
def execSpareApply (kind : BitVec 8) (ident : Half) (left : Word) (action : BitVec 8) (s : State) : Host.Outcome State Fault Refusal :=
  done (spareApply s kind.toNat ident.toNat left.toNat action.toNat)

/-! ### Bring-up (R19, R20, R456) -/

/-- What outlives a module reset: the harbourmaster's records and bring-up count, the host, the other modules, and the model's own
fields. -/
def afterReset (s : State) : State :=
  { State.reset with
    boots := s.boots + 1, repairs := s.repairs, hostMem := s.hostMem, peers := s.peers, hostReplies := s.hostReplies, free := s.free,
    agenda := s.agenda }

/-- The repair records are applied before Ready (R457). -/
def applyRepairs (s : State) : State :=
  noteDegraded (s.repairs.foldl (fun s r => match r.action.toNat with
    | 2 => applyElement s r.kind.toNat r.ident.toNat true
    | 3 => applyElement s r.kind.toNat r.ident.toNat false
    | 1 => (spareElement s r.kind.toNat r.ident.toNat).1
    | _ => s) s)

/-- A pontoon lane that does not train (R13, R449): one of the four repair lanes of its module and direction takes its place; where none is left,
the module is disabled. -/
def laneFault (s : State) (ident : Nat) : State :=
  if 0 < sparesLeft s 6 ident 0 then (let s := spareLane s ident; addRepair s 6 1 ident (sparesLeft s 6 ident 0))
  else
    let m := 16 * (ident / 2048) + ident / 256 % 8
    addRepair (applyElement s 5 m true) 5 2 m 0

/-- Parts of some kinds that do not train go out of service, each with its record (R456). -/
def partFaults (s : State) (kinds : List Nat) (l : List (Nat × Nat)) : State :=
  (l.filter fun x => kinds.contains x.1).foldl (fun s x =>
    if x.1 = 6 then laneFault s x.2 else addRepair (applyElement s x.1 x.2 true) x.1 2 x.2 0) s

/-- Routes at bring-up (R446): a die without one goes out of service, with its record. -/
def cutDies (s : State) : State :=
  (List.range 8).foldl (fun s d => match routeOf s d with
    | none => s.modDie d fun x => { x with route := none }
    | some (some n) => s.modDie d fun x => { x with route := some n }
    | some none => if (s.die d).outOfService then s else addRepair (setDieOut s d true) 10 2 d 0) s

/-- The link a record of KIND 5 or 6 names (R458). -/
def linkOfPart (x : Nat × Nat) : Nat := if x.1 = 5 then x.2 / 16 else x.2 / 2048

/-- Lanes that Slalia trains where some do not: the widest of 8, 4, 2 and 1 (R452). -/
def slaliaWidth (l : List (Nat × Nat)) : Nat :=
  let n := 8 - ((l.filter fun x => x.1 = 9).map fun x => x.2 % 8).eraseDups.length
  if 8 ≤ n then 8 else if 4 ≤ n then 4 else if 2 ≤ n then 2 else n

/-- Every island at an operating point (R16, R19). -/
def allIslands (p : OpPoint) : Sparse OpPoint := (List.range 1024).map fun k => (k, p)

/-- What a step of Table 1.4 does, before it counts as completed. -/
def bootStep (s : State) (k failStep : Nat) (fwver : Half) (untrained : List (Nat × Nat)) : State :=
  let dies : List (Nat × Nat) := if failStep = k then (List.range 8).map fun d => (10, d) else []
  match k with
  | 1 => if failStep = 1 then s else { s with fwver := fwver }
  | 2 => { partFaults (applyRepairs s) [1, 2, 3, 10, 11] (dies ++ untrained) with points := allIslands .reduced }
  | 3 =>
    let ring (x : Nat × Nat) : Bool := 8 ≤ linkOfPart x && linkOfPart x < 16
    cutDies (partFaults s [5, 6, 10] (dies ++ (untrained.filter fun x => x.1 ≠ 10 && ring x) ++ untrained.filter fun x => x.1 ≠ 10 && !ring x))
  | 4 => partFaults s [4, 10] (dies ++ sortBy (fun x : Nat × Nat => x.2) (untrained.filter fun x => x.1 = 4))
  | 6 =>
    let s := partFaults s [7, 8] untrained
    let s := { s with ports := (List.range 24).foldl (fun m p => change m p {} fun x : Port => if x.outOfService then x else { x with linkUp := true }) s.ports }
    let w := slaliaWidth untrained
    if failStep = 6 || w = 0 then s else noteDegraded { s with slalia := { s.slalia with lanes := w }, points := allIslands .nominal }
  | _ => s

/-- Whether a step has failed (R456): for steps 2 to 4, whether no compute die remains. -/
def stepFails (s : State) (k failStep : Nat) (untrained : List (Nat × Nat)) : Bool :=
  match k with
  | 2 => (List.range 8).all fun d => (s.die d).outOfService
  | 3 => (List.range 8).all fun d => (s.die d).outOfService
  | 4 => (List.range 8).all fun d => (s.die d).outOfService
  | 6 => failStep = 6 || slaliaWidth untrained = 0
  | k => failStep = k

/-- The steps of Table 1.4, in order, up to the first that fails. -/
def bringUp (failStep : Nat) (fwver : Half) (untrained : List (Nat × Nat)) : List Nat → State → State
  | [], s => s
  | k :: r, s =>
    let s := bootStep s k failStep fwver untrained
    if stepFails s k failStep untrained then addRepair { s with bootFail := true } 12 4 k 0
    else bringUp failStep fwver untrained r { s with stage := k }

/-- MODULE_RESET (R19, R20, R456): bring-up. `failStep` is a step that fails, 0 for none; at steps 2 to 4 it is that every compute die fails to train;
`untrained` are parts that do not train, as KIND and ID of Table 26.8. -/
def moduleReset (s : State) (failStep : Nat) (fwver : Half) (untrained : List (Nat × Nat)) : State :=
  bringUp failStep fwver untrained [1, 2, 3, 4, 5, 6, 7] (afterReset s)

/-- MODULE_RESET (R19). -/
def execModuleReset (training : Nat × List (Nat × Nat)) (fwver : Half) (s : State) : Host.Outcome State Fault Refusal :=
  done (moduleReset s training.1 fwver training.2)

/-- The level an island runs at (Table 26.3): its thermal level, and for a core island at least 1 in a window after an energy overrun (R455). -/
def islandLevel (s : State) (island : Nat) : Nat := max (look s.levels island 0) (if s.adm.throttled && island < 768 then 1 else 0)

/-- The operating point of an island (R16): what the harbourmaster has brought it to, but a nominal one is reduced at a level above 0 (Table 26.3). -/
def islandPoint (s : State) (island : Nat) : OpPoint :=
  let p := look s.points island .gated
  if p = .nominal && islandLevel s island ≠ 0 then .reduced else p

/-- The harbourmaster sets the operating point of one island (R16). -/
def setIsland (s : State) (island : Nat) (p : OpPoint) : State := if island < 1024 then { s with points := put s.points island p .gated } else s

/-! ### Dies in reset and links, as operations -/

/-- DIE_RESET (R447). -/
def execDieReset (die : Nat) (s : State) : Host.Outcome State Fault Refusal := done (dieReset s die)

/-- DIE_RETURN (R448): the die leaves reset, or stays out of service where a step fails; one that was out of service returns. -/
def dieReturn (s : State) (d : Nat) (passed : Bool) : State :=
  let x := s.die d
  if !x.inReset && !x.outOfService then s
  else if passed then
    let s := wakeDie ((setDieOut s d false).modDie d fun x => { x with inReset := false }) d
    if x.outOfService then addRepair s 10 3 d 0 else noteDegraded s
  else if x.outOfService then s
  else addRepair (wakeDie ((setDieOut s d true).modDie d fun x => { x with inReset := false }) d) 10 2 d 0

/-- DIE_RETURN (R448). -/
def execDieReturn (die : Nat) (passed : Bool) (s : State) : Host.Outcome State Fault Refusal := done (dieReturn s die passed)

/-! ### Pontoon links (R444 to R446) -/

/-- 2^16 fabric clocks in core clocks. -/
def fabricWindow : Nat := 98304

/-- A retrain begins (R445). -/
def startRetrain (s : State) (k : Nat) : State :=
  if (look s.links k {}).retraining then s
  else
    let s : State := { s with links := change s.links k {} fun l : Link =>
      { l with retraining := true, retrainAt := s.clock, retrains := l.retrains + 1, replays := [] } }
    modRing s { source := 17, fcode := BitVec.ofNat 32 k }

/-- LINK_RETRAIN (R445): a lane has lost its signal. -/
def execLinkRetrain (link : Nat) (s : State) : Host.Outcome State Fault Refusal := done (startRetrain s link)

/-- FLIT_CRC_ERROR (R444, R445): a replay is requested; the eighth within 2^16 fabric clocks starts a retrain. -/
def flitError (s : State) (k : Nat) : State :=
  let l := look s.links k {}
  if l.retraining then s
  else
    let now := (l.replays.filter fun t => s.clock < t + fabricWindow) ++ [s.clock]
    let s : State := { s with links := put s.links k { l with replays := now } {} }
    if 8 ≤ now.length then startRetrain s k else s

/-- FLIT_CRC_ERROR (R444). -/
def execFlitCrcError (link : Nat) (s : State) : Host.Outcome State Fault Refusal := done (flitError s link)

/-- RETRAIN_COMPLETE (R446): modules that cannot be repaired are disabled, routes change, a die without a route is put in reset. The event is that of a retrain
whose modules `failed` could not be repaired; it comes within 2^16 fabric clocks (R445), which the fixed choice of Machine/Plan.lean keeps. -/
def retrainComplete (s : State) (k : Nat) (failed : Byte) : State :=
  let l := look s.links k {}
  if !l.retraining then s
  else
    let failed := failed &&& BitVec.ofNat 8 (2 ^ linkModules k - 1)
    let s : State := { s with links := put s.links k { l with retraining := false, failed := l.failed ||| failed } {} }
    let new := (List.range (linkModules k)).filter fun m => failed.getLsbD m && !l.failed.getLsbD m
    let s := new.foldl (fun s m => addRepair s 5 2 (16 * k + m) 0) s
    rerouteAll s

/-- RETRAIN_COMPLETE (R446). -/
def execRetrainComplete (link : Nat) (failed : BitVec 8) (s : State) : Host.Outcome State Fault Refusal :=
  done (retrainComplete s link failed)

/-! ### Optical ports (R351, R352, R450) -/

/-- The clock runs to a multiple of `n`, if it is not at one. -/
def tickTo (s : State) (n : Nat) : State := if s.clock % n = 0 then s else s.tick (n - s.clock % n)

/-- SELF_WAKE_COMPARE (R352): every 1,024 fabric clocks a port whose queue is deeper than WAKEDEPTH wakes its parked groups. -/
def selfWake (s : State) (k : Nat) : State :=
  let s := tickTo s 1536
  let p := (look s.ports k {}).drain s.clock
  let p := if clamp p.wakeDepth.toNat 1 4096 < p.depth then wakePort p p.parked s.clock else p
  { s with ports := put s.ports k p {} }

/-- SELF_WAKE_COMPARE (R352). -/
def execSelfWakeCompare (port : Nat) (s : State) : Host.Outcome State Fault Refusal := done (selfWake s port)

/-- WAKE_COMPLETE (R352): the group whose wake runs joins the striping 2,520 clocks after the wake began; the next wake begins. -/
def wakeComplete (s : State) (k : Nat) : State :=
  match (look s.ports k {}).waker with
  | none => s
  | some (_, t) =>
    let s := if s.clock < t then s.tick (t - s.clock) else s
    { s with ports := change s.ports k {} fun p => joinPort p s.clock }

/-- WAKE_COMPLETE (R352). -/
def execWakeComplete (port : Nat) (s : State) : Host.Outcome State Fault Refusal := done (wakeComplete s port)

/-- WAVELENGTH_FAIL (R450). -/
def wavelengthFail (s : State) (k lambda : Nat) : State :=
  let g := lambda / 4
  let p := look s.ports k {}
  if p.retired.getLsbD g then s
  else
    let s := retireGroup s k g
    let gone := (look s.ports k {}).outOfService && !p.outOfService
    let s := addRepair s 7 2 (4 * k + g) 0
    if gone then addRepair s 8 2 k 0 else s

/-- WAVELENGTH_FAIL (R450). -/
def execWavelengthFail (port lambda : Nat) (s : State) : Host.Outcome State Fault Refusal := done (wavelengthFail s port lambda)

/-! ### Slalia (R452, R453) -/

def slaliaEntry (s : State) (code : Nat) : State := modRing s { source := 20, fcode := BitVec.ofNat 32 code }

/-- SLALIA_RETRAIN (R452): the link trains at a width. -/
def execSlaliaRetrain (lanes : Nat) (s : State) : Host.Outcome State Fault Refusal :=
  done (if s.slalia.lost then s
    else
      let narrower := decide (lanes < s.slalia.lanes)
      slaliaEntry (noteDegraded { s with slalia := { s.slalia with lanes := lanes } }) (if narrower then 1 else 0))

/-- SLALIA_LOST (R452): every HOST-path access is abandoned; a write on its way may have reached the host or not. -/
def execSlaliaLost (s : State) : Host.Outcome State Fault Refusal :=
  done (if s.slalia.lost then s
    else
      let n := s.hostPending.length
      let s := showHost s fun k w => Config.freeHost (s.free + k) w.addr
      slaliaEntry (noteDegraded { s with slalia := { s.slalia with lost := true }, hostPending := [], free := s.free + n }) 2)

/-! ### Heat (R454) -/

/-- The level a temperature calls for (Table 26.3). -/
def levelFor (celsius : Nat) : Nat := if 105 ≤ celsius then 2 else if 95 ≤ celsius then 1 else 0

/-- The threshold of a level. -/
def threshold (level : Nat) : Nat := match level with | 0 => 0 | 1 => 95 | 2 => 105 | _ => 115

/-- The first change of an island's level in a tempo period is reported (R454). -/
def noteLevel (s : State) (island level : Nat) : State :=
  if s.levelLogged.contains island then s
  else modRing { s with levelLogged := island :: s.levelLogged } { source := 18, fcode := BitVec.ofNat 32 (island + 65536 * level) }

/-- An island's level changes. -/
def setLevel (s : State) (island level : Nat) : State :=
  if look s.levels island 0 = level then s
  else
    let t := { s with levels := put s.levels island level 0 }
    if islandLevel t island = islandLevel s island then t else noteLevel t island (islandLevel t island)

/-- The level a sample calls for: 3 for a core island at 115 °C or more (Table 26.3). -/
def calledLevel (island celsius : Nat) : Nat := if 115 ≤ celsius && island < 768 then 3 else levelFor celsius

/-- THERMAL_SAMPLE (R454): at a multiple of 2^12 clocks an island's temperature and the coolant are read. -/
def thermalSample (s : State) (island celsius : Nat) (coolantBad : Bool) : State :=
  let s := tickTo s 4096
  let now := look s.levels island 0
  let floor := if coolantBad then 1 else 0
  let up := max now (max floor (calledLevel island celsius))
  let s := setLevel s island up
  let s := if coolantBad && !s.coolantBad then
      let s := { s with hub := { s.hub with svcReq := true } }
      (List.range 1024).foldl (fun s i => setLevel s i (max 1 (look s.levels i 0))) s
    else s
  let s := { s with coolantBad := coolantBad }
  let cool := decide (celsius + 5 ≤ threshold up) && up ≠ 0
  let s := { s with coolSince := put s.coolSince island (if cool then (let t := look s.coolSince island 0; if t = 0 then s.clock + 1 else t) else 0) 0 }
  if calledLevel island celsius = 3 then dieReset s (dieOf island) else s

/-- THERMAL_SAMPLE (R454). -/
def execThermalSample (island celsius : Nat) (coolantBad : Bool) (s : State) : Host.Outcome State Fault Refusal :=
  done (thermalSample s island celsius coolantBad)

/-- THERMAL_LEVEL_RETURN (R454): after 2^20 clocks 5 °C below the threshold an island returns one level. -/
def thermalReturn (s : State) (island : Nat) : State :=
  let level := look s.levels island 0
  let since := look s.coolSince island 0
  if level = 0 || since = 0 || (s.coolantBad && level = 1) then s
  else
    let due := since - 1 + 2 ^ 20
    let s := if s.clock < due then s.tick (due - s.clock) else s
    setLevel { s with coolSince := put s.coolSince island 0 0 } island (level - 1)

/-- THERMAL_LEVEL_RETURN (R454). -/
def execThermalLevelReturn (island : Nat) (s : State) : Host.Outcome State Fault Refusal := done (thermalReturn s island)

/-! ### Soft errors (R414, R415) -/

def satInc (n top : Nat) : Nat := min (n + 1) top

/-- An error is counted on a die (Table 24.5). -/
def countError (s : State) (d : Nat) (ue : Bool) : State :=
  if ue then { s with hub := { s.hub with serrUe := change s.hub.serrUe d 0 fun n => satInc n 0xFFFF } }
  else { s with hub := { s.hub with serrCe := change s.hub.serrCe d 0 fun n => satInc n 0xFFFFFFFF } }

/-- Lost lines that the table of a slice holds, and the lines it can hold: 64, and those of its partner's table joined to it (R414, Table 26.2). -/
def tableFull (s : State) (d sl : Nat) : Bool :=
  (if (s.die d).slicesOut.contains (sl ^^^ 1) then 128 else 64) ≤ ((s.die d).lost.filter fun l => servingSlice s l = sl).length

/-- A line enters the lost-line table of its slice; a slice whose table fills goes out of service (R414, Table 26.2). -/
def loseLine (s : State) (line code : Nat) : State :=
  let d := homeOf line
  if (s.die d).lost.contains line then s
  else
    let s := s.modDie d fun x => { x with lost := line :: x.lost, lostCode := put x.lostCode line code 9 }
    let s := modRing s { source := 6, faddr := BitVec.ofNat 64 (128 * line), fcode := BitVec.ofNat 32 code }
    let sl := servingSlice s line
    if tableFull s d sl && !(s.die d).slicesOut.contains sl then addRepair (setSliceOut s d sl true) 2 2 (16 * d + sl) 0 else s

/-- The team a soft error of its state names: core and team slot as 16 · core + slot, modulo 12,288 (notes/assumptions/64.md). -/
def errorTeam (s : State) (addr : Nat) : Option Team :=
  s.allTeams.find? fun t => 16 * t.core + t.tslot = addr % 12288

/-- Whether the damaged word is one a promotion replay reads: the quotient of the address by 12,288 is odd. -/
def replayRead (t : Team) (addr : Nat) : Option MatWord :=
  if addr / 12288 % 2 = 1 then t.words.find? fun w => w.replay else none

/-- Damage to per-team state (R414). -/
def teamError (s : State) (code addr : Nat) : State :=
  match errorTeam s addr with
  | none => s
  | some t =>
    match (if code = 1 || code = 4 then replayRead t addr else none) with
    | some w => failReplay s t.uid (jointTile w.word) w
    | none => forcedReset s t.asid 3 (some (0, code))

/-- Damage to a copy of a line (Table 24.6, code 7): of the home slice at place 0, of RDC partition n at place n + 1. A dirty copy is lost, a clean one is dropped
and refilled. -/
def cacheError (s : State) (line place : Nat) : State :=
  if place = 0 then
    match (s.die (homeOf line)).l2.find? fun e => e.line = line with
    | some e => if e.dirty then loseLine (l2Evict (dropRemote s line) line) line 7 else l2Evict s line
    | none => s
  else
    match rdcLine s (place - 1) line with
    | some e => if e.state = .M || e.state = .O then loseLine (l2Evict (dropRemote s line) line) line 7 else rdcEvictLine s (place - 1) line
    | none => s

/-- Damage to an entry of a code 6 structure of a unit (Table 24.6), which is dropped: structure 0 the core's first-level TLB, 1 its die's TLB, 2 its residency
cache, 3 its quay's gambit predictor. A profile store is loaded again from the image of the last `.profload`, which the model keeps, and an optical die's structures hold no
entry of their own: both leave the state as it is. -/
def entryError (s : State) (core which n : Nat) : State :=
  match which with
  | 0 => match (s.core core).tlb[n]? with
    | some e => (flushEntry s e).modCore core fun c => { c with tlb := c.tlb.eraseIdx n }
    | none => s
  | 1 => match (s.die (dieOf core)).tlb[n]? with
    | some e => (flushEntry s e).modDie (dieOf core) fun d => { d with tlb := d.tlb.eraseIdx n }
    | none => s
  | 2 => s.modCore core fun c => { c with residency := c.residency.eraseIdx n }
  | 3 => { s with predictors := change s.predictors (core / 8) [] fun p => put p (n % 256) 0 0 }
  | _ => s

/-- The cells of a line change: what they hold is off by these values at these byte positions of its codeword (R415). -/
def hitCells (s : State) (line : Nat) (es : List (Nat × Byte)) : State :=
  let old := ((s.damage.find? fun x => x.1 = line).map fun x => x.2).getD []
  let all := (es.filter fun e => decide (e.1 < 130)).foldl (fun (m : Sparse Byte) e => change m e.1 0 fun b => b ^^^ e.2) old
  let rest := s.damage.filter fun x => x.1 ≠ line
  { s with damage := if all.isEmpty then rest else rest ++ [(line, all)] }

/-- A controller reads a line of memory whose cells hold errors (R415): one in one byte is corrected and the line written back; so is, to wrong data and unreported, one in
more bytes whose syndrome names a byte position; otherwise the line is lost, unless its slice holds a copy, which is written back (R414). -/
def readCells (s : State) (line : Nat) : State :=
  match s.damage.find? fun x => x.1 = line with
  | none => s
  | some (_, es) =>
    let d := homeOf line
    let clean (s : State) : State := { s with damage := s.damage.filter fun x => x.1 ≠ line }
    if es.length ≤ 1 then clean (countError s d false)
    else match Config.freeSyndrome line es with
      | some e =>
        let put1 (m : Memory) (e : Nat × Byte) : Memory := if e.1 < 128 then memPut m (128 * line + e.1) (memByte m (128 * line + e.1) ^^^ e.2) else m
        let cached := (s.die d).l2.any fun x => x.line = line
        clean (countError (if cached then s else { s with mem := (es ++ [e]).foldl put1 s.mem }) d false)
      | none =>
        let s := countError s d true
        if (s.die d).l2.any fun x => x.line = line then clean s else loseLine s line 9

/-- The die on which an error is counted (Table 24.5): its core's, its line's home, the landing for an RDC partition, an optical die. -/
def errorDie (code addr : Nat) : Nat :=
  let core := addr / 2 ^ 32 % 1024
  if code = 6 && addr / 2 ^ 28 % 16 = 5 then 9 + core % 4
  else if code = 2 || code = 6 then dieOf (core % 768)
  else if code = 7 && addr / 2 ^ 39 % 9 ≠ 0 then 8
  else if 7 ≤ code then homeOf (addr / 128 % 2 ^ 32)
  else dieOf (addr % 12288 / 16)

/-- SOFT_ERROR (R414, Table 24.6): the structure's code, where the error is, and whether it could be corrected. A line address is a PA, for code 7 with the place of the
copy above bit 39; a structure of a core is 2^32 · core + line, or for code 6 + 2^28 · structure + entry (notes/assumptions/64.md). Of a line of memory whose cells hold
errors they say what the controller finds. -/
def softError (s : State) (code addr : Nat) (uncorrectable : Bool) : State :=
  let core := addr / 2 ^ 32 % 1024 % 768
  let line := addr / 128 % 2 ^ 32
  if code = 9 && s.damage.any fun x => x.1 = line then readCells s line
  else
    let s := countError s (errorDie code addr) uncorrectable
    if !uncorrectable then s
    else match code with
      | 2 => s.modCore core fun c => { c with l1 := c.l1.filter fun e : L1Line => e.line ≠ addr % 2 ^ 32 }
      | 6 => entryError s core (addr / 2 ^ 28 % 16) (addr % 2 ^ 28)
      | 7 => cacheError s line (addr / 2 ^ 39 % 9)
      | 8 =>
        let hit (e : DirEntry) : Bool := e.line % 16384 = line % 16384 && servingSlice s e.line = servingSlice s line
        ((s.die (homeOf line)).directory.filter hit).foldl (fun s e => dropRemote s e.line) s
      | 9 => loseLine s line 9
      | c => teamError s c addr

/-- SOFT_ERROR (R414). -/
def execSoftError (code addr : Nat) (uncorrectable : Bool) (s : State) : Host.Outcome State Fault Refusal :=
  done (softError s code addr uncorrectable)

/-- PATROL_SCRUB (R415): every line of a channel is read, those whose cells hold errors among them; a lost line adds no second table entry. -/
def patrolScrub (s : State) (die channel : Nat) : State :=
  (s.damage.filter fun x => homeOf x.1 = die && sliceOfLine x.1 / 2 = channel && !(s.die die).lost.contains x.1).foldl (fun s x => readCells s x.1) s

/-- PATROL_SCRUB (R415). -/
def execPatrolScrub (die channel : Nat) (s : State) : Host.Outcome State Fault Refusal := done (patrolScrub s die channel)

/-! ### Drains (R420) -/

/-- DRAIN_DEADLINE (R420). -/
def drainDeadline (s : State) (asid : BitVec 12) : State :=
  let c := s.ctl asid
  if !c.drain || !c.dlEn || pstate s asid ≠ 1 then s
  else
    let due := c.drainAt + 2 ^ clamp c.dlExp.toNat 16 30
    forcedReset (if s.clock < due then s.tick (due - s.clock) else s) asid 2

/-- DRAIN_DEADLINE (R420). -/
def execDrainDeadline (asid : BitVec 12) (s : State) : Host.Outcome State Fault Refusal := done (drainDeadline s asid)

end Sys2Proof.Machine
end

