-- ==== Sys2Proof/Machine/Meter.lean ====
section
/-!
DEFINITION. Meters and energy counts (18 R355 to R357), tempo sampling (18 R358, R360, 15 R325), and the windows of energy admission (16
R342, 26 R455).
-/
namespace Sys2Proof.Machine

/-- The clock runs to `t`, unless it is there already. -/
def runTo (s : State) (t : Nat) : State := if s.clock < t then s.tick (t - s.clock) else s

/-! ### Energy (R355 to R357) -/

/-- Whether a copy, stream or traversal command of a team was in progress in the interval. -/
def usedEngines (s : State) (t : Team) : Bool :=
  t.engines || s.commands.any fun c => c.uid = t.uid && inProgress c && (c.major = 0x38 || c.major = 0x3A || c.major = 0x3C)

/-- A team's activity units of the interval (R356): issue clocks of its groups, 16 times its matrix clocks, and the busy clocks of its copy, stream
and traversal commands, which are free: the manual gives those services no durations. -/
def teamUnits (s : State) (t : Team) : Nat :=
  ((s.groupsOf t.uid).map fun g => g.units).sum + t.goneUnits + 16 * t.units + if usedEngines s t then Config.freeBusy s.free t.uid else 0

/-- A share in nJ joins a count of µJ and a carried fraction. -/
def addShare (uj frac nj : Nat) : Nat × Nat := (uj + (frac + nj) / 1000, (frac + nj) % 1000)

/-- A context's count rises by a share in nJ. -/
def ctxShare (s : State) (asid nj : Nat) : State :=
  { s with ctxRes := change s.ctxRes asid {} fun r : CtxRes =>
      let e := addShare r.energy r.energyFrac nj
      { r with energy := e.1, energyFrac := e.2 } }

/-- A team's count rises by a share in nJ. -/
def Team.share (t : Team) (nj : Nat) : Team :=
  let e := addShare t.energy t.energyFrac nj
  { t with energy := e.1, energyFrac := e.2 }

/-- A core island's energy is divided among the teams on the core by units (R356). -/
def divideCore (s : State) (core uj : Nat) : State :=
  let mine := s.allTeams.filter fun t => t.core = core
  let total := (mine.map fun t => teamUnits s t).sum
  if total = 0 then s
  else
    let part (t : Team) : Nat := 1000 * uj * teamUnits s t / total
    let f (t : Team) : Team := if t.uid ≠ 0 && t.core = core then t.share (part t) else t
    let s := mine.foldl (fun s t => ctxShare s t.asid.toNat (part t)) s
    { s with team := f s.team, teams := s.teams.map f }

/-- A shared island's energy is divided among contexts by the requests it served for each (R357). -/
def divideShared (s : State) (island uj : Nat) : State :=
  let mine := s.served.filter fun e => e.1 / 4096 = island
  let total := (mine.map fun e => e.2).sum
  mine.foldl (fun s e => ctxShare s (e.1 % 4096) (1000 * uj * e.2 / total)) s

/-- The units and requests of the interval are cleared. -/
def clearUnits (s : State) : State :=
  let g (x : Group) : Group := { x with units := 0 }
  let f (t : Team) : Team := { t with units := 0, goneUnits := 0, engines := false, groups := t.groups.map g }
  { s with grp := g s.grp, team := f s.team, teams := s.teams.map f, served := [] }

/-- Counts that `.enset` KIND 1 has asked to clear (R283, R357). -/
def clearCounts (s : State) : State :=
  { s with ctxRes := (s.ctxRes.map fun e => e.1).foldl (fun m k => change m k {} fun r : CtxRes =>
      if r.clearEnergy then { r with energy := 0, energyFrac := 0, clearEnergy := false } else r) s.ctxRes }

/-- What an island's meter reads in µJ: as given, or a free value (R355). -/
def reading (s : State) (readings : List (Nat × Nat)) (island : Nat) : Nat :=
  match readings.find? fun r => r.1 = island with
  | some r => r.2
  | none => Config.freeEnergy s.free island

/-- ENERGY(n) of one island rises, and its energy is attributed. -/
def meterIsland (s : State) (island uj : Nat) : State :=
  let s := { s with hub := { s.hub with energy := change s.hub.energy island 0 (· + uj) },
                    adm := { s.adm with metered := s.adm.metered + uj } }
  if island < 768 then divideCore s island uj else divideShared s island uj

/-- ENERGY_BOUNDARY (R355 to R357): every counter is updated at the next boundary of 2,100 clocks. -/
def energyBoundary (s : State) (readings : List (Nat × Nat)) : State :=
  let s := runTo { s with energyAt := s.energyAt + 1 } ((s.energyAt + 1) * 2100)
  let s := (List.range 1024).foldl (fun s i => meterIsland s i (reading s readings i)) s
  clearCounts (clearUnits { s with free := s.free + 1 })

/-- ENERGY_BOUNDARY (R355). -/
def execEnergyBoundary (readings : List (Nat × Nat)) (s : State) : Host.Outcome State Fault Refusal := done (energyBoundary s readings)

/-! ### Tempo sampling (R358, R360, R325) -/

/-- The recent-miss filters of all cores are cleared (R325). -/
def clearFilters (s : State) : State :=
  let cores := (s.cores.map fun c => c.1).foldl (fun m k => change m k ({} : Core) fun x : Core =>
    { x with filter := [], filterNext := 0 }) s.cores
  let res := (s.ctxRes.map fun c => c.1).foldl (fun m k => change m k ({} : CtxRes) fun x : CtxRes =>
    { x with fbDropLogged := false }) s.ctxRes
  { s with cores := cores, ctxRes := res }

/-- Counts saturate at 2^32 − 1 (R358). -/
def count32 (n : Nat) : Nat := min n 0xFFFFFFFF

/-- Clocks of stretches before a clock, each counted once. -/
def clocksBefore (tick : Nat) (l : List (Nat × Nat)) : Nat :=
  ((sortBy (fun x : Nat × Nat => x.1) l).foldl (fun acc x =>
    let b := min tick x.2
    (acc.1 + (b - max acc.2 x.1), max acc.2 b)) (0, 0)).1

/-- BUSY and STALL of an island at a tick: as counted in a core; of a port group from the queues of its ports (R351, R381); free in another shared island, whose services have
no stated durations (Table 18.1). -/
def countsOf (s : State) (tick island : Nat) : Nat × Nat :=
  if island < 768 then (count32 (look s.busy island 0), count32 (look s.stallCnt island 0))
  else if 1008 ≤ island then
    let ps := (s.ports.filter fun p => portIsland p.1 = island).map fun p => p.2
    (count32 (clocksBefore tick (ps.flatMap fun p => p.sends)), count32 (clocksBefore tick (ps.flatMap fun p => p.waits)))
  else (count32 (Config.freeCount s.free island), count32 (Config.freeCount s.free (1024 + island)))

/-- What of stretches falls at a clock or after it. -/
def stretchesFrom (tick : Nat) (l : List (Nat × Nat)) : List (Nat × Nat) :=
  (l.filter fun x => tick < x.2).map fun x => (max tick x.1, x.2)

/-- Every island latches its counts of the clocks before a tick and clears them (R358). -/
def latchCounts (s : State) (tick : Nat) : State :=
  let s := { s with ports := s.ports.map fun (p : Nat × Port) => (p.1, p.2.drain s.clock) }
  { s with latched := (List.range 1024).foldl (fun m i => put m i (countsOf s tick i) (0, 0)) [],
           busy := s.busyNext, stallCnt := s.stallNext, busyNext := [], stallNext := [],
           ports := s.ports.map fun (p : Nat × Port) => (p.1, { p.2 with sends := stretchesFrom tick p.2.sends, waits := stretchesFrom tick p.2.waits }),
           free := s.free + 1 }

/-- The sample record of an island (Table 18.3), of the tick at a clock (R360). -/
def sampleRecord (tick : Nat) (s : State) (island : Nat) : State :=
  let l := look s.latched island (0, 0)
  traceWrite s 0 1 island (l.1 + l.2 * 2 ^ 32 + look s.hub.energy island 0 % 2 ^ 64 * 2 ^ 64) (some tick)

/-- TEMPO_TICK (R358, R360): the next tick comes; a setting that waits for it takes effect (R283). -/
def tempoTick (s : State) : State :=
  if !s.trace.tempo then s
  else
    let tick := s.trace.t0 + s.trace.ticks * 2 ^ s.trace.k
    let s := runTo s tick
    let s := latchCounts { s with trace := { s.trace with ticks := s.trace.ticks + 1 } } tick
    let s := if s.trace.mielien then (List.range 1024).foldl (sampleRecord tick) s else s
    let s := { clearFilters s with levelLogged := [] }
    match s.trace.next with
    | some n => startTrace s n
    | none => s

/-- TEMPO_TICK (R358). -/
def execTempoTick (s : State) : Host.Outcome State Fault Refusal := done (tempoTick s)

/-- FEEDBACK_FILTER_CLEAR (R325): every 2^16 clocks while tempo sampling is off. -/
def filterClear (s : State) : State :=
  if s.trace.tempo then s
  else
    let t := s.filterAt + 2 ^ 16
    clearFilters (runTo { s with filterAt := t } t)

/-- FEEDBACK_FILTER_CLEAR (R325). -/
def execFeedbackFilterClear (s : State) : Host.Outcome State Fault Refusal := done (filterClear s)

/-! ### Admission windows (R342, R455) -/

/-- By how much the window's metered energy overruns, in µJ; none where it keeps to the bounds of R455. -/
def overrun (a : Admission) : Option Nat :=
  if 2400000 < a.metered then some (a.metered - 2400000)
  else if a.allowance * 11 < a.metered * 10 then some (a.metered - a.allowance)
  else none

/-- Every core island whose level changes as a throttled window begins or ends reports it, where it is the first change of the tempo period (R454, R455). -/
def noteThrottle (s : State) : State :=
  (List.range 768).foldl (fun s i => if look s.levels i 0 = 0 then noteLevel s i (islandLevel s i) else s) s

/-- ADMISSION_WINDOW (R342, R455): the next window starts with its budget. -/
def admissionWindow (s : State) : State :=
  let a := s.adm
  let s := runTo s ((a.window + 1) * 2100000)
  let exceed := overrun a
  let s := { s with adm := { a with
    window := a.window + 1, charged := 0, first := true, carry := (max 0 a.excess).toNat, excess := 0, metered := 0,
    throttled := exceed.isSome, allowance := a.next.getD a.allowance, next := none } }
  let s := match exceed with
    | some n => modRing s { source := 19, fcode := BitVec.ofNat 32 (min n 0xFFFFFFFF) }
    | none => s
  if a.throttled = exceed.isSome then s else noteThrottle s

/-- ADMISSION_WINDOW (R342). -/
def execAdmissionWindow (s : State) : Host.Outcome State Fault Refusal := done (admissionWindow s)

end Sys2Proof.Machine
end

