-- ==== Sys2Proof/Machine/Dispatch.lean ====
section
/-!
DEFINITION. One arm per row of spec/opcode_table.json.
-/
namespace Sys2Proof.Machine

def exec (i : Instr) (s : State) : Host.Outcome State Fault Refusal :=
  match i with
  | .iadd k d a b f h => Sys2Proof.Machine.execIadd k d a b f h s
  | .isub k d a b f h => Sys2Proof.Machine.execIsub k d a b f h s
  | .imul k d a b f h => Sys2Proof.Machine.execImul k d a b f h s
  | .imad k d a b c => Sys2Proof.Machine.execImad k d a b c s
  | .imnmx k d a b f h => Sys2Proof.Machine.execImnmx k d a b f h s
  | .logic k d a b f h => Sys2Proof.Machine.execLogic k d a b f h s
  | .shift k d a b f h => Sys2Proof.Machine.execShift k d a b f h s
  | .bfe k d a b f h => Sys2Proof.Machine.execBfe k d a b f h s
  | .bfi k d a b c => Sys2Proof.Machine.execBfi k d a b c s
  | .bitc k d a f h => Sys2Proof.Machine.execBitc k d a f h s
  | .isetp k n p a b sf h => Sys2Proof.Machine.execIsetp k n p a b sf h s
  | .iaddi k d a im => Sys2Proof.Machine.execIaddi k d a im s
  | .andi k d a im => Sys2Proof.Machine.execAndi k d a im s
  | .ori k d a im => Sys2Proof.Machine.execOri k d a im s
  | .xori k d a im => Sys2Proof.Machine.execXori k d a im s
  | .shifti k d a f n => Sys2Proof.Machine.execShifti k d a f n s
  | .dp4 k d a b c => Sys2Proof.Machine.execDp4 k d a b c s
  | .sad k d a b c => Sys2Proof.Machine.execSad k d a b c s
  | .iadd64 k d a b f h => Sys2Proof.Machine.execIadd64 k d a b f h s
  | .fadd k d a b f h => Sys2Proof.Machine.execFadd k d a b f h s
  | .fsub k d a b f h => Sys2Proof.Machine.execFsub k d a b f h s
  | .fmul k d a b f h => Sys2Proof.Machine.execFmul k d a b f h s
  | .ffma k d a b c => Sys2Proof.Machine.execFfma k d a b c s
  | .hfma2 k d a b c => Sys2Proof.Machine.execHfma2 k d a b c s
  | .dfma k d a b c => Sys2Proof.Machine.execDfma k d a b c s
  | .bfma2 k d a b c => Sys2Proof.Machine.execBfma2 k d a b c s
  | .fmnmx k d a b f h => Sys2Proof.Machine.execFmnmx k d a b f h s
  | .fsetp k n p a b t h => Sys2Proof.Machine.execFsetp k n p a b t h s
  | .sfu k d a f h => Sys2Proof.Machine.execSfu k d a f h s
  | .fround k d a f h => Sys2Proof.Machine.execFround k d a f h s
  | .cvt k d a sf r t h => Sys2Proof.Machine.execCvt k d a sf r t h s
  | .fdot2 k d a b c => Sys2Proof.Machine.execFdot2 k d a b c s
  | .fclamp k d a b c => Sys2Proof.Machine.execFclamp k d a b c s
  | .mov k d a f h => Sys2Proof.Machine.execMov k d a f h s
  | .movi k d im => Sys2Proof.Machine.execMovi k d im s
  | .movhi k d im => Sys2Proof.Machine.execMovhi k d im s
  | .sel k d a b p => Sys2Proof.Machine.execSel k d a b p s
  | .xlane k d a b f h => Sys2Proof.Machine.execXlane k d a b f h s
  | .vote k d p f h => Sys2Proof.Machine.execVote k d p f h s
  | .redux k a f h => Sys2Proof.Machine.execRedux k a f h s
  | .qpop k d h => Sys2Proof.Machine.execQpop k d h s
  | .qpush k a h => Sys2Proof.Machine.execQpush k a h s
  | .ldx k d x im => Sys2Proof.Machine.execLdx k d x im s
  | .stx k d x im => Sys2Proof.Machine.execStx k d x im s
  | .xset k x a f h => Sys2Proof.Machine.execXset k x a f h s
  | .rdid k d f h => Sys2Proof.Machine.execRdid k d f h s
  | .ld k d a f o => Sys2Proof.Machine.execLd k d a f o s
  | .st k d a f o => Sys2Proof.Machine.execSt k d a f o s
  | .atom k d a b f h => Sys2Proof.Machine.execAtom k d a b f h s
  | .cas k d a b c => Sys2Proof.Machine.execCas k d a b c s
  | .red k a b f h => Sys2Proof.Machine.execRed k a b f h s
  | .lds k d a f o => Sys2Proof.Machine.execLds k d a f o s
  | .sts k d a f o => Sys2Proof.Machine.execSts k d a f o s
  | .atoms k d a b f h => Sys2Proof.Machine.execAtoms k d a b f h s
  | .pref k a f o => Sys2Proof.Machine.execPref k a f o s
  | .ldlod k d c sf f => Sys2Proof.Machine.execLdlod k d c sf f s
  | .sample k d c sf f => Sys2Proof.Machine.execSample k d c sf f s
  | .bdiv k p j q o => Sys2Proof.Machine.execBdiv k p j q o s
  | .join k j => Sys2Proof.Machine.execJoin k j s
  | .strike k p j => Sys2Proof.Machine.execStrike k p j s
  | .lexit k p => Sys2Proof.Machine.execLexit k p s
  | .callr k p j q o => Sys2Proof.Machine.execCallr k p j q o s
  | .lret k => Sys2Proof.Machine.execLret k s
  | .sadd k d a b f => Sys2Proof.Machine.execSadd k d a b f s
  | .ssub k d a b f => Sys2Proof.Machine.execSsub k d a b f s
  | .smul k d a b f => Sys2Proof.Machine.execSmul k d a b f s
  | .slogic k d a b f => Sys2Proof.Machine.execSlogic k d a b f s
  | .sshift k d a b f => Sys2Proof.Machine.execSshift k d a b f s
  | .smnmx k d a b f => Sys2Proof.Machine.execSmnmx k d a b f s
  | .sbitc k d a f => Sys2Proof.Machine.execSbitc k d a f s
  | .scmp k n p a b sf => Sys2Proof.Machine.execScmp k n p a b sf s
  | .saddi k d a im => Sys2Proof.Machine.execSaddi k d a im s
  | .sandi k d a im => Sys2Proof.Machine.execSandi k d a im s
  | .sori k d a im => Sys2Proof.Machine.execSori k d a im s
  | .sxori k d a im => Sys2Proof.Machine.execSxori k d a im s
  | .sshifti k d a f n => Sys2Proof.Machine.execSshifti k d a f n s
  | .smovi k d im => Sys2Proof.Machine.execSmovi k d im s
  | .smovhi k d im => Sys2Proof.Machine.execSmovhi k d im s
  | .sld k d a z o => Sys2Proof.Machine.execSld k d a z o s
  | .sst k d a z o => Sys2Proof.Machine.execSst k d a z o s
  | .satom k d a b f => Sys2Proof.Machine.execSatom k d a b f s
  | .ssel k d a b c => Sys2Proof.Machine.execSsel k d a b c s
  | .sbfe k d a b f => Sys2Proof.Machine.execSbfe k d a b f s
  | .spush k a => Sys2Proof.Machine.execSpush k a s
  | .spop k d => Sys2Proof.Machine.execSpop k d s
  | .rdsys k d n => Sys2Proof.Machine.execRdsys k d n s
  | .wrsys k d n => Sys2Proof.Machine.execWrsys k d n s
  | .rdcnt k d n => Sys2Proof.Machine.execRdcnt k d n s
  | .bra k c o => Sys2Proof.Machine.execBra k c o s
  | .call k c o => Sys2Proof.Machine.execCall k c o s
  | .jmpr k a c => Sys2Proof.Machine.execJmpr k a c s
  | .jmprL k a c => Sys2Proof.Machine.execJmprL k a c s
  | .ret k a c => Sys2Proof.Machine.execRet k a c s
  | .loop k d im => Sys2Proof.Machine.execLoop k d im s
  | .exit k c => Sys2Proof.Machine.execExit k c s
  | .spawn k d a b => Sys2Proof.Machine.execSpawn k d a b s
  | .yield k => Sys2Proof.Machine.execYield k s
  | .nop k => Sys2Proof.Machine.execNop k s
  | .trap k im => Sys2Proof.Machine.execTrap k im s
  | .brk k im => Sys2Proof.Machine.execBrk k im s
  | .tbarMark k n => Sys2Proof.Machine.execTbarMark k n s
  | .tbarHold k n => Sys2Proof.Machine.execTbarHold k n s
  | .tbarMeet k n => Sys2Proof.Machine.execTbarMeet k n s
  | .tbarEnrol k n => Sys2Proof.Machine.execTbarEnrol k n s
  | .cbarMark k n => Sys2Proof.Machine.execCbarMark k n s
  | .cbarHold k n => Sys2Proof.Machine.execCbarHold k n s
  | .cbarMeet k n => Sys2Proof.Machine.execCbarMeet k n s
  | .fence k sf => Sys2Proof.Machine.execFence k sf s
  | .xfence k b m sf => Sys2Proof.Machine.execXfence k b m sf s
  | .publish k a => Sys2Proof.Machine.execPublish k a s
  | .evpop k d c => Sys2Proof.Machine.execEvpop k d c s
  | .evwait k => Sys2Proof.Machine.execEvwait k s
  | .ringwait k a e r => Sys2Proof.Machine.execRingwait k a e r s
  | .ringpost k a e r => Sys2Proof.Machine.execRingpost k a e r s
  | .gang k a => Sys2Proof.Machine.execGang k a s
  | .obres k o a b => Sys2Proof.Machine.execObres k o a b s
  | .obrel k o => Sys2Proof.Machine.execObrel k o s
  | .mma k t r v w sf => Sys2Proof.Machine.execMma k t r v w sf s
  | .mchain k t r v w sf => Sys2Proof.Machine.execMchain k t r v w sf s
  | .mclr k t w sf => Sys2Proof.Machine.execMclr k t w sf s
  | .mld k t p y v w sf => Sys2Proof.Machine.execMld k t p y v w sf s
  | .mst k t p y v w sf => Sys2Proof.Machine.execMst k t p y v w sf s
  | .mdrain k t y v w sf => Sys2Proof.Machine.execMdrain k t y v w sf s
  | .mbound k t v w sf => Sys2Proof.Machine.execMbound k t v w sf s
  | .mwait k w => Sys2Proof.Machine.execMwait k w s
  | .copyG2s k d a b r => Sys2Proof.Machine.execCopyG2s k d a b r s
  | .copyS2g k d a b r => Sys2Proof.Machine.execCopyS2g k d a b r s
  | .copyG2ob k d a b r => Sys2Proof.Machine.execCopyG2ob k d a b r s
  | .copyS2ob k d a b r => Sys2Proof.Machine.execCopyS2ob k d a b r s
  | .copyG2st k d a b r => Sys2Proof.Machine.execCopyG2st k d a b r s
  | .copyS2gt k d a b r => Sys2Proof.Machine.execCopyS2gt k d a b r s
  | .copyG2obt k d a b r => Sys2Proof.Machine.execCopyG2obt k d a b r s
  | .copyK16 k d a b r => Sys2Proof.Machine.execCopyK16 k d a b r s
  | .copyG2g k d a b r => Sys2Proof.Machine.execCopyG2g k d a b r s
  | .gathB32 k d a b r => Sys2Proof.Machine.execGathB32 k d a b r s
  | .gathB64 k d a b r => Sys2Proof.Machine.execGathB64 k d a b r s
  | .gathB128 k d a b r => Sys2Proof.Machine.execGathB128 k d a b r s
  | .travCast k d a b r => Sys2Proof.Machine.execTravCast k d a b r s
  | .travOccl k d a b r => Sys2Proof.Machine.execTravOccl k d a b r s
  | .travShadow k d a b r => Sys2Proof.Machine.execTravShadow k d a b r s
  | .travResume k d a b r => Sys2Proof.Machine.execTravResume k d a b r s
  | .travQuery k d a b r => Sys2Proof.Machine.execTravQuery k d a b r s
  | .buildMorton k d a b r => Sys2Proof.Machine.execBuildMorton k d a b r s
  | .buildSort k d a b r => Sys2Proof.Machine.execBuildSort k d a b r s
  | .buildEmit k d a b r => Sys2Proof.Machine.execBuildEmit k d a b r s
  | .buildRefit k d a b r => Sys2Proof.Machine.execBuildRefit k d a b r s
  | .buildUpdate k d a b r => Sys2Proof.Machine.execBuildUpdate k d a b r s
  | .buildGenpub k d a b r => Sys2Proof.Machine.execBuildGenpub k d a b r s
  | .buildGenret k d a b r => Sys2Proof.Machine.execBuildGenret k d a b r s
  | .buildCompact k d a b r => Sys2Proof.Machine.execBuildCompact k d a b r s
  | .strmIsect k d a b r => Sys2Proof.Machine.execStrmIsect k d a b r s
  | .strmCisect k d a b r => Sys2Proof.Machine.execStrmCisect k d a b r s
  | .strmMerge k d a b r => Sys2Proof.Machine.execStrmMerge k d a b r s
  | .strmDiff k d a b r => Sys2Proof.Machine.execStrmDiff k d a b r s
  | .collAllred k d a b r => Sys2Proof.Machine.execCollAllred k d a b r s
  | .collRedscat k d a b r => Sys2Proof.Machine.execCollRedscat k d a b r s
  | .collAllgath k d a b r => Sys2Proof.Machine.execCollAllgath k d a b r s
  | .collBcast k d a b r => Sys2Proof.Machine.execCollBcast k d a b r s
  | .lodBind k d a b r => Sys2Proof.Machine.execLodBind k d a b r s
  | .lodMrlset k d a b r => Sys2Proof.Machine.execLodMrlset k d a b r s
  | .lodMrlrd k d a b r => Sys2Proof.Machine.execLodMrlrd k d a b r s
  | .lodFbpop k d a b r => Sys2Proof.Machine.execLodFbpop k d a b r s
  | .lodFbstat k d a b r => Sys2Proof.Machine.execLodFbstat k d a b r s
  | .tlbinv k d a b r => Sys2Proof.Machine.execTlbinv k d a b r s
  | .harvest k d a b r => Sys2Proof.Machine.execHarvest k d a b r s
  | .rmapinv k d a b r => Sys2Proof.Machine.execRmapinv k d a b r s
  | .profload k d a b r => Sys2Proof.Machine.execProfload k d a b r s
  | .ctxsave k d a b r => Sys2Proof.Machine.execCtxsave k d a b r s
  | .ctxrestore k d a b r => Sys2Proof.Machine.execCtxrestore k d a b r s
  | .ensetAllowance k d a b r => Sys2Proof.Machine.execEnsetAllowance k d a b r s
  | .ensetClearContext k d a b r => Sys2Proof.Machine.execEnsetClearContext k d a b r s
  | .trcctl k d a b r => Sys2Proof.Machine.execTrcctl k d a b r s
  | .dump k d a b r => Sys2Proof.Machine.execDump k d a b r s
  | .linkctlPark k d a b r => Sys2Proof.Machine.execLinkctlPark k d a b r s
  | .linkctlWake k d a b r => Sys2Proof.Machine.execLinkctlWake k d a b r s
  | .linkctlSetWakeDepth k d a b r => Sys2Proof.Machine.execLinkctlSetWakeDepth k d a b r s
  | .linkctlReadStatus k d a b r => Sys2Proof.Machine.execLinkctlReadStatus k d a b r s
  | .launch k d a b r => Sys2Proof.Machine.execLaunch k d a b r s
  | .fresumeWrite v => Sys2Proof.Machine.execFresumeWrite v s
  | .registerWrite pa n v byHost => Sys2Proof.Machine.execRegisterWrite pa n v byHost s
  | .lqheadWrite queue v => Sys2Proof.Machine.execLqheadWrite queue v s
  | .debugResume asid name => Sys2Proof.Machine.execDebugResume asid name s
  | .pctlDrainWrite asid on => Sys2Proof.Machine.execPctlDrainWrite asid on s
  | .pctlReset asid => Sys2Proof.Machine.execPctlReset asid s
  | .hostBar2Read off n => Sys2Proof.Machine.execHostBar2Read off n s
  | .hostBar2Write off n v => Sys2Proof.Machine.execHostBar2Write off n v s
  | .moduleReset training fwver => Sys2Proof.Machine.execModuleReset training fwver s
  | .helmLaneFetch => Sys2Proof.Machine.execHelmLaneFetch s
  | .breakpointStop entry => Sys2Proof.Machine.execBreakpointStop entry s
  | .runArbitration core quad => Sys2Proof.Machine.execRunArbitration core quad s
  | .ageUrgent core quad => Sys2Proof.Machine.execAgeUrgent core quad s
  | .resultWriteback => Sys2Proof.Machine.execResultWriteback s
  | .loadReturn => Sys2Proof.Machine.execLoadReturn s
  | .runParkEnd => Sys2Proof.Machine.execRunParkEnd s
  | .yieldExpiry => Sys2Proof.Machine.execYieldExpiry s
  | .commitRetire => Sys2Proof.Machine.execCommitRetire s
  | .matrixWordStart tile => Sys2Proof.Machine.execMatrixWordStart tile s
  | .matrixWordComplete tile => Sys2Proof.Machine.execMatrixWordComplete tile s
  | .promotionReplayEnd tile => Sys2Proof.Machine.execPromotionReplayEnd tile s
  | .commandAccept => Sys2Proof.Machine.execCommandAccept s
  | .commandStart cmd => Sys2Proof.Machine.execCommandStart cmd s
  | .recordPlace cmd => Sys2Proof.Machine.execRecordPlace cmd s
  | .enginePageRetry cmd => Sys2Proof.Machine.execEnginePageRetry cmd s
  | .faultTake => Sys2Proof.Machine.execFaultTake s
  | .pageRequest => Sys2Proof.Machine.execPageRequest s
  | .teamSave core slot => Sys2Proof.Machine.execTeamSave core slot s
  | .pageRestoreWalk team => Sys2Proof.Machine.execPageRestoreWalk team s
  | .teamRestore team target => Sys2Proof.Machine.execTeamRestore team target s
  | .barrierReleaseReady => Sys2Proof.Machine.execBarrierReleaseReady s
  | .fenceComplete => Sys2Proof.Machine.execFenceComplete s
  | .xfenceComplete => Sys2Proof.Machine.execXfenceComplete s
  | .publishComplete => Sys2Proof.Machine.execPublishComplete s
  | .launchAccept queue => Sys2Proof.Machine.execLaunchAccept queue s
  | .launchWaitPoll launch => Sys2Proof.Machine.execLaunchWaitPoll launch s
  | .teamPlace launch => Sys2Proof.Machine.execTeamPlace launch s
  | .launchFinish launch => Sys2Proof.Machine.execLaunchFinish launch s
  | .admissionWindow => Sys2Proof.Machine.execAdmissionWindow s
  | .nodeTailPoll launch => Sys2Proof.Machine.execNodeTailPoll launch s
  | .batchFire launch => Sys2Proof.Machine.execBatchFire launch s
  | .tagWaitTimeout launch => Sys2Proof.Machine.execTagWaitTimeout launch s
  | .pendingBitFlush core index => Sys2Proof.Machine.execPendingBitFlush core index s
  | .ctimeAdvance core => Sys2Proof.Machine.execCtimeAdvance core s
  | .residencyEntryExpire core index => Sys2Proof.Machine.execResidencyEntryExpire core index s
  | .tempoTick => Sys2Proof.Machine.execTempoTick s
  | .feedbackFilterClear => Sys2Proof.Machine.execFeedbackFilterClear s
  | .energyBoundary readings => Sys2Proof.Machine.execEnergyBoundary readings s
  | .sliceRequestEnter die slice => Sys2Proof.Machine.execSliceRequestEnter die slice s
  | .dirRead line die => Sys2Proof.Machine.execDirRead line die s
  | .dirOwnership line die => Sys2Proof.Machine.execDirOwnership line die s
  | .dirHomeWrite line => Sys2Proof.Machine.execDirHomeWrite line s
  | .dirHomeRead line => Sys2Proof.Machine.execDirHomeRead line s
  | .rdcEvict die line => Sys2Proof.Machine.execRdcEvict die line s
  | .filterVictim line => Sys2Proof.Machine.execFilterVictim line s
  | .leaseRecall core line => Sys2Proof.Machine.execLeaseRecall core line s
  | .peerInboundAccess source pa n kind v => Sys2Proof.Machine.execPeerInboundAccess source pa n kind v s
  | .peerReply nack => Sys2Proof.Machine.execPeerReply nack s
  | .peerTimeout performed => Sys2Proof.Machine.execPeerTimeout performed s
  | .rayNodeRead ray => Sys2Proof.Machine.execRayNodeRead ray s
  | .rayEnd ray => Sys2Proof.Machine.execRayEnd ray s
  | .rootRewrite cmd entry => Sys2Proof.Machine.execRootRewrite cmd entry s
  | .compactReclaim cmd => Sys2Proof.Machine.execCompactReclaim cmd s
  | .drainDeadline asid => Sys2Proof.Machine.execDrainDeadline asid s
  | .selfWakeCompare port => Sys2Proof.Machine.execSelfWakeCompare port s
  | .wakeComplete port => Sys2Proof.Machine.execWakeComplete port s
  | .wavelengthFail port lambda => Sys2Proof.Machine.execWavelengthFail port lambda s
  | .flitCrcError link => Sys2Proof.Machine.execFlitCrcError link s
  | .linkRetrain link => Sys2Proof.Machine.execLinkRetrain link s
  | .retrainComplete link failed => Sys2Proof.Machine.execRetrainComplete link failed s
  | .dieReset die => Sys2Proof.Machine.execDieReset die s
  | .dieReturn die passed => Sys2Proof.Machine.execDieReturn die passed s
  | .homeDieWaitExpire => Sys2Proof.Machine.execHomeDieWaitExpire s
  | .spareApply kind ident left action => Sys2Proof.Machine.execSpareApply kind ident left action s
  | .slaliaRetrain lanes => Sys2Proof.Machine.execSlaliaRetrain lanes s
  | .slaliaLost => Sys2Proof.Machine.execSlaliaLost s
  | .thermalSample island celsius coolantBad => Sys2Proof.Machine.execThermalSample island celsius coolantBad s
  | .thermalLevelReturn island => Sys2Proof.Machine.execThermalLevelReturn island s
  | .softError code addr uncorrectable => Sys2Proof.Machine.execSoftError code addr uncorrectable s
  | .patrolScrub die channel => Sys2Proof.Machine.execPatrolScrub die channel s
  | .storePerformed => Sys2Proof.Machine.execStorePerformed s
  | .sldResultReturn => Sys2Proof.Machine.execSldResultReturn s

end Sys2Proof.Machine
end

