-- ==== Sys2Proof/Machine/Plan.lean ====
section
/-!
DEFINITION. Which agent moves next. The manual's agents move at times of their own; the model makes one move a step. The moves stand in
`State.agenda`; where it is empty the machine moves by the fixed choice of `idleMove` (notes/assumptions/1.md).
-/
namespace Sys2Proof.Machine

/-- A lane word issues: the other groups of its quadrant age (R343). -/
def laneMove (i : Instr) (s : State) : Host.Outcome State Fault Refusal :=
  match exec i s with
  | .next t => .next (ageOthers t (t.clock - 1) s.team.core s.grp.quad s.team.uid s.grp.gidx (look (s.core s.team.core).pipes s.grp.quad {}).urgent)
  | r => r

/-- The wide pipe issues the next lane word of the executing group, or stands still in front of it. -/
def pipeMove (s : State) : Host.Outcome State Fault Refusal :=
  match pipeServe s with
  | some (s, i) => laneMove i s
  | none => .next ((pipeStall s).getD s)

/-- The helm serves the executing group: a uniform word executes; a lane word enters the forward queue, and issues at once where the wide
pipe stands ready for it. -/
def helmWord (s : State) : Host.Outcome State Fault Refusal :=
  if helmReady s then
    match helmServe s with
    | .uniform s i => exec i s
    | .ended s => .next s
    | .lane s _ => match pipeServe s with
      | some (t, i) => if s.grp.fwd.length = 1 then laneMove i t else .next (s.tick 1)
      | none => .next (s.tick 1)
  else .next s

/-- The helm's record follows a clock in which it has processed a word of the executing group (R43). -/
def noteServed (s t : State) : State :=
  if t.team.uid = s.team.uid && t.grp.gidx = s.grp.gidx && t.grp.live ≠ 0 && t.grp.nextSeq = s.grp.nextSeq && t.grp.wait = s.grp.wait &&
      t.grp.frontier = s.grp.frontier && t.grp.pendFault = s.grp.pendFault && t.team.pageWait = s.team.pageWait && t.team.saving = s.team.saving then t
  else noteHelm t s.team s.grp

/-- The helm's service of the executing group, with its record. -/
def helmStep (s : State) : Host.Outcome State Fault Refusal :=
  match helmWord s with
  | .next t => .next (noteServed s t)
  | r => r

/-- The helm's service, where it does more than let a clock pass in front of a word that must wait (R45). -/
def helmEffective (s : State) : Option State :=
  if helmReady s then
    match helmStep s with
    | .next t => if t = { s with cur := t.cur }.tick 1 then none else some t
    | _ => none
  else none

/-- The group a quadrant's helm serves (R43): one whose run is issuing on the wide pipe first, then by key and rotation. -/
def helmChoice (s : State) (core quad : Nat) : Option (Team × Group) :=
  let es := (groupsIn s core quad).filter fun x =>
    (helmEffective (if s.executes x.1 x.2 then s else s.turnTo x.1.uid x.2.gidx)).isSome
  match es.find? fun x => holdsPipe x.2 with
  | some x => some x
  | none => nextInTurn es fun t => look t.lastHelm quad 16

/-- Whether the executing group is the one that its quadrant's helm serves (R43). -/
def helmFirst (s : State) : Bool :=
  (groupsIn s s.team.core s.grp.quad).all (fun x => s.executes x.1 x.2) ||
    match helmChoice s s.team.core s.grp.quad with
    | some (t, g) => s.executes t g
    | none => false

/-- Whether the helm would execute a `spawn` for the executing group. -/
def atSpawn (s : State) : Bool :=
  helmReady s && match helmServe s with
    | .uniform _ i => (match i with | .spawn _ _ _ _ => true | _ => false)
    | _ => false

/-- The group whose `spawn` a lower quadrant of the core than `quad` serves in the same clock (R38). -/
def spawnBefore (s : State) (core quad : Nat) : Option (Team × Group) :=
  (List.range quad).findSome? fun q => match helmChoice s core q with
    | some x => if atSpawn (if s.executes x.1 x.2 then s else s.turnTo x.1.uid x.2.gidx) then some x else none
    | none => none

/-- The group that a quadrant's helm serves next: a `spawn` lets those of lower quadrants that stand at one come first (R38). -/
def helmPick (s : State) (core quad : Nat) : Option (Team × Group) :=
  match helmChoice s core quad with
  | some x =>
    if atSpawn (if s.executes x.1 x.2 then s else s.turnTo x.1.uid x.2.gidx) then some ((spawnBefore s core quad).getD x) else some x
  | none => none

/-- The helm's move: it serves the executing group, if that is the group it serves, and no `spawn` of a lower quadrant comes first (R38). -/
def helmMove (s : State) : Host.Outcome State Fault Refusal :=
  if helmFirst s && ((spawnBefore s s.team.core s.grp.quad).isNone || !atSpawn s) then helmStep s else .next s

/-- An operation of the table that is no word. One of a part the module does not have is no event of it; before Ready nothing but a module
reset has an effect (R19, R20); a fetch is that of the group the helm serves (R43). -/
def eventMove (i : Instr) (s : State) : Host.Outcome State Fault Refusal :=
  if !i.wf || i.isWord then .next s
  else if s.stage = 7 then
    match i with
    | .helmLaneFetch => if helmFirst s then exec i s else .next s
    | i => exec i s
  else match i with
    | .moduleReset _ _ => exec i s
    | _ => .next s

/-- One move. -/
def runMove (m : Move) (s : State) : Host.Outcome State Fault Refusal :=
  match m with
  | .event i => eventMove i s
  | .helm => if s.stage = 7 then helmMove s else .next s
  | .pipe => if s.stage = 7 then pipeMove s else .next s
  | .turn u g => .next (s.turnTo u g)
  | .bar0Read off n => .next (bar0Read s off n)
  | .island k p => .next (setIsland s k p)
  | .cells line es => .next (hitCells s line es)

/-! ### The fixed choice -/

/-- Operations of the table that may have something to do for the executing group and its team. -/
def groupEvents (s : State) : List Instr :=
  let g := s.grp
  let t := s.team
  (if g.owed.isEmpty then [] else [.sldResultReturn]) ++ (if (headEntry g).isSome then [.commitRetire] else []) ++
  (if g.held.isEmpty && t.orphans.isEmpty && g.awaits.isEmpty && g.ctl.isNone then [] else [.storePerformed]) ++
  (match sentWord s with
    | some w => [if w.answers.length < w.need s then .peerTimeout false else .peerReply 0]
    | none => []) ++
  (if g.awaits.isEmpty && g.held.isEmpty && t.orphans.isEmpty then [] else [.homeDieWaitExpire]) ++
  (if g.yielded.isEmpty then [] else [.yieldExpiry]) ++
  (if (nextReturn g).isSome && (pipeServe s).isNone then [.loadReturn] else []) ++
  (if (ripeFault g).isSome then [.faultTake, .pageRequest] else []) ++
  (match g.wait with
    | .released _ => [.barrierReleaseReady]
    | .fence _ => [.fenceComplete]
    | .xfence _ _ _ => [.xfenceComplete]
    | .homeDie _ _ => [.homeDieWaitExpire]
    | .publish _ => [.publishComplete]
    | _ => []) ++
  (if (deliveredCmd s).isSome then [.commandAccept] else []) ++
  (t.words.flatMap fun w =>
    let k := BitVec.ofNat 3 (jointTile w.word)
    if !w.started then (if canStart s t w && startWait s w = 0 then [.matrixWordStart k] else [])
    else if s.clock < w.ends then []
    else if w.replay then [.promotionReplayEnd k] else [.matrixWordComplete k])

/-- Whether a read of WAITVA would find the value its launch waits for (R333). -/
def pollMeets (s : State) (n : Nat) : Bool := match (waitPoll s n).launch n with | some l => l.waitMet | none => false

/-- Operations that may have something to do for engines, launches and saved teams. -/
def unitEvents (s : State) : List Instr :=
  (s.rays.flatMap fun r => [.rayNodeRead r.id, .rayEnd r.id]) ++
  (s.commands.flatMap fun c => match c.state with
    | .delivered => []
    | .queued => [.commandStart c.id]
    | .running => [.commandStart c.id, .compactReclaim c.id] ++ c.todo.map fun x => .rootRewrite c.id (x % 8)
    | .waiting _ => [.enginePageRetry c.id]
    | .finished => [.recordPlace c.id]) ++
  (s.commands.flatMap fun c => if c.callouts.isEmpty then [] else [.recordPlace c.id]) ++
  (s.hub.queues.map fun q => .launchAccept (BitVec.ofNat 8 q.1)) ++
  ((s.launches.filter fun l => !l.finished).flatMap fun l =>
    (if l.wait && !l.waitMet && pollMeets s l.seqNo then [.launchWaitPoll l.seqNo] else []) ++
    (if l.qfed then [.nodeTailPoll l.seqNo, .batchFire l.seqNo] else []) ++
    (if l.more then [.teamPlace l.seqNo] else if l.live = 0 then [.launchFinish l.seqNo] else [])) ++
  ((s.allTeams.filter fun t => t.saving.isSome).map fun t => .teamSave t.core t.tslot) ++
  ((s.allTeams.filter fun t => t.pageRetry).map fun t => .pageRestoreWalk t.uid) ++
  s.saved.flatMap fun v => [.pageRestoreWalk v.uid, .teamRestore v.uid 0x3FF]

/-- Operations that the manual ties to a clock of their own. -/
def timedEvents (s : State) : List Instr :=
  (if (s.energyAt + 1) * 2100 ≤ s.clock + 1 then [.energyBoundary []] else []) ++
  ((heldHeads [] 0 s.injected).map fun x => .sliceRequestEnter (x.1.slice / 16) (x.1.slice % 16)) ++
  (if s.outside.isEmpty then [] else [.homeDieWaitExpire]) ++
  [.admissionWindow, if s.trace.tempo then .tempoTick else .feedbackFilterClear] ++
  (s.cores.flatMap fun x =>
    (if x.2.loaded then [.ctimeAdvance x.1] else []) ++
    ((List.range x.2.residency.length).map fun i => .residencyEntryExpire x.1 i) ++
    (List.range x.2.tlb.length).map fun i => .pendingBitFlush x.1 i) ++
  (s.dies.flatMap fun x => (List.range x.2.tlb.length).map fun i => .pendingBitFlush (96 * x.1) (256 + i)) ++
  ((s.launches.filter fun l => l.node.firing.isSome).map fun l => .tagWaitTimeout l.seqNo) ++
  (s.ports.flatMap fun x => (if (s.clock + 3) % 1536 < 4 then [.selfWakeCompare x.1] else []) ++
    if x.2.waker.isNone then [] else [.wakeComplete x.1]) ++
  (s.hub.ctl.filter fun x => x.2.drain && x.2.dlEn).map fun x => .drainDeadline (BitVec.ofNat 12 x.1)

/-- What an operation comes to, if it changes more of the state than the word the machine looks at, at the clock the machine stands at; one that first waits for a later clock has not
come yet. -/
def effect (s : State) (r : Host.Outcome State Fault Refusal) : Option State :=
  match r with
  | .next t => if s.clock + 3 < t.clock || t = { s with cur := t.cur } then none else some t
  | _ => none

/-- The first operation of a list that has such an effect. -/
def firstEffective (l : List Instr) (s : State) : Option State := l.findSome? fun i => effect s (exec i s)

/-- What the harbourmaster does: it ends a retrain in time (R445), applies a spare once its element holds nothing (R449), lets a hot island return (R454). -/
def serviceMove (s : State) : Option State :=
  ((s.links.filter fun l => l.2.retraining && l.2.retrainAt + fabricWindow ≤ s.clock + 1).findSome? fun l =>
    effect s (execRetrainComplete l.1 (Config.freeModules s.clock l.1) s)) <|>
  (s.sparing.findSome? fun x => effect s (.next (spareApply s x.1 x.2.1 x.2.2.1 x.2.2.2))) <|>
  s.levels.findSome? fun x => effect s (execThermalLevelReturn x.1 s)

/-- What is due: by the clock, for the executing group, for the engines, launches and saved teams, for a hot island. -/
def dueMove (s : State) : Option State :=
  match firstEffective (timedEvents s ++ groupEvents s ++ unitEvents s) s with
  | some t => some t
  | none => serviceMove s

/-- The wide pipe goes to a group whose next word it cannot issue yet (R46). -/
def pipeGrant (s : State) : Option State :=
  match pipeStall s with
  | some t => if t = s || t.clock ≠ s.clock then none else some t
  | none => none

/-- Whether work other than the helm's is due for the executing group and its team. -/
def hasWork (s : State) : Bool := (firstEffective (groupEvents s) s).isSome || (pipeServe s).isSome || (pipeGrant s).isSome

/-- What is left to do where no agent has work: the pipe's bubble, or a clock passes. -/
def restMove (s : State) : State :=
  match pipeStall s with
  | some t => if t.clock = s.clock then s.tick 1 else t
  | none => s.tick 1

/-- The other groups, and the teams without one, in rotation after the executing group. -/
def others (s : State) : List (Nat × Nat) :=
  let key (x : Nat × Nat) : Nat := 16 * x.1 + x.2
  let all := (s.team.groups.map fun g => (s.team.uid, g.gidx)) ++ s.teams.flatMap fun t =>
    if t.groups.isEmpty then [(t.uid, 0)] else t.groups.map fun g => (t.uid, g.gidx)
  let all := sortBy key all
  let here := key (s.team.uid, s.grp.gidx)
  (all.filter fun x => here < key x) ++ all.filter fun x => key x ≤ here

/-- The quadrants with groups, from one that the clock picks on. -/
def quadrants (s : State) : List (Nat × Nat) :=
  let all := (sortBy (fun x => 4 * x.1 + x.2) (s.allTeams.flatMap fun t => (s.groupsOf t.uid).map fun g => (t.core, g.quad))).eraseDups
  let n := s.clock % max 1 all.length
  all.drop n ++ all.take n

/-- The move where the agenda is empty: bring-up before Ready; then what the clock makes due, and what an operation of the table does for
the executing group, the engines, launches and saved teams; then the wide pipe; then another group with such work; then the helm of one
quadrant; otherwise a clock passes. -/
def idleMove (s : State) : Host.Outcome State Fault Refusal :=
  if s.stage ≠ 7 then (if s.bootFail then .next (s.tick 1) else exec (.moduleReset (0, []) s.fwver) s)
  else match dueMove s with
    | some t => .next t
    | none => match pipeServe s with
      | some (t, i) => laneMove i t
      | none => match pipeGrant s with
      | some t => .next t
      | none => match (others s).find? fun x => hasWork (s.turnTo x.1 x.2) with
        | some x => .next (s.turnTo x.1 x.2)
        | none => match (quadrants s).findSome? fun q => helmPick s q.1 q.2 with
          | some (t, g) => if s.executes t g then helmStep s else .next (s.turnTo t.uid g.gidx)
          | none => .next (restMove s)

/-- The next move of the agenda, or the fixed choice. -/
def nextMove (s : State) : Host.Outcome State Fault Refusal :=
  match s.agenda with
  | m :: r => runMove m { s with agenda := r }
  | [] => idleMove s

/-! ### A placed word -/

/-- The role a group needs for a word: the matrix words and those that serve them run in a Matrix group (12 R235, R239), every other
word in a General group. -/
def roleFor (w : Word) : Role := if 0x2D ≤ majorOf w && majorOf w ≤ 0x37 && w.getLsbD 31 then .matrix else .general

/-- Device memory with a page table at 0x2000, whose one leaf maps the first 64 GiB of addresses onto device memory, and a word at
0x10000. -/
def placedMem (m : Memory) (w : Word) : Memory :=
  memWrite (memWrite (memWrite m 0x2000 8 0x4001) 0x4000 8 0xE3) 0x10000 4 w.toNat

/-- A launch of one team of one group, whose code is the placed word. -/
def placedLaunch (m : Memory) (w : Word) : Launch :=
  { seqNo := 0, id := 0, queue := 0, asid := 1, priv := true, codeVa := 0x10000, entry := [0, 0, 0, 0],
    counts := if roleFor w = .matrix then [1, 0, 0, 0] else [0, 0, 0, 1], regs := 4, scratch := 65536, obShare := 65536,
    waitMet := true, started := true, nextTeam := 1, live := 1, code := { mem := m } }

/-- Its group, at the word. -/
def placedGroup (w : Word) : Group :=
  { role := roleFor w, nregs := 64, live := 0xFFFFFFFF, frontier := [{ pc := 0x10000, prio := 0, mask := 0xFFFFFFFF }],
    stall := [emptyFrame 0x10000] }

/-- Its team, on core 0. -/
def placedTeam : Team :=
  { uid := 1, asid := 1, priv := true, scratchSize := 65536, obSize := 65536,
    bars := (List.range 16).foldl (fun m b => put m b { expect := 1 } {}) [] }

/-- A module past bring-up in which a launch of the word has been accepted and its team placed. -/
def freshPlace (s : State) (w : Word) : State :=
  let m := placedMem s.mem w
  { s with stage := 7, bootFail := false, mem := m, hub := { s.hub with ctx := put s.hub.ctx 1 { ptRoot := 0x2000, valid := true, priv := true } {} },
           grp := placedGroup w, team := placedTeam, teams := [], launches := [placedLaunch m w], nextLaunchId := 1, nextSeqNo := 1,
           nextUid := 2, commands := [], agenda := [.helm] }

/-- Where the helm's next fetch reads device memory. -/
def fetchPa (s : State) : Option Nat :=
  if s.stage = 7 && helmReady s && s.grp.fwd.isEmpty && helmFirst s && !stepOver s then
    match topEntry s.grp.frontier with
    | some e => if (breakHit s e).isSome then none else match (checkAccess s (.core s.team.core) s.team.asid s.team.priv s.team.seqNo e.pc 4 .fetch).2 with
      | .ok (.device pa) _ _ => some pa
      | _ => none
    | none => none
  else none

/-- A word where the next fetch finds it: at the program counter of the executing group, in memory and in what its launch fetches; where
no group is ready to fetch, in a launch of its own. -/
def placeWord (s : State) (w : Word) : State :=
  match fetchPa s with
  | some pa =>
    { (s.modLaunch s.team.seqNo fun l => { l with code := { l.code with mem := memWrite l.code.mem pa 4 w.toNat } }) with
      mem := memWrite s.mem pa 4 w.toNat, agenda := [.helm] }
  | none => freshPlace s w

end Sys2Proof.Machine
end

