-- ==== Sys2Proof/Machine/Step.lean ====
section
/-!
DEFINITION. The step of the module: the next move of the agenda, or the fixed choice where it is empty; and a word placed where the next
step fetches it.
-/
namespace Sys2Proof.Machine

/-- One step (notes/assumptions/1.md). -/
def step (s : State) : Host.Outcome State Fault Refusal := nextMove s

/-- The word whose bits are `w`, placed where the next step fetches it. -/
def State.withFetchWord (s : State) (nbits w : Nat) : State := placeWord s (BitVec.ofNat 32 (w % 2 ^ nbits))

end Sys2Proof.Machine
end

