-- ==== Sys2Proof/Safety.lean ====
section
/-!
DEFINITION. The terms claims are made in: when a step is safe, what a state must meet for a word to execute at once, and what a word
leaves as it is.
-/
namespace Sys2Proof.Machine

/-- A step that answers a next state: it neither faults nor refuses. -/
def safeStep (s : State) : Prop := ∃ t, step s = .next t

/-! ### Frames -/

/-- Every byte of every memory reads as before: device memory, host memory, and each peer module's. -/
def memoriesKept (s t : State) : Prop :=
  (∀ a, memByte t.mem a = memByte s.mem a) ∧ (∀ a, memByte t.hostMem a = memByte s.hostMem a) ∧
  (∀ m a, memByte (look t.peers m {}).mem a = memByte (look s.peers m {}).mem a)

/-- The return queue holds what it held; how early its values are available aside (R44). -/
def sameReturns (s t : State) : Prop := (t.grp.ret.map fun e => (e.seq, e.value)) = s.grp.ret.map fun e => (e.seq, e.value)

/-- What a lane word other than a memory, queue, control or index word leaves as it is: of the group everything but the forward queue, the
results on their way, what the pipe still has in flight and could undo, and the pipe's own counts; of the module everything but the clock, the
counts of other groups, the pipes and the busy and stall counts. Scratchpad and operand buffer stand in the team. -/
def laneFrame (s t : State) : Prop :=
  memoriesKept s t ∧ sameReturns s t ∧
  t.grp = { s.grp with fwd := t.grp.fwd, pend := t.grp.pend, pipeRun := t.grp.pipeRun, parkClk := t.grp.parkClk,
                       flight := t.grp.flight, undo := t.grp.undo, ret := t.grp.ret, stall := t.grp.stall, units := t.grp.units } ∧
  { t.team with groups := [] } = { s.team with groups := [] } ∧
  (∀ c, { t.core c with pipes := [] } = { s.core c with pipes := [] }) ∧
  t = { s with clock := t.clock, grp := t.grp, team := t.team, teams := t.teams, cores := t.cores, busy := t.busy,
               stallCnt := t.stallCnt, busyNext := t.busyNext, stallNext := t.stallNext, free := t.free }

/-- What a uniform word of one clock leaves as it is: of the group everything but s and c registers, the commit buffer, the frontier, the
counts of its run, the word at which it resumed (R365), and what a clock that passes drops of its flight and undo lists and adds to its stall counts; of the module everything but
the clock and the counts of other groups and of the cores. -/
def uniformFrame (s t : State) : Prop :=
  memoriesKept s t ∧ sameReturns s t ∧
  t.grp = { s.grp with s := t.grp.s, c := t.grp.c, commit := t.grp.commit, frontier := t.grp.frontier, nextSeq := t.grp.nextSeq,
                       runNo := t.grp.runNo, runLen := t.grp.runLen, wait := .ready, trail := t.grp.trail, closed := t.grp.closed,
                       passBreak := none, passSeq := if s.grp.passBreak.isSome then some s.cur.seq else s.grp.passSeq,
                       flight := t.grp.flight, undo := t.grp.undo, ret := t.grp.ret, stall := t.grp.stall } ∧
  { t.team with groups := [] } = { s.team with groups := [] } ∧
  t = { s with clock := s.clock + 1, grp := t.grp, team := t.team, teams := t.teams, stallCnt := t.stallCnt, stallNext := t.stallNext }

/-! ### Lane words -/

/-- A lane word executes with its own effect: its registers lie in the allocation and none of its results is locked (R131, R258), and every
earlier result of the group has landed. -/
def laneReady (i : Instr) (s : State) : Prop :=
  laneCheck s (laneInfo i) = none ∧ s.grp.pend = []

/-- A predicate as a lane test; p7 reads true (R131). -/
def Group.ptrue (g : Group) (n l : Nat) : Bool := (g.pmask n).getLsbD l

/-- Once every result has landed, register `d + k`, `k` below `w`, of an active lane `l` holds element `k` of `out l`, predicate `q` holds `p l` where a
pair (q, p) is given, and every other register and predicate of every lane is as before (R53). -/
def lanesWrote (s t : State) (d w : Nat) (out : Nat → List Word) (pred : Option (Nat × (Nat → Bool)) := none) : Prop :=
  (∀ n l, l < 32 → t.grp.landAll.vreg n l =
    if s.cur.mask.getLsbD l ∧ d ≤ n ∧ n < d + w then (out l).getD (n - d) 0 else s.grp.vreg n l) ∧
  (∀ n l, l < 32 → t.grp.landAll.ptrue n l =
    match pred with
    | some (q, p) => if s.cur.mask.getLsbD l ∧ n = q ∧ n ≠ 7 then p l else s.grp.ptrue n l
    | none => s.grp.ptrue n l) ∧
  laneFrame s t

/-! ### Uniform words -/

/-- A uniform word that reads the s registers `rs` executes with its own effect: none of them waits for a result (R205), the commit
buffer holds older words only and has room (R48), and the group is live. -/
def uniformReady (rs : List Nat) (s : State) : Prop :=
  s.grp.live ≠ 0 ∧ (∀ e ∈ s.grp.commit, e.cur.seq < s.cur.seq) ∧ s.grp.commit.length < 24 ∧
  ∀ n ∈ rs, regPending s.grp n = false

/-- The helm sees the listed s and c registers with their new values and every other one as before; the lanes of the word stand at `pc`;
nothing else changes, but that results still owed to registers the word writes are owed no longer (R205), now or when the word retires. -/
def uniformWrote (s t : State) (pc : DWord) (sw : List (Nat × Word)) (cw : List (Nat × Bool) := []) : Prop :=
  (∀ n, t.grp.sreg n = ((sw.find? fun w => w.1 = n).map fun w => w.2).getD (s.grp.sreg n)) ∧
  (∀ n, t.grp.creg n = if n = 7 then true else ((cw.find? fun w => w.1 = n).map fun w => w.2).getD (s.grp.creg n)) ∧
  t.grp.frontier = moveLanes s.grp.frontier s.cur pc ∧ t.grp.nextSeq = s.grp.nextSeq + 1 ∧
  (t.grp.owed = s.grp.owed ∨ t.grp.owed = (s.grp.disown sw).owed) ∧
  uniformFrame { s with grp := { s.grp with owed := t.grp.owed } } t

end Sys2Proof.Machine
end

