-- ==== Sys2Proof/Certificates/Slice0/Obligations.lean ====
section
/-!
DEFINITION. The statements for the provers. Names under `Stated` say in the manual's words what a rule gives; a statement of a lane
word holds for every well-formed word, every register number of the allocation and every mask.
-/
namespace Sys2Proof.Stated
open Sys2Proof.Machine

/-- What register `n` holds in lane `l`. -/
def reg (s : State) (n : BitVec 6) (l : Nat) : Word := s.grp.vreg n.toNat l

/-- What the pair at `n` holds: `v[n] + 2^32 × v[n+1]` (R157). -/
def regPair (s : State) (n : BitVec 6) (l : Nat) : DWord := s.grp.vreg (n.toNat + 1) l ++ s.grp.vreg n.toNat l

/-- The two registers of a 64-bit result, low first. -/
def halves (x : DWord) : List Word := [x.setWidth 32, (x >>> 32).setWidth 32]

/-- A well-formed lane word completes from every ready state with `out` in `w` registers from `d` on and, where `pred` is given, a
predicate; all else as before. -/
def laneResult (i : Instr) (d w : Nat) (out : State → Nat → List Word) (pred : State → Option (Nat × (Nat → Bool)) := fun _ => none) :
    Prop :=
  ∀ s, i.wf = true → laneReady i s → ∃ t, exec i s = .next t ∧ lanesWrote s t d w (out s) (pred s)

/-- Sum or difference in the form F of Table 9.1, at a width. -/
def addForm {w : Nat} (sub : Bool) (f : BitVec 4) (x y : BitVec w) : BitVec w :=
  if f = 1 then BitVec.ofInt w (max (-2 ^ (w - 1)) (min (2 ^ (w - 1) - 1) (if sub then x.toInt - y.toInt else x.toInt + y.toInt)))
  else if f = 2 then (if sub then BitVec.ofNat w (x.toNat - y.toNat) else BitVec.ofNat w (min (2 ^ w - 1) (x.toNat + y.toNat)))
  else if sub then x - y else x + y

/-- Carry or borrow. -/
def carryOut {w : Nat} (sub : Bool) (x y : BitVec w) : Bool := if sub then decide (x.toNat < y.toNat) else decide (2 ^ w ≤ x.toNat + y.toNat)

/-- The predicate of a carry form, F = 8 + n. -/
def carryPred (f : BitVec 4) (p : Nat → Bool) : Option (Nat × (Nat → Bool)) := if 8 ≤ f.toNat then some (f.toNat - 8, p) else none

/-- The truth of `x cond y` (Table 7.3). -/
def condition (n : BitVec 3) (lt eq : Bool) : Bool :=
  match n.toNat with
  | 0 => eq
  | 1 => !eq
  | 2 => lt
  | 3 => lt || eq
  | 4 => !lt && !eq
  | _ => !lt

/-- A shift of R167 by an amount. -/
def shiftForm (f : BitVec 4) (x hi : Word) (n : Nat) : Word :=
  match f.toNat with
  | 0 => BitVec.ofNat 32 (x.toNat * 2 ^ min n 32)
  | 1 => BitVec.ofNat 32 (x.toNat / 2 ^ min n 32)
  | 2 => BitVec.ofInt 32 (x.toInt / 2 ^ min n 32)
  | 3 => BitVec.ofNat 32 (x.toNat * 2 ^ (n % 32) + x.toNat / 2 ^ (32 - n % 32))
  | 4 => BitVec.ofNat 32 (x.toNat / 2 ^ (n % 32) + x.toNat * 2 ^ (32 - n % 32))
  | _ => BitVec.ofNat 32 ((x.toNat + 2 ^ 32 * hi.toNat) / 2 ^ (n % 32))

/-- Bit `i` of a `bfe` result: the field's bits, then zeros or copies of its highest bit (R168). -/
def fieldBit (signed : Bool) (x b : Word) (i : Nat) : Bool :=
  let pos := b.toNat % 256
  let len := min (b.toNat / 256 % 256) 32
  let bit (k : Nat) : Bool := if 32 ≤ k then signed && x.getLsbD 31 else x.getLsbD k
  if len = 0 then false else if i < len then bit (pos + i) else signed && bit (pos + len - 1)

/-- The word whose bit `i` is `f i`. -/
def wordOf (f : Nat → Bool) : Word := (List.range 32).foldr (fun i w => if f i then w ||| (1 : Word) <<< i else w) 0

/-- How many leading positions of a list do not satisfy a test. -/
def runLength (f : Nat → Bool) (l : List Nat) : Nat := (l.takeWhile fun i => !f i).length

/-- `bitc` (R168). -/
def bitForm (f : BitVec 4) (x : Word) : Word :=
  match f.toNat with
  | 0 => BitVec.ofNat 32 ((List.range 32).countP fun i => x.getLsbD i)
  | 1 => BitVec.ofNat 32 (runLength (fun i => x.getLsbD (31 - i)) (List.range 32))
  | 2 => BitVec.ofNat 32 (runLength (fun i => x.getLsbD i) (List.range 32))
  | 3 => wordOf fun i => x.getLsbD (31 - i)
  | _ => if x = 0 then 0 else BitVec.ofNat 32 (runLength (fun i => x.getLsbD i) (List.range 32) + 1)

/-- Signed byte `i` of a word. -/
def sbyte (x : Word) (i : Nat) : Int := (x.extractLsb' (8 * i) 8).toInt

end Sys2Proof.Stated

open Sys2Proof Sys2Proof.Machine Sys2Proof.Stated

/-! ### Lane integer words -/

/-- R163: the wrap, saturating and carry forms. -/
def Sys2Proof.Stated.laneAddSubtract : Prop :=
  (∀ k d a b f h, laneResult (.iadd k d a b f h) d.toNat 1 (fun s l => [addForm false f (reg s a l) (reg s b l)])
    fun s => carryPred f fun l => carryOut false (reg s a l) (reg s b l)) ∧
  (∀ k d a b f h, laneResult (.isub k d a b f h) d.toNat 1 (fun s l => [addForm true f (reg s a l) (reg s b l)])
    fun s => carryPred f fun l => carryOut true (reg s a l) (reg s b l)) ∧
  (∀ k d a b f h, laneResult (.iadd64 k d a b f h) d.toNat 2 (fun s l => halves (addForm false f (regPair s a l) (regPair s b l)))
    fun s => carryPred f fun l => carryOut false (regPair s a l) (regPair s b l)) ∧
  (∀ k d a i, laneResult (.iaddi k d a i) d.toNat 1 fun s l => [reg s a l + i.signExtend 32])

/-- R164 and R165: products, the dot product of bytes, the absolute difference. -/
def Sys2Proof.Stated.laneMultiply : Prop :=
  (∀ k d a b f h, laneResult (.imul k d a b f h) d.toNat (if f.toNat < 3 then 1 else 2) fun s l =>
    let n := BitVec.ofNat 64 ((reg s a l).toNat * (reg s b l).toNat)
    let i := BitVec.ofInt 64 ((reg s a l).toInt * (reg s b l).toInt)
    match f.toNat with
    | 0 => [n.setWidth 32]
    | 1 => [(i >>> 32).setWidth 32]
    | 2 => [(n >>> 32).setWidth 32]
    | 3 => halves i
    | _ => halves n) ∧
  (∀ k d a b c, laneResult (.imad k d a b c) d.toNat 1 fun s l =>
    [BitVec.ofNat 32 ((reg s a l).toNat * (reg s b l).toNat + (reg s c l).toNat)]) ∧
  (∀ k d a b c, laneResult (.dp4 k d a b c) d.toNat 1 fun s l =>
    let p (i : Nat) : Int := sbyte (reg s a l) i * sbyte (reg s b l) i
    [BitVec.ofInt 32 ((reg s c l).toInt + p 0 + p 1 + p 2 + p 3)]) ∧
  (∀ k d a b c, laneResult (.sad k d a b c) d.toNat 1 fun s l =>
    [BitVec.ofNat 32 (((reg s a l).toNat - (reg s b l).toNat : Int).natAbs + (reg s c l).toNat)])

/-- R166. -/
def Sys2Proof.Stated.laneMinMaxLogic : Prop :=
  (∀ k d a b f h, laneResult (.imnmx k d a b f h) d.toNat 1 fun s l =>
    let x := reg s a l
    let y := reg s b l
    [match f.toNat with
     | 0 => BitVec.ofInt 32 (min x.toInt y.toInt)
     | 1 => BitVec.ofInt 32 (max x.toInt y.toInt)
     | 2 => BitVec.ofNat 32 (min x.toNat y.toNat)
     | _ => BitVec.ofNat 32 (max x.toNat y.toNat)]) ∧
  (∀ k d a b f h, laneResult (.logic k d a b f h) d.toNat 1 fun s l =>
    let x := reg s a l
    let y := reg s b l
    [match f.toNat with
     | 0 => x &&& y
     | 1 => x ||| y
     | 2 => x ^^^ y
     | 3 => x &&& ~~~y
     | 4 => x ||| ~~~y
     | _ => ~~~(x ^^^ y)]) ∧
  (∀ k d a i, laneResult (.andi k d a i) d.toNat 1 fun s l => [reg s a l &&& i.setWidth 32]) ∧
  (∀ k d a i, laneResult (.ori k d a i) d.toNat 1 fun s l => [reg s a l ||| i.setWidth 32]) ∧
  (∀ k d a i, laneResult (.xori k d a i) d.toNat 1 fun s l => [reg s a l ^^^ i.setWidth 32])

/-- R167. -/
def Sys2Proof.Stated.laneShift : Prop :=
  (∀ k d a b f h, laneResult (.shift k d a b f h) d.toNat 1 fun s l =>
    [shiftForm f (reg s a l) (s.grp.vreg (a.toNat + 1) l) (reg s b l).toNat]) ∧
  (∀ k d a f n, laneResult (.shifti k d a f n) d.toNat 1 fun s l => [shiftForm f (reg s a l) 0 n.toNat])

/-- R168. -/
def Sys2Proof.Stated.laneBitFields : Prop :=
  (∀ k d a b f h, laneResult (.bfe k d a b f h) d.toNat 1 fun s l => [wordOf (fieldBit (f = 1) (reg s a l) (reg s b l))]) ∧
  (∀ k d a b c, laneResult (.bfi k d a b c) d.toNat 1 fun s l =>
    let pos := (reg s c l).toNat % 256
    let len := min ((reg s c l).toNat / 256 % 256) 32
    [wordOf fun i => if pos ≤ i ∧ i < pos + len then (reg s a l).getLsbD (i - pos) else (reg s b l).getLsbD i]) ∧
  (∀ k d a f h, laneResult (.bitc k d a f h) d.toNat 1 fun s l => [bitForm f (reg s a l)])

/-- R169. -/
def Sys2Proof.Stated.laneIntegerCompare : Prop :=
  ∀ k n p a b sf h, laneResult (.isetp k n p a b sf h) 0 0 (fun _ _ => []) fun s =>
    some (p.toNat, fun l =>
      let x := reg s a l
      let y := reg s b l
      condition n (if sf = 1 then decide (x.toNat < y.toNat) else decide (x.toInt < y.toInt)) (decide (x = y)))

namespace Sys2Proof.Stated

/-- Elements 1 and 0 of a packed result. -/
def packed (x1 x0 : Nat) : Word := BitVec.ofNat 16 x1 ++ BitVec.ofNat 16 x0

def lowHalf (x : Word) : Nat := x.toNat % 65536
def highHalf (x : Word) : Nat := x.toNat / 65536

/-- A float word of type t = 0 f32, 1 f16x2, 2 bf16x2, 3 f64, from an operation on encodings (R133, R170). -/
def floatResult (t : Nat) (op : Fmt → Nat → Nat → Nat) (s : State) (a b : BitVec 6) (l : Nat) : List Word :=
  let x := reg s a l
  let y := reg s b l
  match t with
  | 0 => [BitVec.ofNat 32 (op f32 x.toNat y.toNat)]
  | 1 => [packed (op f16 (highHalf x) (highHalf y)) (op f16 (lowHalf x) (lowHalf y))]
  | 2 => [packed (op bf16 (highHalf x) (highHalf y)) (op bf16 (lowHalf x) (lowHalf y))]
  | _ => halves (BitVec.ofNat 64 (op f64 (regPair s a l).toNat (regPair s b l).toNat))

/-- Registers of a result of that type. -/
def floatWidth (t : Nat) : Nat := if t = 3 then 2 else 1

/-- A fused multiply-add of both halves. -/
def packedFma (t : Fmt) (x y z : Word) : Word :=
  packed (fFma t (highHalf x) (highHalf y) (highHalf z)) (fFma t (lowHalf x) (lowHalf y) (lowHalf z))

/-- The bits of an integer at a target width below 32, extended as R64 says; others as they are. -/
def narrow (t : BitVec 4) (r : Nat) : List Word :=
  match t.toNat with
  | 0 => [(BitVec.ofNat 8 r).signExtend 32]
  | 1 => [(BitVec.ofNat 16 r).signExtend 32]
  | 3 => halves (BitVec.ofNat 64 r)
  | 7 => halves (BitVec.ofNat 64 r)
  | 8 => halves (BitVec.ofNat 64 r)
  | _ => [BitVec.ofNat 32 r]

/-- A type code of 64 bits (Table 7.2). -/
def is64 (t : BitVec 4) : Bool := t = 3 ∨ t = 7 ∨ t = 8

/-- The value of a decoded finite number times 2^1200, an integer for every format: the larger the number the larger the integer. -/
def scaled : FVal → Int
  | .fin n m e => (if n then -1 else 1) * ((m : Int) * 2 ^ (e + 1200).toNat)
  | _ => 0

/-- The formats with an encoding of their own (Table 4.2). -/
def formats : List Fmt := [f64, f32, f16, bf16, e5m2, e4m3]

/-- The source lane of `xlane` (R180): a lane outside 0 to 31, or outside the mask, gives the lane its own value. -/
def crossLane (f : BitVec 2) (m : Word) (k l : Nat) : Nat :=
  let q : Int := match f.toNat with
    | 0 => k
    | 1 => (l : Int) - k
    | 2 => (l : Int) + k
    | _ => (l ^^^ k : Nat)
  if 0 ≤ q ∧ q ≤ 31 ∧ m.getLsbD q.toNat then q.toNat else l

/-- The field F of Table 10.2. -/
def nameOfLane (s : State) (f : BitVec 4) (l : Nat) : Word :=
  match f.toNat with
  | 0 => BitVec.ofNat 32 l
  | 1 => BitVec.ofNat 32 s.grp.gidx
  | 2 => BitVec.ofNat 32 s.team.tidx
  | 3 => s.team.launchId.setWidth 32
  | 4 => BitVec.ofNat 32 s.team.tx
  | 5 => BitVec.ofNat 32 s.team.ty
  | 6 => BitVec.ofNat 32 s.team.tz
  | 7 => BitVec.ofNat 32 s.team.cidx
  | _ => BitVec.ofNat 32 s.team.midx

/-- Active lanes of the word, lowest first. -/
def active (s : State) : List Nat := (List.range 32).filter fun l => s.cur.mask.getLsbD l

/-- The reduction code of Table 7.4 on two values. -/
def reduction (f : BitVec 4) (x y : Word) : Word :=
  match f.toNat with
  | 0 => x + y
  | 1 => BitVec.ofInt 32 (min x.toInt y.toInt)
  | 2 => BitVec.ofInt 32 (max x.toInt y.toInt)
  | 3 => x &&& y
  | 4 => x ||| y
  | 5 => x ^^^ y
  | 6 => BitVec.ofNat 32 (min x.toNat y.toNat)
  | _ => BitVec.ofNat 32 (max x.toNat y.toNat)

/-- The registers of a lane, its predicates and the return queue after a word that fills one return-queue slot. -/
def returnWrote (s t : State) (v : Word) : Prop :=
  (t.grp.ret.map fun e => (e.seq, e.value)) = (s.grp.ret.map fun e => (e.seq, e.value)) ++ [(s.cur.seq, v)] ∧ t.grp.v = s.grp.v ∧ t.grp.p = s.grp.p ∧
    t.grp.x = s.grp.x ∧ t.grp.s = s.grp.s ∧ t.grp.c = s.grp.c ∧ t.grp.frontier = s.grp.frontier ∧ memoriesKept s t

/-- A result that lands in index registers: once every result has landed, `x[n]` of each active lane holds `f l (old value)`. -/
def indexWrote (s t : State) (n : Nat) (f : Nat → Word → Word) : Prop :=
  (∀ k l, l < 32 → t.grp.landAll.xreg k l = if s.cur.mask.getLsbD l ∧ k = n then f l (s.grp.xreg k l) else s.grp.xreg k l) ∧ laneFrame s t

/-- The effective register of an indexed access (R57, R185). -/
def effReg (s : State) (x : BitVec 2) (i : BitVec 8) (l : Nat) : Int :=
  let w := s.grp.xreg x.toNat l
  ((w.toNat / 2 ^ 8 % 256 : Nat) : Int) + (w.toNat % 256 : Nat) + i.toInt

/-- Every active lane's effective register lies from BASE to LIMIT and in the allocation (R57). -/
def effInside (s : State) (x : BitVec 2) (i : BitVec 8) : Prop :=
  ∀ l ∈ active s, let w := s.grp.xreg x.toNat l
    ((w.toNat / 2 ^ 8 % 256 : Nat) : Int) ≤ effReg s x i l ∧ effReg s x i l ≤ (w.toNat / 2 ^ 16 % 256 : Nat) ∧ effReg s x i l < s.grp.nregs

/-- The values in the forward queue, oldest first, each with the place in program order of the `spush` that put it there (R44). -/
def queuedValues (s : State) : List (Nat × Word) := s.grp.fwd.filterMap fun e => match e with | .value q v => some (q, v) | .lane _ _ => none

/-- What `raise` is given for a fault of the word's own lanes. -/
def wholeFault (s : State) (cls : Byte) : State := raise s { cur := s.cur, lanes := s.cur.mask, cls := cls }

/-- The fault of a uniform word, which takes the helm's clock (R43). -/
def helmFault (s : State) (cls : Byte) (faddr : DWord := 0) (fcode : Word := 0) : State :=
  (raise s { cur := s.cur, lanes := s.cur.mask, cls := cls, faddr := faddr, fcode := fcode }).tick 1

end Sys2Proof.Stated

/-! ### Lane float words -/

/-- R170: each form computes with exact terms and one rounding in its mode; the functions `fAdd`, `fSub`, `fMul`, `fFma` and `sumRound` say which. -/
def Obligations.LaneFloatArithmetic : Prop :=
  (∀ k d a b f h, laneResult (.fadd k d a b f h) d.toNat (floatWidth (f.toNat / 4)) fun s l =>
    floatResult (f.toNat / 4) (fun t => fAdd t (modeOf (f.toNat % 4))) s a b l) ∧
  (∀ k d a b f h, laneResult (.fsub k d a b f h) d.toNat (floatWidth (f.toNat / 4)) fun s l =>
    floatResult (f.toNat / 4) (fun t => fSub t (modeOf (f.toNat % 4))) s a b l) ∧
  (∀ k d a b f h, laneResult (.fmul k d a b f h) d.toNat (floatWidth (f.toNat / 4)) fun s l =>
    floatResult (f.toNat / 4) (fun t => fMul t (modeOf (f.toNat % 4))) s a b l) ∧
  (∀ k d a b c, laneResult (.ffma k d a b c) d.toNat 1 fun s l =>
    [BitVec.ofNat 32 (fFma f32 (reg s a l).toNat (reg s b l).toNat (reg s c l).toNat)]) ∧
  (∀ k d a b c, laneResult (.hfma2 k d a b c) d.toNat 1 fun s l => [packedFma f16 (reg s a l) (reg s b l) (reg s c l)]) ∧
  (∀ k d a b c, laneResult (.bfma2 k d a b c) d.toNat 1 fun s l => [packedFma bf16 (reg s a l) (reg s b l) (reg s c l)]) ∧
  (∀ k d a b c, laneResult (.dfma k d a b c) d.toNat 2 fun s l =>
    halves (BitVec.ofNat 64 (fFma f64 (regPair s a l).toNat (regPair s b l).toNat (regPair s c l).toNat))) ∧
  (∀ k d a b c, laneResult (.fdot2 k d a b c) d.toNat 1 fun s l =>
    let x := reg s a l
    let y := reg s b l
    [BitVec.ofNat 32 (sumRound f32 .rn [(f16.decode (lowHalf x)).mul (f16.decode (lowHalf y)),
      (f16.decode (highHalf x)).mul (f16.decode (highHalf y)), f32.decode (reg s c l).toNat])])

/-- R171, R172, R174 to R176: selection, special functions, rounding to integral values and conversion. -/
def Sys2Proof.Stated.laneFloatOther : Prop :=
  (∀ k d a b f h, laneResult (.fmnmx k d a b f h) d.toNat (floatWidth (f.toNat / 4)) fun s l =>
    floatResult (f.toNat / 4) (fun t => fMinMax t (f.toNat % 4)) s a b l) ∧
  (∀ k d a b c, laneResult (.fclamp k d a b c) d.toNat 1 fun s l =>
    [BitVec.ofNat 32 (fMinMax f32 0 (fMinMax f32 1 (reg s a l).toNat (reg s b l).toNat) (reg s c l).toNat)]) ∧
  (∀ k d a f h, laneResult (.sfu k d a f h) d.toNat 1 fun s l => [BitVec.ofNat 32 (sfuVal f.toNat (reg s a l).toNat)]) ∧
  (∀ k d a f h, laneResult (.fround k d a f h) d.toNat (floatWidth (f.toNat / 4)) fun s l =>
    floatResult (f.toNat / 4) (fun t x _ => fIntegral t (f.toNat % 4) x) s a a l) ∧
  (∀ k d a src r t h, laneResult (.cvt k d a src r t h) d.toNat (if is64 t then 2 else 1) fun s l =>
    narrow t (convert src.toNat t.toNat (modeOf r.toNat) (if is64 src then (regPair s a l).toNat else (reg s a l).toNat)))

/-- R173 on the decoded values of f32 and f64: NaN first, then the order of the numbers, with -0 equal to +0. -/
def Sys2Proof.Stated.laneFloatCompare : Prop :=
  ∀ k n p a b (ty : BitVec 2) h, laneResult (.fsetp k n p a b ty h) 0 0 (fun _ _ => []) fun s =>
    some (p.toNat, fun l =>
      let x := if ty = 3 then f64.decode (regPair s a l).toNat else f32.decode (reg s a l).toNat
      let y := if ty = 3 then f64.decode (regPair s b l).toNat else f32.decode (reg s b l).toNat
      let un := x.isNan || y.isNan
      let key (v : FVal) : Int := match v with
        | .inf true => -2 ^ 2400
        | .inf false => 2 ^ 2400
        | v => scaled v
      match n.toNat with
      | 6 => !un
      | 7 => un
      | 1 => un || decide (key x ≠ key y)
      | _ => !un && condition n (decide (key x < key y)) (decide (key x = key y)))

/-- R69 and R70: in every mode, rounding gives back a number that its format already holds, with its sign. -/
def Sys2Proof.Stated.roundingKeepsRepresentable : Prop :=
  ∀ f ∈ formats, ∀ mode x n m e, x < 2 ^ f.width → f.decode x = .fin n m e → f.roundD mode (dyadicOf n m e) n = x

/-- R68: in the four arithmetic formats a NaN operand, opposite infinities in a sum and the product of zero and infinity give the default NaN. -/
def Sys2Proof.Stated.invalidGivesDefaultNan : Prop :=
  ∀ f ∈ [f64, f32, f16, bf16], ∀ mode a b c,
    ((f.decode a).isNan ∨ (f.decode b).isNan →
      fAdd f mode a b = f.nan ∧ fSub f mode a b = f.nan ∧ fMul f mode a b = f.nan ∧ fFma f a b c = f.nan ∧ fFma f c a b = f.nan) ∧
    (∀ n, f.decode a = .inf n → f.decode b = .inf !n → fAdd f mode a b = f.nan) ∧
    (∀ n, f.decode a = .inf n → (f.decode b).isZero → fMul f mode a b = f.nan ∧ fMul f mode b a = f.nan ∧ fFma f a b c = f.nan)

/-! ### Lane moves, cross-lane words, queues, indexed registers -/

/-- R179. -/
def Sys2Proof.Stated.laneMoves : Prop :=
  (∀ k d a h, laneResult (.mov k d a 0 h) d.toNat 1 fun s l => [reg s a l]) ∧
  (∀ k d a h, laneResult (.mov k d a 1 h) d.toNat 1 fun s l => [if s.grp.ptrue a.toNat l then 1 else 0]) ∧
  (∀ k d a h, laneResult (.mov k d a 2 h) 0 0 (fun _ _ => []) fun s => some (d.toNat, fun l => (reg s a l).getLsbD 0)) ∧
  (∀ k d i, laneResult (.movi k d i) d.toNat 1 fun _ _ => [i.signExtend 32]) ∧
  (∀ k d i, laneResult (.movhi k d i) d.toNat 1 fun s l => [BitVec.ofNat 32 (i.toNat * 2 ^ 14 + (reg s d l).toNat % 2 ^ 14)]) ∧
  (∀ k d a b p, laneResult (.sel k d a b p) d.toNat 1 fun s l => [if s.grp.ptrue p.toNat l then reg s a l else reg s b l])

/-- R180 and R181: each lane takes another lane's value; a vote over the lanes of the mask. -/
def Sys2Proof.Stated.laneCross : Prop :=
  (∀ k d a b f h, laneResult (.xlane k d a b f h) d.toNat 1 fun s l =>
    [reg s a (crossLane f s.cur.mask ((reg s b l).toNat % 32) l)]) ∧
  (∀ k d p f h, laneResult (.vote k d p f h) d.toNat 1 fun s _ =>
    let yes := (active s).filter fun l => s.grp.ptrue p.toNat l
    [match f.toNat with
     | 0 => if yes ≠ [] then 1 else 0
     | 1 => if yes = active s then 1 else 0
     | 2 => wordOf fun l => decide (l ∈ yes)
     | _ => if yes = active s ∨ yes = [] then 1 else 0])

/-- R187: the name of the group, team, launch and cluster. -/
def Sys2Proof.Stated.laneNames : Prop :=
  ∀ k d f h, laneResult (.rdid k d f h) d.toNat 1 fun s l => [nameOfLane s f l]

/-- R182 and R183: a reduction of the mask, or the lowest lane's value, fills one return-queue slot. -/
def Sys2Proof.Stated.laneReturnQueue : Prop :=
  (∀ k a f h s, (Instr.redux k a f h).wf = true → laneReady (.redux k a f h) s → s.cur.mask ≠ 0 → s.grp.ret.length < 8 →
    ∃ t v r, exec (.redux k a f h) s = .next t ∧ (active s).map (reg s a) = v :: r ∧ returnWrote s t (r.foldl (reduction f) v)) ∧
  (∀ k a h s, (Instr.qpush k a h).wf = true → laneReady (.qpush k a h) s → s.cur.mask ≠ 0 → s.grp.ret.length < 8 →
    ∃ t l r, exec (.qpush k a h) s = .next t ∧ active s = l :: r ∧ returnWrote s t (reg s a l))

/-- R184 and Table 23.2: `qpop` gives every active lane the oldest value and frees its slot, and where it is speculative a rollback can give the value
back; with none ahead of it, QUEUE in every lane of the mask. -/
def Sys2Proof.Stated.laneForwardQueue : Prop :=
  (∀ k d h s q v rest, laneReady (.qpop k d h) s → queuedValues s = (q, v) :: rest → q < s.cur.seq →
    ∃ t, exec (.qpop k d h) s = .next t ∧ queuedValues t = rest ∧
      lanesWrote s { t with grp := { t.grp with popped := s.grp.popped } } d.toNat 1 (fun _ => [v]) ∧
      t.grp.popped = s.grp.popped ++ (if s.grp.speculative s.cur.seq then [.value s.cur.seq q v] else [])) ∧
  (∀ k d h s, d.toNat < s.grp.nregs → (∀ x ∈ queuedValues s, s.cur.seq ≤ x.1) → exec (.qpop k d h) s = .next (wholeFault s 0x07))

/-- R185 and R186: an indexed read and write, and the fields of an index register. -/
def Obligations.LaneIndexed : Prop :=
  (∀ k d x i s, laneReady (.ldx k d x i) s → effInside s x i →
    ∃ t, exec (.ldx k d x i) s = .next t ∧ lanesWrote s t d.toNat 1 (fun l => [s.grp.vreg (effReg s x i l).toNat l])) ∧
  (∀ k d x i s, laneReady (.stx k d x i) s → effInside s x i →
    (∀ l ∈ active s, (effReg s x i l).toNat ∉ lockedRegs s.team s.grp.gidx) →
    ∃ t, exec (.stx k d x i) s = .next t ∧ laneFrame s t ∧ t.grp.landAll.p = s.grp.p ∧
      ∀ n l, l < 32 → t.grp.landAll.vreg n l =
        if s.cur.mask.getLsbD l ∧ (n : Int) = effReg s x i l then reg s d l else s.grp.vreg n l) ∧
  (∀ k x a f h s, (Instr.xset k x a f h).wf = true → laneReady (.xset k x a f h) s →
    ∃ t, exec (.xset k x a f h) s = .next t ∧ indexWrote s t x.toNat fun l old =>
      let v := reg s a l
      match f.toNat with
      | 0 => v &&& 0x00FFFFFF
      | 1 => (old &&& 0xFFFFFF00) ||| (v &&& 0xFF)
      | 2 => (old &&& 0xFFFF00FF) ||| ((v &&& 0xFF) <<< 8)
      | _ => (old &&& 0xFF00FFFF) ||| ((v &&& 0xFF) <<< 16))

namespace Sys2Proof.Stated

/-- A well-formed uniform word that reads the s registers `rs` completes from every ready state: the lanes go to `pc`, the listed s and
c registers have their values, all else is as before. -/
def uniformResult (i : Instr) (rs : List Nat) (sw : State → List (Nat × Word)) (cw : State → List (Nat × Bool) := fun _ => [])
    (pc : State → DWord := fun s => s.cur.pc + 4) : Prop :=
  ∀ s, i.wf = true → uniformReady rs s → ∃ t, exec i s = .next t ∧ uniformWrote s t (pc s) (sw s) (cw s)

/-- The helm's value of s register `n`. -/
def sr (s : State) (n : BitVec 6) : Word := s.grp.sreg n.toNat

/-- The 64-bit value of the pair at `n`. -/
def srPair (s : State) (n : BitVec 6) : DWord := s.grp.sreg (n.toNat + 1) ++ s.grp.sreg n.toNat

/-- A carry form of Table 11.1 writes c(F[2:0]). -/
def carryC (f : BitVec 6) (b : Bool) : List (Nat × Bool) := if 8 ≤ f.toNat then [(f.toNat - 8, b)] else []

/-- Minimum or maximum by the code of Table 9.2. -/
def minMaxForm (f : Nat) (x y : Word) : Word :=
  match f with
  | 0 => BitVec.ofInt 32 (min x.toInt y.toInt)
  | 1 => BitVec.ofInt 32 (max x.toInt y.toInt)
  | 2 => BitVec.ofNat 32 (min x.toNat y.toNat)
  | _ => BitVec.ofNat 32 (max x.toNat y.toNat)

/-- Logic by the code of Table 9.2. -/
def logicForm (f : Nat) (x y : Word) : Word :=
  match f with
  | 0 => x &&& y
  | 1 => x ||| y
  | 2 => x ^^^ y
  | 3 => x &&& ~~~y
  | 4 => x ||| ~~~y
  | _ => ~~~(x ^^^ y)

/-- The lanes of a uniform word have moved to `pc` and the helm has counted it; lane, s and c registers and every memory are as before. -/
def movedOn (s t : State) (pc : DWord) : Prop :=
  (∀ n, t.grp.sreg n = s.grp.sreg n) ∧ (∀ n, t.grp.creg n = s.grp.creg n) ∧ t.grp.v = s.grp.v ∧ t.grp.p = s.grp.p ∧ t.grp.x = s.grp.x ∧
    t.grp.frontier = moveLanes s.grp.frontier s.cur pc ∧ t.grp.live = s.grp.live ∧ t.grp.nextSeq = s.grp.nextSeq + 1 ∧ memoriesKept s t

/-- The helm stops in front of the word with a wait of its own; nothing has moved. -/
def stopped (s t : State) (w : Wait) : Prop :=
  t.grp.wait = w ∧ t.grp.frontier = s.grp.frontier ∧ (∀ n, t.grp.sreg n = s.grp.sreg n) ∧ t.grp.v = s.grp.v ∧ t.grp.nextSeq = s.grp.nextSeq ∧
    memoriesKept s t

/-- A call, a return or a linked jump: as a uniform word, with the stall-class frames (R361) as the one thing more that changes; results owed to the link
registers are owed no longer (R205). -/
def callWrote (s t : State) (pc : DWord) (sw : List (Nat × Word)) : Prop :=
  (∀ n, t.grp.sreg n = ((sw.find? fun w => w.1 = n).map fun w => w.2).getD (s.grp.sreg n)) ∧ (∀ n, t.grp.creg n = s.grp.creg n) ∧
    t.grp.frontier = moveLanes s.grp.frontier s.cur pc ∧
    t.grp = { s.grp with s := t.grp.s, c := t.grp.c, commit := t.grp.commit, frontier := t.grp.frontier, nextSeq := s.grp.nextSeq + 1,
                         runNo := t.grp.runNo, runLen := t.grp.runLen, wait := .ready, trail := t.grp.trail, closed := t.grp.closed,
                         passBreak := none, passSeq := (if s.grp.passBreak.isSome then some s.cur.seq else s.grp.passSeq),
                         flight := t.grp.flight, undo := t.grp.undo, ret := t.grp.ret, owed := t.grp.owed, stall := t.grp.stall,
                         stallExtra := t.grp.stallExtra } ∧
    sameReturns s t ∧ (t.grp.owed = s.grp.owed ∨ t.grp.owed = (s.grp.disown sw).owed) ∧
    { t.team with groups := [] } = { s.team with groups := [] } ∧
    t = { s with clock := s.clock + 1, grp := t.grp, team := t.team, teams := t.teams, stallCnt := t.stallCnt, stallNext := t.stallNext } ∧
    memoriesKept s t

/-- s62:s63 after a link (R213). -/
def link (s : State) : List (Nat × Word) := [(62, (s.cur.pc + 4).setWidth 32), (63, ((s.cur.pc + 4) >>> 32).setWidth 32)]

/-- A register-held target: canonical and a multiple of 4 (R213). -/
def targetOk (t : DWord) : Bool := (t.extractLsb' 56 8 = (if t.getLsbD 55 then 0xFF else 0)) && t.extractLsb' 0 2 = 0

/-- A condition on every barrier, ring or store of the group that lets an arrive or a post take effect at once (R220). -/
def arriveReady (s : State) : Prop := uniformReady [] s ∧ quiet s = true ∧ s.grp.held = []

/-- The bit of the executing group. -/
def ownBit (s : State) : Half := BitVec.ofNat 16 (2 ^ s.grp.gidx)

/-- A team barrier of the executing team. -/
def bar (s : State) (b : BitVec 4) : Barrier := look s.team.bars b.toNat {}

/-- What an arrival makes of a barrier (R219). -/
def arrived (x : Barrier) (bit : Half) : Barrier :=
  if x.arrived ||| bit = x.expect then { x with arrived := 0, phase := !x.phase } else { x with arrived := x.arrived ||| bit }

end Sys2Proof.Stated

/-! ### Uniform arithmetic -/

/-- R207 of R163, R164, R166 and R167: the two-source words. -/
def Sys2Proof.Stated.uniformArithmetic : Prop :=
  (∀ k d a b f, uniformResult (.sadd k d a b f) [a.toNat, b.toNat] (fun s => [(d.toNat, addForm false (f.setWidth 4) (sr s a) (sr s b))])
    fun s => carryC f (carryOut false (sr s a) (sr s b))) ∧
  (∀ k d a b f, uniformResult (.ssub k d a b f) [a.toNat, b.toNat] (fun s => [(d.toNat, addForm true (f.setWidth 4) (sr s a) (sr s b))])
    fun s => carryC f (carryOut true (sr s a) (sr s b))) ∧
  (∀ k d a b f, uniformResult (.smul k d a b f) [a.toNat, b.toNat] fun s =>
    let n := BitVec.ofNat 64 ((sr s a).toNat * (sr s b).toNat)
    let i := BitVec.ofInt 64 ((sr s a).toInt * (sr s b).toInt)
    [(d.toNat, match f.toNat with
      | 0 => n.setWidth 32
      | 1 => (i >>> 32).setWidth 32
      | _ => (n >>> 32).setWidth 32)]) ∧
  (∀ k d a b f, uniformResult (.slogic k d a b f) [a.toNat, b.toNat] fun s => [(d.toNat, logicForm f.toNat (sr s a) (sr s b))]) ∧
  (∀ k d a b f, uniformResult (.sshift k d a b f) [a.toNat, b.toNat] fun s =>
    [(d.toNat, shiftForm (f.setWidth 4) (sr s a) 0 (sr s b).toNat)]) ∧
  (∀ k d a b f, uniformResult (.smnmx k d a b f) [a.toNat, b.toNat] fun s => [(d.toNat, minMaxForm f.toNat (sr s a) (sr s b))]) ∧
  (∀ k d a f, uniformResult (.sbitc k d a f) [a.toNat] fun s => [(d.toNat, bitForm (f.setWidth 4) (sr s a))]) ∧
  (∀ k d a b f, uniformResult (.sbfe k d a b f) [a.toNat, b.toNat] fun s => [(d.toNat, wordOf (fieldBit (f = 1) (sr s a) (sr s b)))])

/-- R207: immediates, selection and compare. -/
def Sys2Proof.Stated.uniformImmediateSelect : Prop :=
  (∀ k d a i, uniformResult (.saddi k d a i) [a.toNat] fun s => [(d.toNat, sr s a + i.signExtend 32)]) ∧
  (∀ k d a i, uniformResult (.sandi k d a i) [a.toNat] fun s => [(d.toNat, sr s a &&& i.setWidth 32)]) ∧
  (∀ k d a i, uniformResult (.sori k d a i) [a.toNat] fun s => [(d.toNat, sr s a ||| i.setWidth 32)]) ∧
  (∀ k d a i, uniformResult (.sxori k d a i) [a.toNat] fun s => [(d.toNat, sr s a ^^^ i.setWidth 32)]) ∧
  (∀ k d a f n, uniformResult (.sshifti k d a f n) [a.toNat] fun s => [(d.toNat, shiftForm f (sr s a) 0 n.toNat)]) ∧
  (∀ k d i, uniformResult (.smovi k d i) [] fun _ => [(d.toNat, i.signExtend 32)]) ∧
  (∀ k d i, uniformResult (.smovhi k d i) [d.toNat] fun s => [(d.toNat, BitVec.ofNat 32 (i.toNat * 2 ^ 14 + (sr s d).toNat % 2 ^ 14))]) ∧
  (∀ k d a b c, uniformResult (.ssel k d a b c) [a.toNat, b.toNat] fun s =>
    [(d.toNat, if s.grp.creg c.toNat then sr s a else sr s b)]) ∧
  (∀ k n p a b z, uniformResult (.scmp k n p a b z) [a.toNat, b.toNat] (fun _ => []) fun s =>
    [(p.toNat, condition n (if z = 1 then decide ((sr s a).toNat < (sr s b).toNat) else decide ((sr s a).toInt < (sr s b).toInt))
      (decide (sr s a = sr s b)))])

/-! ### Uniform control flow -/

/-- R213, R214 and R216: `bra`, `jmpr`, `loop` and `nop`; a register target that is not a canonical multiple of 4 raises BRANCH with FADDR the
target. -/
def Obligations.UniformBranches : Prop :=
  (∀ k c o, uniformResult (.bra k c o) [] (fun _ => []) (fun _ => []) fun s =>
    if s.grp.creg c.toNat then s.cur.pc + (o.signExtend 64 <<< 2) else s.cur.pc + 4) ∧
  (∀ k a c s, uniformReady [a.toNat, a.toNat + 1] s →
    (s.grp.creg c.toNat = false → ∃ t, exec (.jmpr k a c) s = .next t ∧ uniformWrote s t (s.cur.pc + 4) []) ∧
    (s.grp.creg c.toNat = true → targetOk (srPair s a) = true → ∃ t, exec (.jmpr k a c) s = .next t ∧ uniformWrote s t (srPair s a) []) ∧
    (s.grp.creg c.toNat = true → targetOk (srPair s a) = false →
      exec (.jmpr k a c) s = .next (helmFault s 0x15 (srPair s a)))) ∧
  (∀ k d i, uniformResult (.loop k d i) [d.toNat] (fun s => [(d.toNat, BitVec.ofNat 32 ((sr s d).toNat - 1))]) (fun _ => []) fun s =>
    if 1 < (sr s d).toNat then s.cur.pc + (i.signExtend 64 <<< 2) else s.cur.pc + 4) ∧
  (∀ k, uniformResult (.nop k) [] fun _ => [])

/-- R213: `call` and `jmpr.l` write PC + 4 to s62:s63, the target read first; `ret` goes to the pair it names; BRANCH writes no link. -/
def Obligations.UniformCalls : Prop :=
  (∀ k c o s, uniformReady [] s → ∃ t, exec (.call k c o) s = .next t ∧
    (if s.grp.creg c.toNat then callWrote s t (s.cur.pc + (o.signExtend 64 <<< 2)) (link s) else uniformWrote s t (s.cur.pc + 4) [])) ∧
  (∀ k a c s, uniformReady [a.toNat, a.toNat + 1] s → (s.grp.creg c.toNat = true → targetOk (srPair s a) = true) →
    ∃ t, exec (.jmprL k a c) s = .next t ∧
      (if s.grp.creg c.toNat then callWrote s t (srPair s a) (link s) else uniformWrote s t (s.cur.pc + 4) [])) ∧
  (∀ k a c s, uniformReady [a.toNat, a.toNat + 1] s → (s.grp.creg c.toNat = true → targetOk (srPair s a) = true) →
    ∃ t, exec (.ret k a c) s = .next t ∧
      (if s.grp.creg c.toNat then callWrote s t (srPair s a) [] else uniformWrote s t (s.cur.pc + 4) [])) ∧
  (∀ k a c s, uniformReady [a.toNat, a.toNat + 1] s → s.grp.creg c.toNat = true → targetOk (srPair s a) = false →
    exec (.jmprL k a c) s = .next (helmFault s 0x15 (srPair s a)) ∧ exec (.ret k a c) s = .next (helmFault s 0x15 (srPair s a)))

/-- R215, R216 and R217: `exit` leaves no live lane and takes the group out of every barrier; `yield` ends the run and bars the next; `trap` raises TRAP with its
code in every lane of the top entry; `brk` stops the group or acts as `nop`. -/
def Obligations.UniformExitYieldTrap : Prop :=
  (∀ k c s, s.grp.creg c.toNat = true → quiet s = true → s.grp.owed = [] → s.team.uid ≠ 0 → ∃ t, exec (.exit k c) s = .next t ∧ t.grp.live = 0 ∧
    ∀ b < 16, (look t.team.bars b {}).expect.getLsbD s.grp.gidx = false ∧ (look t.team.bars b {}).arrived.getLsbD s.grp.gidx = false) ∧
  (∀ k c s, uniformReady [] s → s.grp.creg c.toNat = false →
    ∃ t, exec (.exit k c) s = .next t ∧ uniformWrote s t (s.cur.pc + 4) []) ∧
  (∀ k s, uniformReady [] s → ∃ t l, exec (.yield k) s = .next t ∧ movedOn s t (s.cur.pc + 4) ∧ t.grp.runNo = s.grp.runNo + 1 ∧ t.grp.runLen = 0 ∧
    t.grp.yielded = s.grp.yielded ++ [{ run := t.grp.runNo, since := s.clock, others := l }]) ∧
  (∀ k i s, exec (.trap k i) s = .next (helmFault s 0x0D 0 (i.setWidth 32))) ∧
  (∀ k i s, uniformReady [] s → (debugAt s s.team.asid s.clock).brkEn = false →
    ∃ t, exec (.brk k i) s = .next t ∧ uniformWrote s t (s.cur.pc + 4) []) ∧
  (∀ k i s, uniformReady [] s → quiet s = true → (debugAt s s.team.asid s.clock).brkEn = true →
    ∃ t, exec (.brk k i) s = .next t ∧ t.grp.wait = .stopped 1 ∧ (∀ n, t.grp.sreg n = s.grp.sreg n) ∧ t.grp.v = s.grp.v)

/-! ### Barriers, rings, events -/

/-- R219: `tbar.mark`, `.meet` and `.enrol`; the barrier completes when the last expected group arrives; a second arrival, or one of a
group that is not expected, raises BARRIER. -/
def Sys2Proof.Stated.teamBarrierArrive : Prop :=
  (∀ k b s, arriveReady s → s.team.uid ≠ 0 → (bar s b).expect &&& ownBit s ≠ 0 → (bar s b).arrived &&& ownBit s = 0 →
    ∃ t, exec (.tbarMark k b) s = .next t ∧ movedOn s t (s.cur.pc + 4) ∧ bar t b = arrived (bar s b) (ownBit s)) ∧
  (∀ k b s, arriveReady s → s.team.uid ≠ 0 → s.grp.wait = .ready → (bar s b).expect &&& ownBit s ≠ 0 → (bar s b).arrived &&& ownBit s = 0 →
    ∃ t, exec (.tbarMeet k b) s = .next t ∧ bar t b = arrived (bar s b) (ownBit s) ∧
      (if (bar s b).arrived ||| ownBit s = (bar s b).expect then movedOn s t (s.cur.pc + 4) else stopped s t (.bar b.toNat true))) ∧
  (∀ k b s, arriveReady s → ∃ t, exec (.tbarEnrol k b) s = .next t ∧ movedOn s t (s.cur.pc + 4) ∧
    bar t b = { bar s b with expect := (bar s b).expect ||| ownBit s }) ∧
  (∀ k b s, arriveReady s → (bar s b).expect &&& ownBit s = 0 ∨ (bar s b).arrived &&& ownBit s ≠ 0 →
    exec (.tbarMark k b) s = .next (helmFault s 0x0B))

/-- R219: `tbar.hold` goes on once the phase of the group's last arrive has been released, and stops the helm until then. -/
def Sys2Proof.Stated.teamBarrierHold : Prop :=
  ∀ k b s, uniformReady [] s → s.grp.wait = .ready → (∀ e ∈ s.grp.commit, e.effect ≠ .arrive b.toNat) → ∃ t, exec (.tbarHold k b) s = .next t ∧
    (if (look s.grp.bars b.toNat {}).held then stopped s t (.bar b.toNat false) else uniformWrote s t (s.cur.pc + 4) [])

/-- R222: a cluster barrier holds one arrival per member and phase; the last one clears it and flips its phase. -/
def Obligations.ClusterBarrier : Prop :=
  (∀ k (b : BitVec 2) s c, arriveReady s → clusterOf s s.team = some c → (look c.arr b.toNat 0).getLsbD s.team.midx = false →
    ∃ t c', exec (.cbarMark k b) s = .next t ∧ movedOn s t (s.cur.pc + 4) ∧ clusterOf t t.team = some c' ∧
      (let m := look c.arr b.toNat 0 ||| BitVec.ofNat 16 (2 ^ s.team.midx)
       if m = BitVec.ofNat 16 (2 ^ (s.team.clh * s.team.clw) - 1) then
         look c'.arr b.toNat 0 = 0 ∧ c'.phase.getLsbD b.toNat = !c.phase.getLsbD b.toNat
       else look c'.arr b.toNat 0 = m ∧ c'.phase = c.phase)) ∧
  (∀ k (b : BitVec 2) s, uniformReady [] s → s.grp.wait = .ready → (∀ e ∈ s.grp.commit, e.effect ≠ .clusterArrive b.toNat) →
    ∃ t, exec (.cbarHold k b) s = .next t ∧
      (if arrSet s s.team b.toNat then stopped s t (.cbar b.toNat false) else uniformWrote s t (s.cur.pc + 4) [])) ∧
  (∀ k (b : BitVec 2) s c, arriveReady s → s.grp.wait = .ready → clusterOf s s.team = some c → s.team.midx < 16 →
    (look c.arr b.toNat 0).getLsbD s.team.midx = false → ∃ t, exec (.cbarMeet k b) s = .next t ∧
      (if look c.arr b.toNat 0 ||| BitVec.ofNat 16 (2 ^ s.team.midx) = BitVec.ofNat 16 (2 ^ (s.team.clh * s.team.clw) - 1) then
         movedOn s t (s.cur.pc + 4) else stopped s t (.cbar b.toNat true))) ∧
  (∀ k (b : BitVec 2) s c, arriveReady s → clusterOf s s.team = some c → (look c.arr b.toNat 0).getLsbD s.team.midx = true →
    exec (.cbarMark k b) s = .next (helmFault s 0x0B))

/-- R225 and R226: `evpop` takes the oldest record whole, or only clears its condition; `evwait` stops the helm while the queue is empty. -/
def Obligations.EventQueue : Prop :=
  (∀ k d c s r rest, uniformReady [] s → quiet s = true → (Instr.evpop k d c).wf = true → s.team.events = r :: rest →
    ∃ t, exec (.evpop k d c) s = .next t ∧ t.team.events = rest ∧
      (∀ n, t.grp.creg n = if n = 7 then true else if n = c.toNat then true else s.grp.creg n) ∧
      ∀ n, t.grp.sreg n = if d.toNat ≤ n ∧ n < d.toNat + 4 then
        [r.tag, BitVec.ofNat 32 (r.status.toNat + 2 ^ 16 * r.flags.toNat + 2 ^ 24 * r.unit.toNat), r.cookie, r.count].getD (n - d.toNat) 0
        else s.grp.sreg n) ∧
  (∀ k d c s, uniformReady [] s → s.team.events = [] →
    ∃ t, exec (.evpop k d c) s = .next t ∧ uniformWrote s t (s.cur.pc + 4) [] [(c.toNat, false)]) ∧
  (∀ k s, uniformReady [] s → ∃ t, exec (.evwait k) s = .next t ∧
    (if s.team.events = [] then stopped s t .event else uniformWrote s t (s.cur.pc + 4) []))

namespace Sys2Proof.Stated

def ring (s : State) (r : BitVec 4) : Ring := look s.team.rings r.toNat {}
/-- The slot and lap phase of an item (R227). -/
def slotOf (x : Ring) (n : Word) : Nat := n.toNat % x.slots
def lapOf (x : Ring) (n : Word) : Bool := n.toNat / x.slots % 2 = 1

end Sys2Proof.Stated

/-- R227: a wait goes on where the slot's FULL and PH bits stand as its kind and the item's lap want, a post flips them, and a post against them or
a ring that is not declared raises RING. -/
def Obligations.StageRings : Prop :=
  (∀ k a e r s, uniformReady [a.toNat] s → (ring s r).slots ≠ 0 → ∃ t, exec (.ringwait k a e r) s = .next t ∧
    (if (ring s r).full.getLsbD (slotOf (ring s r) (sr s a)) = decide (e = 0) ∧
        (ring s r).ph.getLsbD (slotOf (ring s r) (sr s a)) = lapOf (ring s r) (sr s a)
     then uniformWrote s t (s.cur.pc + 4) [] else stopped s t (.ring r.toNat (e = 1) (sr s a)))) ∧
  (∀ k a e r s, arriveReady s → uniformReady [a.toNat] s → (ring s r).slots ≠ 0 → (ring s r).slots ≤ 64 →
    (ring s r).full.getLsbD (slotOf (ring s r) (sr s a)) = decide (e = 1) →
    (ring s r).ph.getLsbD (slotOf (ring s r) (sr s a)) = lapOf (ring s r) (sr s a) →
    ∃ t, exec (.ringpost k a e r) s = .next t ∧ movedOn s t (s.cur.pc + 4) ∧
      (∀ n < 64, (ring t r).full.getLsbD n = if n = slotOf (ring s r) (sr s a) then decide (e = 0) else (ring s r).full.getLsbD n) ∧
      (∀ n < 64, (ring t r).ph.getLsbD n =
        if n = slotOf (ring s r) (sr s a) ∧ e = 1 then !(ring s r).ph.getLsbD n else (ring s r).ph.getLsbD n)) ∧
  (∀ k a e r s, uniformReady [a.toNat] s → (ring s r).slots = 0 → exec (.ringwait k a e r) s = .next (helmFault s 0x0C)) ∧
  (∀ k a e r s, arriveReady s → uniformReady [a.toNat] s → ((ring s r).slots = 0 ∨
      (ring s r).full.getLsbD (slotOf (ring s r) (sr s a)) = decide (e = 0) ∨
      (ring s r).ph.getLsbD (slotOf (ring s r) (sr s a)) ≠ lapOf (ring s r) (sr s a)) →
    exec (.ringpost k a e r) s = .next (helmFault s 0x0C))

namespace Sys2Proof.Stated

/-- The state after the word has issued: its operands are read there. -/
def issued (i : Instr) (s : State) : State := (issueLane s (laneInfo i)).1

/-- The lanes' addresses of a memory word (R188). -/
def addresses (s : State) (a : BitVec 6) (disp : Int) : List (Nat × DWord) :=
  (active s).map fun l => (l, regPair s a l + BitVec.ofInt 64 disp)

/-- The state in which the lanes of a load are checked: the load has been issued on its core (R109). -/
def loading (i : Instr) (s : State) : State := noteLoad (issued i s) s.team.core

/-- The state and the verdicts that the checks of the lanes come to, in lane order (R188, R399); translation may walk page tables. -/
def checks (i : Instr) (s : State) (n : Nat) (acc : Access) (a : BitVec 6) (disp : Int) : State × List LaneAcc :=
  checkLanes n acc (if acc = .read then loading i s else issued i s) (addresses s a disp)

/-- The slices have room for `n` requests each (R366), and no request is held (R367). -/
def roomAtSlices (u : State) (n : Nat) : Prop := u.injected = [] ∧ ∀ d sl, ((look (u.die d).queued sl []).filter fun x => decide (2 * u.clock < x)).length + n ≤ 32

/-- A memory word executes with its own effect once its lanes pass: its registers lie in the allocation, every earlier result has landed
and every earlier access has been performed, nothing older is outstanding, and no destination is locked. -/
def memReady (i : Instr) (s : State) : Prop :=
  (laneInfo i).inAllocation s.grp.nregs = true ∧ s.grp.pend = [] ∧ s.grp.held = [] ∧ s.grp.awaits = [] ∧
    s.grp.speculative s.cur.seq = false ∧
    (lockedRegs s.team s.grp.gidx).all fun r => !(decide ((laneInfo i).dest ≤ r) && decide (r < (laneInfo i).dest + (laneInfo i).width))

/-- Every copy in an L1 holds what memory holds. -/
def l1Current (s : State) : Prop := ∀ c, ∀ e ∈ (s.core c).l1, e.data = lineData s.mem e.line

/-- A target whose value comes from device memory alone: a device line, or this module by the fabric where it accepts the access (Table 24.4). -/
def plain (u : State) (n : Nat) : Target → Prop
  | .device pa => pa % 128 + n ≤ 128
  | .peer m pa => m = fabId u ∧ inboundReason u pa = none
  | _ => False

/-- The bytes at such a target. -/
def valueAt (u : State) (n : Nat) : Target → Nat
  | .device pa => memRead u.mem pa n
  | .peer _ pa => memRead u.mem pa n
  | _ => 0

/-- What a load of a size code writes (R189, R137): F 0 n8, 1 i8, 2 n16, 3 i16, 4 b32, 5 b64, 6 b128, 7 b256. -/
def loaded (f : BitVec 4) (v : Nat) : List Word :=
  match f.toNat with
  | 1 => [(BitVec.ofNat 8 v).signExtend 32]
  | 3 => [(BitVec.ofNat 16 v).signExtend 32]
  | 5 => (List.range 2).map fun k => BitVec.ofNat 32 (v / 2 ^ (32 * k))
  | 6 => (List.range 4).map fun k => BitVec.ofNat 32 (v / 2 ^ (32 * k))
  | 7 => (List.range 8).map fun k => BitVec.ofNat 32 (v / 2 ^ (32 * k))
  | _ => [BitVec.ofNat 32 v]

/-- Registers and bytes of a size code (R137). -/
def sizeRegs (f : BitVec 4) : Nat := match f.toNat with | 5 => 2 | 6 => 4 | 7 => 8 | _ => 1
def sizeBytes (f : BitVec 4) : Nat := match f.toNat with | 0 => 1 | 1 => 1 | 2 => 2 | 3 => 2 | 4 => 4 | 5 => 8 | 6 => 16 | _ => 32

/-- The data of a store (R190). -/
def stored (s : State) (d : BitVec 6) (f : BitVec 4) (l : Nat) : Nat :=
  ((List.range (sizeRegs f)).map fun k => (s.grp.vreg (d.toNat + k) l).toNat * 2 ^ (32 * k)).sum % 2 ^ (8 * sizeBytes f)

/-- Registers other than v, predicates, the frontier and the queues of the group as before. -/
def otherRegsKept (s t : State) : Prop :=
  t.grp.p = s.grp.p ∧ t.grp.x = s.grp.x ∧ t.grp.s = s.grp.s ∧ t.grp.c = s.grp.c ∧ t.grp.frontier = s.grp.frontier ∧
    sameReturns s t ∧ t.grp.owed = s.grp.owed ∧ t.grp.live = s.grp.live ∧ t.grp.fault = s.grp.fault

/-- Once every result has landed, register `d + k` of active lane `l` holds element `k` of `out l`; every other one is as before. -/
def vWrote (s t : State) (d w : Nat) (out : Nat → List Word) : Prop :=
  ∀ n l, l < 32 → t.grp.landAll.vreg n l =
    if s.cur.mask.getLsbD l ∧ d ≤ n ∧ n < d + w then (out l).getD (n - d) 0 else s.grp.vreg n l

/-- The new value of an atomic (R191), F 10 standing for none. -/
def atomicForm (f : Nat) (old b : Word) : Word :=
  match f with
  | 0 => old + b
  | 1 => minMaxForm 0 old b
  | 2 => minMaxForm 1 old b
  | 3 => minMaxForm 2 old b
  | 4 => minMaxForm 3 old b
  | 5 => old &&& b
  | 6 => old ||| b
  | 7 => old ^^^ b
  | 8 => b
  | _ => BitVec.ofNat 32 (fAdd f32 .rn old.toNat b.toNat)

/-- Memory after the lanes' atomics one after another, with the old value each lane finds; `new l old` is what a lane writes, if anything. -/
def atomics (pa : Nat → Nat) (new : Nat → Word → Option Word) (order : List Nat) (m : Memory) : Memory × (Nat → Word) :=
  order.foldl (fun acc l =>
    let old : Word := BitVec.ofNat 32 (memRead acc.1 (pa l) 4)
    (match new l old with
     | some x => memWrite acc.1 (pa l) 4 x.toNat
     | none => acc.1,
     fun k => if k = l then old else acc.2 k)) (m, fun _ => 0)

/-- The lanes of `u`'s word all reach device memory, lane l at `pa l`. -/
def deviceLanes (accs : List LaneAcc) (pa : Nat → Nat) : Prop := ∀ x ∈ accs, ∃ c, x.v = .ok (.device (pa x.lane)) c

/-- Every byte of memory `m` reads as in `m'`. -/
def sameBytes (m m' : Memory) : Prop := ∀ a, memByte m a = memByte m' a

/-- The team and the offset in its scratchpad that a lane's offset register names (R195); none where the access faults. -/
def scratchOf (s : State) (n : Nat) (r : Word) (disp : Int) : Option (Nat × Nat) :=
  match (scratchLane s n r disp).2 with
  | .ok (.share uid o) _ => some (uid, o)
  | _ => none

/-- Every engine's write has been seen (R118): none stands that a lane may still miss. -/
def enginesSeen (s : State) : Prop := ∀ w ∈ s.past, w.path = 0

/-- The scratchpad of a team. -/
def scratchMem (s : State) (uid : Nat) : Memory := ((s.teamOf uid).map fun t => t.scratch).getD []

/-- Each active lane's access lies in the scratchpad of a resident team: lane l in team `(tgt l).1` at offset `(tgt l).2`. -/
def scratchLanes (s : State) (n : Nat) (a : BitVec 6) (disp : Int) (tgt : Nat → Nat × Nat) : Prop :=
  s.team.uid ≠ 0 ∧ ∀ l ∈ active s, scratchOf s n (reg s a l) disp = some (tgt l) ∧ (s.teamOf (tgt l).1).isSome

end Sys2Proof.Stated

/-! ### Lane memory words -/

/-- R189 on device and own-module pages: each active lane's registers take the bytes at its address, extended as the size code says; no
byte of memory changes. Of a host window the word waits for the host adapter's replies, nothing written yet (R407). -/
def Obligations.LaneLoad : Prop :=
  (∀ k d a f (o : BitVec 8) s, (Instr.ld k d a f o).wf = true → memReady (.ld k d a f o) s →
    let n := sizeBytes f
    let c := checks (.ld k d a f o) s n .read a (o.toInt * n)
    ∀ tgt : Nat → Target, (∀ x ∈ c.2, plain c.1 n (tgt x.lane) ∧ ∃ h, x.v = .ok (tgt x.lane) h) → l1Current c.1 → roomAtSlices c.1 (active s).length →
    ∃ t, exec (.ld k d a f o) s = .next t ∧ vWrote s t d.toNat (sizeRegs f) (fun l => loaded f (valueAt c.1 n (tgt l))) ∧
      otherRegsKept s t ∧ memoriesKept c.1 t) ∧
  (∀ k d a f (o : BitVec 8) s, (Instr.ld k d a f o).wf = true → memReady (.ld k d a f o) s → s.cur.mask ≠ 0 →
    let n := sizeBytes f
    let c := checks (.ld k d a f o) s n .read a (o.toInt * n)
    c.1.slalia.lost = false → (∀ x ∈ c.2, ∃ b tso h, x.v = .ok (.host b tso) h) →
    ∃ t w, exec (.ld k d a f o) s = .next t ∧ t.grp.awaits = [w] ∧ w.cur = s.cur ∧ w.kind = .load f.toNat d.toNat ∧ w.accs = c.2 ∧
      w.since = some c.1.clock ∧ w.hosts = 0 ∧ vWrote s t 0 0 (fun _ => []) ∧ otherRegsKept s t ∧ memoriesKept c.1 t)

/-- R190, R107 and R194 on device pages: the lanes' stores happen in some order, each whole; every other byte and every register is as
before. -/
def Obligations.LaneStore : Prop :=
  ∀ k d a f (o : BitVec 8) s, (Instr.st k d a f o).wf = true → memReady (.st k d a f o) s →
    let n := sizeBytes f
    let c := checks (.st k d a f o) s n .write a (o.toInt * n)
    ∀ pa, deviceLanes c.2 pa → roomAtSlices c.1 (active s).length →
    ∃ (t : State) (order : List Nat), exec (.st k d a f o) s = .next t ∧ order.Perm (active s) ∧
      sameBytes t.mem (order.foldl (fun m l => memWrite m (pa l) n (stored s d f l)) c.1.mem) ∧
      sameBytes t.hostMem c.1.hostMem ∧ otherRegsKept s t ∧ vWrote s t 0 0 (fun _ => [])

/-- R191, R192, R105 and R194 on device pages: the lanes' atomics happen one after another, each receiving the old value of its own event; `red`
receives none; a `cas` that compares unequal writes nothing. -/
def Obligations.LaneAtomics : Prop :=
  (∀ k d a b f h s, (Instr.atom k d a b f h).wf = true → memReady (.atom k d a b f h) s →
    let c := checks (.atom k d a b f h) s 4 .atomic a 0
    ∀ pa, deviceLanes c.2 pa → roomAtSlices c.1 (active s).length → ∃ (t : State) (order : List Nat), exec (.atom k d a b f h) s = .next t ∧ order.Perm (active s) ∧
      (let r := atomics pa (fun l old => some (atomicForm f.toNat old (reg s b l))) order c.1.mem
       sameBytes t.mem r.1 ∧ vWrote s t d.toNat 1 fun l => [r.2 l]) ∧ otherRegsKept s t) ∧
  (∀ k d a b e s, (Instr.cas k d a b e).wf = true → memReady (.cas k d a b e) s →
    let c := checks (.cas k d a b e) s 4 .atomic a 0
    ∀ pa, deviceLanes c.2 pa → roomAtSlices c.1 (active s).length → ∃ (t : State) (order : List Nat), exec (.cas k d a b e) s = .next t ∧ order.Perm (active s) ∧
      (let r := atomics pa (fun l old => if old = reg s b l then some (reg s e l) else none) order c.1.mem
       sameBytes t.mem r.1 ∧ vWrote s t d.toNat 1 fun l => [r.2 l]) ∧ otherRegsKept s t) ∧
  (∀ k a b f h s, (Instr.red k a b f h).wf = true → memReady (.red k a b f h) s →
    let c := checks (.red k a b f h) s 4 .atomic a 0
    ∀ pa, deviceLanes c.2 pa → roomAtSlices c.1 (active s).length → ∃ (t : State) (order : List Nat), exec (.red k a b f h) s = .next t ∧ order.Perm (active s) ∧
      sameBytes t.mem (atomics pa (fun l old => some (atomicForm f.toNat old (reg s b l))) order c.1.mem).1 ∧
      vWrote s t 0 0 (fun _ => []) ∧ otherRegsKept s t)

/-- R196: scratchpad words do at the target team's scratchpad what R189 to R191 do in memory, and touch no memory. -/
def Sys2Proof.Stated.laneScratchpad : Prop :=
  (∀ k d a f (o : BitVec 8) s, (Instr.lds k d a f o).wf = true → memReady (.lds k d a f o) s → enginesSeen s →
    ∀ tgt, scratchLanes s (sizeBytes f) a (o.toInt * sizeBytes f) tgt → ∃ t, exec (.lds k d a f o) s = .next t ∧
      vWrote s t d.toNat (sizeRegs f) (fun l => loaded f (memRead (scratchMem s (tgt l).1) (tgt l).2 (sizeBytes f))) ∧
      (∀ u, scratchMem t u = scratchMem s u) ∧ otherRegsKept s t ∧ memoriesKept s t) ∧
  (∀ k d a f (o : BitVec 8) s, (Instr.sts k d a f o).wf = true → memReady (.sts k d a f o) s →
    ∀ tgt, scratchLanes s (sizeBytes f) a (o.toInt * sizeBytes f) tgt → ∃ (t : State) (order : List Nat), exec (.sts k d a f o) s = .next t ∧
      order.Perm (active s) ∧
      (∀ u, sameBytes (scratchMem t u)
        ((order.filter fun l => (tgt l).1 = u).foldl (fun m l => memWrite m (tgt l).2 (sizeBytes f) (stored s d f l)) (scratchMem s u))) ∧
      vWrote s t 0 0 (fun _ => []) ∧ otherRegsKept s t ∧ memoriesKept s t) ∧
  (∀ k d a b f h s, (Instr.atoms k d a b f h).wf = true → memReady (.atoms k d a b f h) s →
    ∀ tgt, scratchLanes s 4 a 0 tgt → ∃ (t : State) (order : List Nat), exec (.atoms k d a b f h) s = .next t ∧ order.Perm (active s) ∧
      (∀ u, let r := atomics (fun l => (tgt l).2) (fun l old => some (atomicForm f.toNat old (reg s b l)))
              (order.filter fun l => (tgt l).1 = u) (scratchMem s u)
            sameBytes (scratchMem t u) r.1 ∧
            ∀ l ∈ active s, (tgt l).1 = u → t.grp.landAll.vreg d.toNat l = r.2 l) ∧
      (∀ n l, l < 32 → ¬ (s.cur.mask.getLsbD l ∧ n = d.toNat) → t.grp.landAll.vreg n l = s.grp.vreg n l) ∧
      otherRegsKept s t ∧ memoriesKept s t)

/-- R195 for a team's own scratchpad: an aligned offset inside the allocation is that team's byte, and one outside, or not a multiple of the
size, is SCRATCH or ALIGN. -/
def Sys2Proof.Stated.scratchpadOffsets : Prop :=
  ∀ (s : State) (n : Nat) (r : Word) (disp : Int), r.toNat / 2 ^ 28 = 15 →
    let o : Int := (r.toNat % 2 ^ 28 : Nat) + disp
    (0 ≤ o → o + n ≤ s.team.scratchSize → o % n = 0 → scratchOf s n r disp = some (s.team.uid, o.toNat)) ∧
    (o < 0 ∨ (s.team.scratchSize : Int) < o + n → (scratchLane s n r disp).2 = .fail 0x12 0) ∧
    (0 ≤ o → o + n ≤ s.team.scratchSize → o % n ≠ 0 → (scratchLane s n r disp).2 = .fail 0x0E 0)

/-- R197: `pref` completes whatever its lanes' addresses are, raises nothing and writes no register; with one active lane on a device page `.l1`
leaves the line in the core's L1. -/
def Obligations.LanePrefetch : Prop :=
  ∀ k a f (o : BitVec 8) s, (Instr.pref k a f o).wf = true → memReady (.pref k a f o) s →
    ∃ t, exec (.pref k a f o) s = .next t ∧ otherRegsKept s t ∧ vWrote s t 0 0 (fun _ => []) ∧
      ∀ l pa c u, active s = [l] → f = 0 →
        checkLane (issued (.pref k a f o) s) 1 .read ((regPair s a l + BitVec.ofInt 64 (o.toInt * 128)) &&& ~~~127) = (u, .ok (.device pa) c) →
        (l1Line t s.team.core (pa / 128)).isSome

/-- R108 and R117 in this model's terms: with every L1 copy current, a lane-path load of device memory gives the bytes of memory, and the loading
core's CTIME does not fall; a lane-path store puts its bytes into memory and into the core's own copy. -/
def Obligations.LanePathDevice : Prop :=
  (∀ s core pa n len c asid, l1Current s → pa % 128 + n ≤ 128 →
    (laneLoad s core pa n len c asid).2 = memRead s.mem pa n ∧ (laneLoad s core pa n len c asid).1.mem = s.mem ∧
    l1Current (laneLoad s core pa n len c asid).1 ∧ (s.core core).ctime ≤ ((laneLoad s core pa n len c asid).1.core core).ctime) ∧
  (∀ s core pa n v c asid, pa % 128 + n ≤ 128 →
    (laneStore s core pa n v c asid).mem = memWrite s.mem pa n v ∧
    ∀ e, l1Line (laneStore s core pa n v c asid) core (pa / 128) = some e → e.data = lineData (laneStore s core pa n v c asid).mem (pa / 128))

namespace Sys2Proof.Stated

/-- The lookups of a level load's lanes, and the state they leave (R321). -/
def lookups (i : Instr) (s : State) (r : Lod) (sample : Bool) (c slot : BitVec 6) (mode : BitVec 4) (bad : Bool) : State × List LodLane :=
  (active s).foldl (fun acc l =>
    let x := lodLane r sample mode.toNat slot.toNat bad acc.1 l
      ((List.range (coordRegs mode.toNat)).map fun k => (s.grp.vreg (c.toNat + k) l).toNat)
    (x.1, acc.2 ++ [x.2])) (loading i s, [])

/-- Every lane found its level and its texels lie in device memory. -/
def texelsFound (lanes : List LodLane) (z : Nat) : Prop :=
  ∀ x ∈ lanes, ∀ a ∈ x.accs, ∃ pa c, a.v = .ok (.device pa) c ∧ pa % 128 + z ≤ 128 ∧ a.lane = x.lane

/-- The status register of a lane (R321): delivered and wanted level, fallback, tail. -/
def statusOf (r : Lod) (x : LodLane) (w : Word) : Prop :=
  w.toNat % 16 = x.d % 16 ∧ w.toNat / 16 % 16 = x.w % 16 ∧ w.getLsbD 8 = decide (x.w < x.d) ∧ w.getLsbD 11 = decide (r.tailLvl ≤ x.d)

end Sys2Proof.Stated

/-- R320 to R323: `ldlod` and `sample` write their registers and a status word in every lane whose lookup and texels are found; an empty slot is
TARGET. -/
def Obligations.LaneLevelLoads : Prop :=
  (∀ k d c slot f s r, (Instr.ldlod k d c slot f).wf = true → memReady (.ldlod k d c slot f) s →
    slotOf (issued (.ldlod k d c slot f) s) s.team.asid slot.toNat = some r →
    d.toNat + (r.z / 4 + 1) ≤ min 64 s.grp.nregs → lockedRegs s.team s.grp.gidx = [] →
    let q := lookups (.ldlod k d c slot f) s r false c slot f false
    texelsFound q.2 r.z → roomAtSlices q.1 1 → ∃ t, exec (.ldlod k d c slot f) s = .next t ∧ otherRegsKept s t ∧
      (∀ x ∈ q.2, x.d < 16 → x.w < 16 → statusOf r x (t.grp.landAll.vreg (d.toNat + r.z / 4) x.lane)) ∧
      ∀ n l, l < 32 → ¬ (s.cur.mask.getLsbD l ∧ d.toNat ≤ n ∧ n ≤ d.toNat + r.z / 4) → t.grp.landAll.vreg n l = s.grp.vreg n l) ∧
  (∀ k d c slot f s r, (Instr.sample k d c slot f).wf = true → memReady (.sample k d c slot f) s →
    slotOf (issued (.sample k d c slot f) s) s.team.asid slot.toNat = some r →
    d.toNat + 5 ≤ min 64 s.grp.nregs → lockedRegs s.team s.grp.gidx = [] →
    let q := lookups (.sample k d c slot f) s r true c slot f false
    texelsFound q.2 r.z → roomAtSlices q.1 1 → ∃ t, exec (.sample k d c slot f) s = .next t ∧ otherRegsKept s t ∧
      (∀ x ∈ q.2, x.d < 16 → x.w < 16 → statusOf r x (t.grp.landAll.vreg (d.toNat + 4) x.lane)) ∧
      ∀ n l, l < 32 → ¬ (s.cur.mask.getLsbD l ∧ d.toNat ≤ n ∧ n ≤ d.toNat + 4) → t.grp.landAll.vreg n l = s.grp.vreg n l) ∧
  (∀ k d c slot f s, memReady (.ldlod k d c slot f) s → slotOf (issued (.ldlod k d c slot f) s) s.team.asid slot.toNat = none →
    exec (.ldlod k d c slot f) s = .next (raise (loading (.ldlod k d c slot f) s)
      { cur := s.cur, lanes := s.cur.mask, cls := 0x13, fcode := 2 }))

namespace Sys2Proof.Stated

/-- A uniform memory word performs its access at once: nothing older is outstanding and every older store has been performed. -/
def accessReady (rs : List Nat) (s : State) : Prop :=
  uniformReady rs s ∧ quiet s = true ∧ s.grp.held = [] ∧ s.grp.awaits = []

/-- The address of `sld` and `sst` (R209): offset in units of the size. -/
def uniAddress (s : State) (a : BitVec 6) (o : BitVec 10) (n : Nat) : DWord := srPair s a + BitVec.ofInt 64 (o.toInt * n)

/-- Bytes of a size code (R209): 0 b32, 1 b64, 2 n16, 3 n8. -/
def uniBytes (z : BitVec 2) : Nat := match z.toNat with | 0 => 4 | 1 => 8 | 2 => 2 | _ => 1

/-- s registers listed have their values, every other one and every c register is as before, and the lanes have moved on. -/
def resultWrote (s t : State) (sw : List (Nat × Word)) : Prop :=
  (∀ n, t.grp.sreg n = ((sw.find? fun w => w.1 = n).map fun w => w.2).getD (s.grp.sreg n)) ∧ (∀ n, t.grp.creg n = s.grp.creg n) ∧
    t.grp.v = s.grp.v ∧ t.grp.p = s.grp.p ∧ t.grp.x = s.grp.x ∧ t.grp.frontier = moveLanes s.grp.frontier s.cur (s.cur.pc + 4) ∧
    t.grp.nextSeq = s.grp.nextSeq + 1

/-- The registers of an `sld` (R209). -/
def loadResult (z : BitVec 2) (d : BitVec 6) (v : Nat) : List (Nat × Word) :=
  if z = 1 then [(d.toNat, BitVec.ofNat 32 v), (d.toNat + 1, BitVec.ofNat 32 (v / 2 ^ 32))] else [(d.toNat, BitVec.ofNat 32 v)]

/-- Numbers that `rdsys` reads in some context (Table 11.5). -/
def readable (n : Nat) : Bool :=
  [0x00, 0x01, 0x02, 0x04, 0x05, 0x06, 0x07, 0x10].contains n || (0x20 ≤ n && n ≤ 0x37) || n = 0x3A || n = 0x3B

/-- The CTX registers (Table 11.5) but for the read-only ASID. -/
def ctxNumber (n : Nat) : Bool := (0x20 ≤ n && n ≤ 0x27) || (0x29 ≤ n && n ≤ 0x2F) || n = 0x3A || n = 0x3B

/-- The group's oldest value that `spop` may take. -/
def poppable (s : State) (e : RetEntry) : Prop :=
  s.grp.ret.head? = some e ∧ e.ready ≤ s.clock ∧ s.grp.speculative e.seq = false

end Sys2Proof.Stated

/-! ### Uniform memory and queues -/

/-- R209 to R211: `sld` takes the bytes at its address, `sst` stores, `satom` does both as one event. -/
def Obligations.UniformMemory : Prop :=
  (∀ k d a z o s u T c, (Instr.sld k d a z o).wf = true → accessReady [a.toNat, a.toNat + 1] s →
    checkLane s (uniBytes z) .read (uniAddress s a o (uniBytes z)) = (u, .ok T c) → plain u (uniBytes z) T → l1Current u → roomAtSlices u 1 →
    ∃ t, exec (.sld k d a z o) s = .next t ∧ resultWrote s t (loadResult z d (valueAt u (uniBytes z) T)) ∧ memoriesKept u t) ∧
  (∀ k d a z o s u pa c, (Instr.sst k d a z o).wf = true →
    accessReady ([a.toNat, a.toNat + 1, d.toNat] ++ if z = 1 then [d.toNat + 1] else []) s →
    checkLane s (uniBytes z) .write (uniAddress s a o (uniBytes z)) = (u, .ok (.device pa) c) → roomAtSlices u 1 →
    ∃ t, exec (.sst k d a z o) s = .next t ∧ resultWrote s t [] ∧
      sameBytes t.mem (memWrite u.mem pa (uniBytes z) ((srPair s d).toNat % 2 ^ (8 * uniBytes z)))) ∧
  (∀ k d a b f s u pa c, (Instr.satom k d a b f).wf = true → accessReady [a.toNat, a.toNat + 1, b.toNat] s →
    checkLane s 4 .atomic (srPair s a) = (u, .ok (.device pa) c) → roomAtSlices u 1 →
    let old : Word := BitVec.ofNat 32 (memRead u.mem pa 4)
    ∃ t, exec (.satom k d a b f) s = .next t ∧ resultWrote s t [(d.toNat, old)] ∧
      sameBytes t.mem (memWrite u.mem pa 4 (atomicForm f.toNat old (sr s b)).toNat))

/-- R212 and R44: `spush` appends to the forward queue and waits at 16 entries; `spop` takes the oldest value that is available, and stops the helm
while there is none. -/
def Obligations.UniformQueues : Prop :=
  (∀ k a s, uniformReady [a.toNat] s → s.grp.fwd.length < 16 → ∃ t, exec (.spush k a) s = .next t ∧ movedOn s t (s.cur.pc + 4) ∧
    t.grp.fwd = s.grp.fwd ++ [.value s.cur.seq (sr s a)]) ∧
  (∀ k a s, uniformReady [a.toNat] s → 16 ≤ s.grp.fwd.length → exec (.spush k a) s = .next (s.tick 1)) ∧
  (∀ k d s e, uniformReady [] s → poppable s e → ∃ t, exec (.spop k d) s = .next t ∧ resultWrote s t [(d.toNat, e.value)] ∧
    (t.grp.ret.map fun r => (r.seq, r.value)) = (s.grp.ret.tail.map fun r => (r.seq, r.value)) ∧ memoriesKept s t) ∧
  (∀ k d s, (∀ e, ¬ poppable s e) → ∃ t, exec (.spop k d) s = .next t ∧ stopped s t .spop ∧ sameReturns s t)

/-! ### System registers -/

/-- R229 and Table 11.5: `rdsys` reads every listed number, the group's, team's and context's own values; CORE is read in a privileged context
only; anything else raises SYSREG. -/
def Sys2Proof.Stated.systemRegisterRead : Prop :=
  (∀ k d (n : BitVec 18) s, uniformReady [] s → (∀ e ∈ s.grp.commit, ∀ r v, e.effect ≠ .wrsys r v) →
    readable n.toNat = true → (n = 0x10 → s.team.priv = true) →
    ∃ t v, exec (.rdsys k d n) s = .next t ∧ sysValue s n.toNat = some v ∧ resultWrote s t [(d.toNat, v)] ∧ memoriesKept s t ∧
      t.grp.promHi = (if n = 6 then (s.team.promClk >>> 32).setWidth 32 else s.grp.promHi)) ∧
  (∀ k d (n : BitVec 18) s, (∀ e ∈ s.grp.commit, ∀ r v, e.effect ≠ .wrsys r v) →
    readable n.toNat = false ∨ (n = 0x10 ∧ s.team.priv = false) → exec (.rdsys k d n) s = .next (helmFault s 0x06)) ∧
  (∀ s, sysValue s 0x02 = some s.grp.gang ∧ sysValue s 0x05 = some s.team.promCnt ∧
    sysValue s 0x01 = some (BitVec.ofNat 32 (min 64 s.team.events.length)) ∧
    sysValue s 0x28 = some (s.team.asid.setWidth 32) ∧ sysValue s 0x31 = some s.grp.fault.lanes ∧
    sysValue s 0x32 = some (s.grp.fault.fpc.setWidth 32) ∧ sysValue s 0x33 = some ((s.grp.fault.fpc >>> 32).setWidth 32) ∧
    sysValue s 0x34 = some (s.grp.fault.faddr.setWidth 32) ∧ sysValue s 0x35 = some ((s.grp.fault.faddr >>> 32).setWidth 32) ∧
    sysValue s 0x36 = some s.grp.fault.fword ∧ sysValue s 0x37 = some s.grp.fault.fcode)

/-- R229: a permitted `wrsys` of a CTX register reads back, a write of PROMSTAT clears the bits written as 1, and a write that the register or
the context does not permit raises SYSREG. -/
def Obligations.SystemRegisterWrite : Prop :=
  (∀ k d (n : BitVec 18) s, uniformReady [d.toNat] s → quiet s = true → ctxNumber n.toNat = true → sysWritable s n.toNat (sr s d) = true →
    ∃ t, exec (.wrsys k d n) s = .next t ∧ movedOn s t (s.cur.pc + 4) ∧ sysValue t n.toNat = some (sr s d) ∧
      ∀ m, ctxNumber m = true → m ≠ n.toNat → sysValue t m = sysValue s m) ∧
  (∀ k d s, uniformReady [d.toNat] s → quiet s = true → (sr s d).toNat < 256 →
    ∃ t, exec (.wrsys k d 4) s = .next t ∧ movedOn s t (s.cur.pc + 4) ∧
      ∀ b < 8, t.team.promStat.getLsbD b = (s.team.promStat.getLsbD b && !(sr s d).getLsbD b)) ∧
  (∀ k d (n : BitVec 18) s, uniformReady [d.toNat] s → (ctxNumber n.toNat = false ∧ n ≠ 4 ∧ n ≠ 0x38) ∨ (s.team.priv = false ∧ n ≠ 4 ∧ n ≠ 0x38) →
    exec (.wrsys k d n) s = .next (helmFault s 0x06))

/-- R231: `rdcnt` writes the 64-bit count to the pair: core clocks, tempo ticks, the team's and the context's energy, an island's energy. -/
def Sys2Proof.Stated.counters : Prop :=
  ∀ k d (n : BitVec 18), uniformResult (.rdcnt k d n) [] fun s =>
    let v : DWord := BitVec.ofNat 64 (match n.toNat with
      | 0 => s.clock
      | 1 => s.trace.ticks
      | 2 => s.team.energy
      | 3 => (look s.ctxRes s.team.asid.toNat {}).energy
      | m => look s.hub.energy (m - 0x400) 0)
    [(d.toNat, v.setWidth 32), (d.toNat + 1, (v >>> 32).setWidth 32)]

/-! ### Fences and publication -/

/-- R122, R119 and R223: `fence` goes on once the older stores are performed, at system scope the older loads too, and `xfence` once its before-set is;
both otherwise stop the helm; after an `xfence` towards LANE the core's CTIME lies above every write time seen on the paths of the before-set. An
`xfence` that combines partial sums (R124) waits where the combination does. -/
def Sys2Proof.Stated.fences : Prop :=
  (∀ k sc s, uniformReady [] s → s.grp.wait = .ready → ∃ t, exec (.fence k sc) s = .next t ∧
    (if allQuiet s.grp = true ∧ ∀ h ∈ s.grp.held, sc ≠ 4 ∧ (h.load.isSome = true ∨ h.lod.isSome = true)
     then movedOn s t (s.cur.pc + 4) else stopped s t (.fence (sc = 4)))) ∧
  (∀ k bm am sc s, uniformReady [] s → s.grp.wait = .ready → allQuiet s.grp = true → beforeDone s bm = true → (xfenceCombine s bm sc).2 = true →
    ∃ t, exec (.xfence k bm am sc) s = .next t ∧
    (∀ n, t.grp.sreg n = s.grp.sreg n) ∧ t.grp.v = s.grp.v ∧ t.grp.frontier = moveLanes s.grp.frontier s.cur (s.cur.pc + 4) ∧
    (am.getLsbD 0 = true → ∀ p < 9, bm.getLsbD p = true → look s.team.seenWts p 0 < (t.core s.team.core).ctime)) ∧
  (∀ k bm am sc s, s.grp.wait = .ready → allQuiet s.grp = false ∨ beforeDone s bm = false →
    ∃ t, exec (.xfence k bm am sc) s = .next t ∧ stopped s t (.xfence bm am sc)) ∧
  (∀ k bm am sc s, s.grp.wait = .ready → allQuiet s.grp = true → beforeDone s bm = true → (xfenceCombine s bm sc).2 = false →
    ∃ t, exec (.xfence k bm am sc) s = .next t ∧ t.grp.wait = .xfence bm am sc ∧ t.grp.frontier = s.grp.frontier ∧ t.grp.v = s.grp.v ∧
      ∀ n, t.grp.sreg n = s.grp.sreg n)

/-- R224 and R125: `publish` makes the covered writes visible and sets the counter at CTX.PUBADDR to the greater of V and its value. -/
def Sys2Proof.Stated.publication : Prop :=
  (∀ k a s, uniformReady [a.toNat, a.toNat + 1] s → s.grp.wait = .ready → quiet s = true → s.grp.held = [] → s.slalia.lost = false →
    ∃ t, exec (.publish k a) s = .next t ∧
      (let at_ := 8 * ((ctxOf s s.team.asid).pubAddr.toNat / 8 % 2 ^ 43)
       let before := (flushHost s fun w => w.fenced || (w.uid = s.team.uid && w.gidx = s.grp.gidx && w.path = 0)).hostMem
       memRead t.hostMem at_ 8 = max (srPair s a).toNat (memRead before at_ 8) ∧
       ∀ b, b < at_ ∨ at_ + 8 ≤ b → memByte t.hostMem b = memByte before b) ∧
      (∀ w ∈ t.hostPending, w.fenced = false) ∧ t.grp.frontier = moveLanes s.grp.frontier s.cur (s.cur.pc + 4) ∧
      (∀ n, t.grp.sreg n = s.grp.sreg n) ∧ sameBytes t.mem s.mem) ∧
  (∀ k a s, uniformReady [a.toNat, a.toNat + 1] s → s.grp.wait = .ready → quiet s = false ∨ s.grp.held ≠ [] →
    ∃ t, exec (.publish k a) s = .next t ∧ stopped s t (.publish (srPair s a)))

/-! ### Spawn -/

/-- R218 and R36: a child group takes the lanes of the word's mask, the parent's registers vn to vn+7 and the target; sd its index, or all ones
where no place is free; REGISTER outside the limits. -/
def Obligations.Spawn : Prop :=
  (∀ k d a n s idx q slot, uniformReady [a.toNat, a.toNat + 1] s → quiet s = true → s.grp.pend = [] → s.grp.held = [] → n.toNat ≤ 56 →
    n.toNat + 8 ≤ s.grp.nregs → leastFree ((s.groupsOf s.team.uid).map fun g => g.gidx) = some idx → childPlace s = some (q, slot) →
    ∃ t, exec (.spawn k d a n) s = .next t ∧ resultWrote s t [(d.toNat, BitVec.ofNat 32 idx)] ∧ memoriesKept s t ∧
      ∃ c ∈ t.team.groups, c.gidx = idx ∧ c.quad = q ∧ c.gslot = slot ∧ c.live = s.cur.mask ∧ c.nregs = s.grp.nregs ∧
        c.frontier = [{ pc := srPair s a, prio := 0, mask := s.cur.mask }] ∧
        ∀ r < 8, ∀ l < 32, s.cur.mask.getLsbD l → c.vreg r l = s.grp.vreg (n.toNat + r) l) ∧
  (∀ k d a n s, uniformReady [a.toNat, a.toNat + 1] s → quiet s = true → s.grp.pend = [] → s.grp.held = [] → n.toNat ≤ 56 → n.toNat + 8 ≤ s.grp.nregs →
    leastFree ((s.groupsOf s.team.uid).map fun g => g.gidx) = none ∨ childPlace s = none →
    ∃ t, exec (.spawn k d a n) s = .next t ∧ resultWrote s t [(d.toNat, 0xFFFFFFFF)] ∧ memoriesKept s t) ∧
  (∀ k d a n s, uniformReady [a.toNat, a.toNat + 1] s → 56 < n.toNat ∨ s.grp.nregs < n.toNat + 8 → exec (.spawn k d a n) s = .next (helmFault s 0x02))

/-! ### Matrix words -/

namespace Sys2Proof.Stated

/-- A matrix-role word takes effect at once. -/
def matrixReady (rs : List Nat) (s : State) : Prop := uniformReady rs s ∧ quiet s = true ∧ s.grp.role = .matrix

/-- A GANG value of R234: 2 to 6 distinct members with the group among them, 2 or 4 of them holders, the other places 0. -/
def gangValue (v : Word) (self : Nat) : Prop :=
  let n := v.toNat % 8
  let h := v.toNat / 8 % 8
  let m (i : Nat) : Nat := v.toNat / 2 ^ (6 + 4 * i) % 16
  2 ≤ n ∧ n ≤ 6 ∧ (h = 2 ∨ h = 4) ∧ h ≤ n ∧ (∀ i < n, ∀ j < n, i ≠ j → m i ≠ m j) ∧ (∃ i < n, m i = self) ∧ ∀ i < 6, n ≤ i → m i = 0

/-- A joint word is delivered by a member that is not the last one: the tile's latch holds it, with the members so far; the group goes
on. -/
def delivered (i : Instr) (s t : State) : Prop :=
  ∃ w l, encode i = some w ∧ movedOn s t (s.cur.pc + 4) ∧ (look t.team.tiles (jointTile w) {}).latch = some l ∧ l.word = w ∧ l.gang = s.grp.gang ∧
    l.arrived = (match (look s.team.tiles (jointTile w) {}).latch with | some x => x.arrived | none => 0) ||| ownBit s

/-- What lets a member deliver (R235): it is in its own gang, every listed group is a live matrix-role group, the latch is empty or holds the
same word of the same gang without it, some other member is still to come, and the group's older accesses are performed (R246). -/
def mayDeliver (w : Word) (s : State) : Prop :=
  let x := (look s.team.tiles (jointTile w) {}).latch
  let seen : Half := match x with | some l => l.arrived | none => 0
  (gangMembers s.grp.gang).contains s.grp.gidx = true ∧ (∀ m ∈ gangMembers s.grp.gang, m ∈ liveMatrix s s.team.uid) ∧
    (∀ l, x = some l → l.word = w ∧ l.gang = s.grp.gang) ∧ seen.getLsbD s.grp.gidx = false ∧ s.grp.gidx < 16 ∧
    (∃ m ∈ gangMembers s.grp.gang, m ≠ s.grp.gidx ∧ seen.getLsbD m = false) ∧
    (∀ d ∈ s.team.deferred, d.members.getLsbD s.grp.gidx = false) ∧ ∀ h ∈ s.grp.held, s.cur.seq ≤ h.seq

/-- A joint word completes as a delivery from every such state, `rs` being the s registers it reads. -/
def jointDelivers (i : Instr) (rs : List Nat) : Prop :=
  ∀ s w, i.wf = true → encode i = some w → matrixReady rs s → s.team.uid ≠ 0 → mayDeliver w s → ∃ t, exec i s = .next t ∧ delivered i s t

end Sys2Proof.Stated

/-- R234 and R239: `gang`, `obres` and `obrel` write the gang register and the reservations. -/
def Obligations.GangAndReservations : Prop :=
  (∀ k a s, matrixReady [a.toNat] s → gangValue (sr s a) s.grp.gidx → ∃ t, exec (.gang k a) s = .next t ∧ movedOn s t (s.cur.pc + 4) ∧
    t.grp.gang = sr s a) ∧
  (∀ k a s, matrixReady [a.toNat] s → ¬ gangValue (sr s a) s.grp.gidx → exec (.gang k a) s = .next (helmFault s 0x16)) ∧
  (∀ k o a b s, matrixReady [a.toNat, a.toNat + 1, b.toNat, b.toNat + 1] s →
    resvOk (srPair s a) (srPair s b) s.team.obSize = true → o.toNat ∉ lockedResv s.team →
    ∃ t, exec (.obres k o a b) s = .next t ∧ movedOn s t (s.cur.pc + 4) ∧
      look t.team.resv o.toNat {} = { w0 := srPair s a, w1 := srPair s b, kpos := 0, held := true }) ∧
  (∀ k o a b s, matrixReady [a.toNat, a.toNat + 1, b.toNat, b.toNat + 1] s →
    resvOk (srPair s a) (srPair s b) s.team.obSize = false ∨ o.toNat ∈ lockedResv s.team → exec (.obres k o a b) s = .next (helmFault s 0x18)) ∧
  (∀ k o s, matrixReady [] s → o.toNat ∉ lockedResv s.team → ∃ t, exec (.obrel k o) s = .next t ∧ movedOn s t (s.cur.pc + 4) ∧
    (look t.team.resv o.toNat {}).held = false) ∧
  (∀ k o s, matrixReady [] s → o.toNat ∈ lockedResv s.team → exec (.obrel k o) s = .next (helmFault s 0x18))

/-- R235 and R236: each of the seven joint words is delivered into its tile's latch. -/
def Sys2Proof.Stated.jointDelivery : Prop :=
  (∀ k t r v w z, jointDelivers (.mma k t r v w z) []) ∧ (∀ k t r v w z, jointDelivers (.mchain k t r v w z) []) ∧
  (∀ k t w z, jointDelivers (.mclr k t w z) []) ∧ (∀ k t p y v w z, jointDelivers (.mld k t p y v w z) [v.toNat, v.toNat + 1]) ∧
  (∀ k t p y v w z, jointDelivers (.mst k t p y v w z) [v.toNat, v.toNat + 1]) ∧
  (∀ k t y v w z, jointDelivers (.mdrain k t y v w z) []) ∧ (∀ k t v w z, jointDelivers (.mbound k t v w z) [v.toNat])

/-- R235 and R244: with the last member's delivery the latch empties and the engine accepts the word; `mwait` stops the helm while a word of its
slots has not completed, and goes on where none is left and no fault is deferred. -/
def Sys2Proof.Stated.jointAcceptance : Prop :=
  (∀ k t w z s l, matrixReady [] s → s.team.uid ≠ 0 → s.grp.gidx < 16 →
    (look s.team.tiles t.toNat {}).latch = some l → some l.word = encode (.mclr k t w z) → l.gang = s.grp.gang →
    (∀ m ∈ gangMembers s.grp.gang, m ∈ liveMatrix s s.team.uid ∧ (m ≠ s.grp.gidx → l.arrived.getLsbD m = true)) →
    s.grp.gidx ∈ gangMembers s.grp.gang → l.arrived.getLsbD s.grp.gidx = false →
    (∀ d ∈ s.team.deferred, d.members.getLsbD s.grp.gidx = false) →
    ∃ u x, exec (.mclr k t w z) s = .next u ∧ movedOn s u (s.cur.pc + 4) ∧ (look u.team.tiles t.toNat {}).latch = none ∧
      u.team.words = s.team.words ++ [x] ∧ x.word = l.word ∧ x.gang = l.gang ∧ x.started = false ∧
      look u.team.slots z.toNat 0 = look s.team.slots z.toNat 0 + 1) ∧
  (∀ k m s, uniformReady [] s → s.grp.role = .matrix → (∀ d ∈ s.team.deferred, d.members.getLsbD s.grp.gidx = false) →
    ∃ t, exec (.mwait k m) s = .next t ∧
      (if jointPending s m then stopped s t (.mwait m) else uniformWrote s t (s.cur.pc + 4) [])) ∧
  (∀ k m s, s.grp.role ≠ .matrix → exec (.mwait k m) s = .next (helmFault s 0x04))

/-! ### Coprocessor commands -/

/-- R262, R27 and Table 7.10: each of the 53 coprocessor words takes one commit-buffer entry with its unit, its function and its operand values,
and the helm goes on; a role that may not issue it raises ROLE, `cop.sys` outside a privileged context PRIVILEGE, and operands outside the limits of the command's
table COMMAND, at the helm (R387). The word's own bits say which
unit (major 0x38 to 0x3F), function and registers are meant. -/
def Obligations.CommandIssue : Prop :=
  ∀ i w s, encode i = some w → w.getLsbD 31 = true → 0x38 ≤ w.toNat / 2 ^ 24 % 64 →
    let major := w.toNat / 2 ^ 24 % 64
    let fn := w.toNat / 2 ^ 17 % 128
    let a := 2 * (w.toNat / 2 ^ 6 % 32)
    let b := 2 * (w.toNat / 2 % 32)
    let opa := s.grp.sreg (a + 1) ++ s.grp.sreg a
    let opb := s.grp.sreg (b + 1) ++ s.grp.sreg b
    let dest := if w.getLsbD 0 then w.toNat / 2 ^ 11 % 64 else 64
    let mayIssue := s.grp.role = .general ∨ (s.grp.role = .copy ∧ major ≤ 0x39)
    (mayIssue → (major = 0x3F → s.team.priv = true) → uniformReady [a, a + 1, b, b + 1] s → operandFault major fn opa opb = none →
      ∃ t, exec i s = .next t ∧ t.grp.frontier = moveLanes s.grp.frontier s.cur (s.cur.pc + 4) ∧ t.grp.nextSeq = s.grp.nextSeq + 1 ∧
        t.grp.commit = s.grp.commit ++ [{ cur := s.cur, effect := .command major fn opa opb dest (w.getLsbD 0) }] ∧
        t.grp.v = s.grp.v ∧ t.grp.s = s.grp.s ∧ t.grp.c = s.grp.c ∧ memoriesKept s t) ∧
    (∀ code, mayIssue → (major = 0x3F → s.team.priv = true) → uniformReady [a, a + 1, b, b + 1] s → operandFault major fn opa opb = some code →
      exec i s = .next (helmFault s 0x20 0 (BitVec.ofNat 32 code))) ∧
    (¬ mayIssue → exec i s = .next (helmFault s 0x04)) ∧
    (mayIssue → major = 0x3F → s.team.priv = false → exec i s = .next (helmFault s 0x05))

namespace Sys2Proof.Stated

/-- `T` holds the lanes of the word in which predicate `p` is true (R202). -/
def trueIn (s : State) (p : BitVec 3) (T : Word) : Prop := ∀ l < 32, T.getLsbD l = (s.cur.mask.getLsbD l && s.grp.ptrue p.toNat l)

def rejoin (s : State) (j : Nat) : Rejoin := look s.grp.j j {}

/-- A control word executes (R383): nothing of the group is older and outstanding, no fault is pending, every earlier result has landed. -/
def controlReady (s : State) : Prop :=
  olderOutstanding s.grp s.cur.seq = false ∧ s.grp.pendFault = none ∧ s.grp.ctl = none ∧ s.grp.pend = [] ∧ s.cur.mask ≠ 0

/-- What every control word leaves behind (R200): a register whose masks are equal holds no lanes, and no call frame names it. -/
def settled (s : State) : Prop :=
  ∀ k < 8, (rejoin s k).enrolled = (rejoin s k).arrived → (rejoin s k).enrolled = 0 ∧ ∀ n ∈ s.grp.frames, n.toNat ≠ k

/-- Only the frontier, the rejoin registers, the call frames and the counts of the pipe and the helm have changed. -/
def controlFrame (s t : State) : Prop :=
  t.grp = { s.grp with frontier := t.grp.frontier, j := t.grp.j, frames := t.grp.frames, fwd := t.grp.fwd, helmClk := t.grp.helmClk,
                       pipeRun := t.grp.pipeRun, parkClk := t.grp.parkClk, flight := t.grp.flight, undo := t.grp.undo,
                       ret := t.grp.ret, stall := t.grp.stall, units := t.grp.units } ∧ sameReturns s t ∧
  memoriesKept s t ∧ { t.team with groups := [] } = { s.team with groups := [] } ∧
  (∀ c, { t.core c with pipes := [] } = { s.core c with pipes := [] })

/-- The divergence state after a control word: frontier, call frames, one rejoin register; the others as before. -/
def flowWrote (s t : State) (fr : List FEntry) (frames : List (BitVec 3)) (j : Nat) (r : Rejoin) : Prop :=
  t.grp.frontier = fr ∧ t.grp.frames = frames ∧ (∀ k, rejoin t k = if k = j then r else rejoin s k) ∧ controlFrame s t

/-- A fault of every lane of the word, raised after its issue; the divergence state and every register are as before. -/
def controlFault (i : Instr) (s : State) (cls : Byte) : Prop :=
  ∃ u, controlFrame s u ∧ u.grp.frontier = s.grp.frontier ∧ u.grp.frames = s.grp.frames ∧ (∀ k, rejoin u k = rejoin s k) ∧ u.cur = s.cur ∧
    exec i s = .next (wholeFault u cls)

/-- The frontier without the entry of the word (R199). -/
def without (s : State) : List FEntry := removeLanes s.grp.frontier s.cur.mask
/-- An entry of the program added, merged with an equal one, dropped when empty (R60). -/
def withEntry (fr : List FEntry) (pc : DWord) (prio : BitVec 6) (m : Word) : List FEntry :=
  addEntry fr { pc := pc, prio := prio, mask := m }

end Sys2Proof.Stated

/-! ### Divergence -/

/-- R202, R199 and R200: `bdiv` splits its entry and enrols its lanes; `join` parks the enrolled lanes and releases them with the last
arrival; `strike` takes lanes out, releasing those that wait where none is left to arrive; more than eight program entries are FRONTIER, a
foreign `join` REJOIN. -/
def Obligations.LaneDivergence : Prop :=
  (∀ k p j q (o : BitVec 12) s T, controlReady s → s.cur.handler = false → settled s → trueIn s p T →
    let r := rejoin s j.toNat
    let M := s.cur.mask
    let fr := withEntry (withEntry (without s) (s.cur.pc + (o.signExtend 64 <<< 2)) q T) (s.cur.pc + 4) s.cur.prio (M &&& ~~~T)
    r.enrolled ||| M ≠ r.arrived →
    (programEntries fr ≤ 8 → ∃ t, exec (.bdiv k p j q o) s = .next t ∧
      flowWrote s t fr s.grp.frames j.toNat { r with enrolled := r.enrolled ||| M }) ∧
    (8 < programEntries fr → controlFault (.bdiv k p j q o) s 0x09)) ∧
  (∀ k j s, controlReady s → s.cur.handler = false → settled s →
    let r := rejoin s j.toNat
    let M := s.cur.mask
    let A := M &&& r.enrolled
    let fr := withEntry (without s) (s.cur.pc + 4) s.cur.prio (M &&& ~~~A)
    let out := withEntry fr (s.cur.pc + 4) s.cur.prio r.enrolled
    (A ≠ 0 → r.arrived ≠ 0 → r.kind ≠ .join ∨ r.rpc ≠ s.cur.pc + 4 → controlFault (.join k j) s 0x08) ∧
    (A = 0 → programEntries fr ≤ 8 → ∃ t, exec (.join k j) s = .next t ∧ flowWrote s t fr s.grp.frames j.toNat r) ∧
    (A ≠ 0 → (r.arrived ≠ 0 → r.kind = .join ∧ r.rpc = s.cur.pc + 4) → r.enrolled ≠ r.arrived ||| A → fr ≠ [] → programEntries fr ≤ 8 →
      ∃ t, exec (.join k j) s = .next t ∧ flowWrote s t fr s.grp.frames j.toNat
        { enrolled := r.enrolled, arrived := r.arrived ||| A, rpc := s.cur.pc + 4, rprio := s.cur.prio, kind := .join }) ∧
    (A ≠ 0 → (r.arrived ≠ 0 → r.kind = .join ∧ r.rpc = s.cur.pc + 4) → r.enrolled ≠ r.arrived ||| A → fr = [] → s.grp.live ≠ 0 →
      controlFault (.join k j) s 0x08) ∧
    (A ≠ 0 → (r.arrived ≠ 0 → r.kind = .join ∧ r.rpc = s.cur.pc + 4) → r.enrolled = r.arrived ||| A → programEntries out ≤ 8 →
      ∃ t, exec (.join k j) s = .next t ∧ flowWrote s t out s.grp.frames j.toNat
        { enrolled := 0, arrived := 0, rpc := s.cur.pc + 4, rprio := s.cur.prio, kind := .join })) ∧
  (∀ k p j s T, controlReady s → s.cur.handler = false → settled s → trueIn s p T →
    let r := rejoin s j.toNat
    let fr := withEntry (without s) (s.cur.pc + 4) s.cur.prio s.cur.mask
    let out := withEntry fr r.rpc r.rprio r.arrived
    (r.enrolled &&& ~~~T ≠ r.arrived → programEntries fr ≤ 8 → ∃ t, exec (.strike k p j) s = .next t ∧
      flowWrote s t fr s.grp.frames j.toNat { r with enrolled := r.enrolled &&& ~~~T }) ∧
    (r.enrolled &&& ~~~T = r.arrived → programEntries out ≤ 8 → ∃ t, exec (.strike k p j) s = .next t ∧
      flowWrote s t out (if r.kind = .call then removeFirst (· = j) s.grp.frames else s.grp.frames) j.toNat
        { r with enrolled := 0, arrived := 0 }) ∧
    (r.enrolled &&& ~~~T = r.arrived → 8 < programEntries out → controlFault (.strike k p j) s 0x09))

/-- R203 and R201: `callr` parks the lanes that do not call and sends the others to the target; `lret` parks its lanes at the innermost frame that
holds them, and the last return releases the whole mask of the call and takes the frame away. -/
def Sys2Proof.Stated.laneCalls : Prop :=
  (∀ k p j q (o : BitVec 12) s T, controlReady s → s.cur.handler = false → settled s → trueIn s p T →
    let r := rejoin s j.toNat
    let M := s.cur.mask
    let stay := withEntry (without s) (s.cur.pc + 4) s.cur.prio M
    let fr := withEntry (without s) (s.cur.pc + (o.signExtend 64 <<< 2)) q T
    (T = 0 → programEntries stay ≤ 8 → ∃ t, exec (.callr k p j q o) s = .next t ∧ flowWrote s t stay s.grp.frames j.toNat r) ∧
    (T ≠ 0 → r.enrolled ≠ 0 ∨ r.arrived ≠ 0 → controlFault (.callr k p j q o) s 0x08) ∧
    (T ≠ 0 → r.enrolled = 0 → r.arrived = 0 → 4 ≤ s.grp.frames.length → controlFault (.callr k p j q o) s 0x0A) ∧
    (T ≠ 0 → r.enrolled = 0 → r.arrived = 0 → s.grp.frames.length < 4 → programEntries fr ≤ 8 →
      ∃ t, exec (.callr k p j q o) s = .next t ∧ flowWrote s t fr (j :: s.grp.frames) j.toNat
        { enrolled := M, arrived := M &&& ~~~T, rpc := s.cur.pc + 4, rprio := s.cur.prio, kind := .call })) ∧
  (∀ k s, controlReady s → s.cur.handler = false → settled s →
    let M := s.cur.mask
    let holds (n : BitVec 3) : Prop := M &&& ~~~((rejoin s n.toNat).enrolled &&& ~~~(rejoin s n.toNat).arrived) = 0
    ((∀ n ∈ s.grp.frames, ¬ holds n) → controlFault (.lret k) s 0x08) ∧
    (∀ inner n outer, s.grp.frames = inner ++ n :: outer → (∀ m ∈ inner, ¬ holds m) → holds n →
      let r := rejoin s n.toNat
      let fr := without s
      (r.enrolled ≠ r.arrived ||| M → fr ≠ [] → programEntries fr ≤ 8 → ∃ t, exec (.lret k) s = .next t ∧
        flowWrote s t fr s.grp.frames n.toNat { r with arrived := r.arrived ||| M }) ∧
      (r.enrolled = r.arrived ||| M → r.kind = .call → programEntries (withEntry fr r.rpc r.rprio r.enrolled) ≤ 8 →
        ∃ t, exec (.lret k) s = .next t ∧ flowWrote s t (withEntry fr r.rpc r.rprio r.enrolled) (inner ++ outer) n.toNat
          { r with enrolled := 0, arrived := 0 })))

/-- R203 and R39: `lexit` retires the lanes whose predicate is true, in the frontier and in every rejoin register; the rest goes on at
PC + 4; with no live lane left the group exits. -/
def Sys2Proof.Stated.laneExit : Prop :=
  ∀ k p s T, controlReady s → trueIn s p T →
    let fr := removeLanes (moveLanes s.grp.frontier s.cur (s.cur.pc + 4)) T
    (∀ n < 8, (rejoin s n).enrolled &&& ~~~T = (rejoin s n).arrived &&& ~~~T →
      (rejoin s n).enrolled &&& ~~~T = 0 ∧ ∀ m ∈ s.grp.frames, m.toNat ≠ n) → programEntries fr ≤ 8 →
    (s.grp.live &&& ~~~T ≠ 0 → fr ≠ [] → ∃ t, exec (.lexit k p) s = .next t ∧ t.grp.live = s.grp.live &&& ~~~T ∧ t.grp.frontier = fr ∧
      (∀ n < 8, rejoin t n = { rejoin s n with enrolled := (rejoin s n).enrolled &&& ~~~T, arrived := (rejoin s n).arrived &&& ~~~T }) ∧
      t.grp.v = s.grp.v ∧ t.grp.p = s.grp.p ∧ t.grp.x = s.grp.x ∧ t.grp.s = s.grp.s ∧ t.grp.c = s.grp.c ∧ memoriesKept s t) ∧
    (s.grp.live &&& ~~~T ≠ 0 → fr = [] → controlFault (.lexit k p) s 0x08) ∧
    (s.grp.live &&& ~~~T = 0 → ∃ t, exec (.lexit k p) s = .next t ∧ t.grp.live = 0)

/-! ### Faults of lane words -/

/-- R131, R396 and R258: a register outside the allocation is REGISTER in every lane, before any other effect, and a locked destination of a
fixed-latency word is LOCKED. -/
def Sys2Proof.Stated.laneRegisterFaults : Prop :=
  (∀ i w s, i.wf = true → encode i = some w → w.getLsbD 31 = false → (laneInfo i).control = false →
    (laneInfo i).inAllocation s.grp.nregs = false → exec i s = .next (wholeFault s 0x02)) ∧
  (∀ k d a b f h s, (laneInfo (.iadd k d a b f h)).inAllocation s.grp.nregs = true → d.toNat ∈ lockedRegs s.team s.grp.gidx →
    exec (.iadd k d a b f h) s = .next (wholeFault s 0x1D)) ∧
  (∀ k d i s, d.toNat < s.grp.nregs → d.toNat ∈ lockedRegs s.team s.grp.gidx → exec (.movi k d i) s = .next (wholeFault s 0x1D)) ∧
  (∀ k d a b c s, (laneInfo (.dfma k d a b c)).inAllocation s.grp.nregs = true →
    d.toNat ∈ lockedRegs s.team s.grp.gidx ∨ d.toNat + 1 ∈ lockedRegs s.team s.grp.gidx → exec (.dfma k d a b c) s = .next (wholeFault s 0x1D))

namespace Sys2Proof.Stated

/-- Bits 63 to 55 all equal (R82). -/
def canonicalVa (a : DWord) : Prop := ∀ b, 55 ≤ b → b < 64 → a.getLsbD b = a.getLsbD 55

/-- The lanes of a memory word all fail the first or the second check of R188; the word raises the fault of its lowest lane. -/
def addressFault (i : Instr) (s : State) (a : BitVec 6) (disp : Int) (n : Nat) : Prop :=
  i.wf = true → memReady i s →
  let va (l : Nat) : DWord := regPair s a l + BitVec.ofInt 64 disp
  ∀ l rest, active s = l :: rest → (∀ m ∈ active s, ¬ canonicalVa (va m) ∨ (va m).toNat % n ≠ 0) →
    ∃ u cls, memoriesKept s u ∧ otherRegsKept s u ∧ u.cur = s.cur ∧ (∀ m x, x < 32 → u.grp.landAll.vreg m x = s.grp.vreg m x) ∧
      (¬ canonicalVa (va l) → cls = 0x0F) ∧ (canonicalVa (va l) → cls = 0x0E) ∧
      exec i s = .next (raise u { cur := s.cur, lanes := s.cur.mask, cls := cls, faddr := va l })

end Sys2Proof.Stated

/-- R82, R188, R389 and R399: an address that is not canonical is CANON, a canonical one that is not a multiple of the size ALIGN; FADDR and the class
are those of the lowest lane; nothing is written. -/
def Sys2Proof.Stated.laneAddressFaults : Prop :=
  (∀ k d a f (o : BitVec 8) s, addressFault (.ld k d a f o) s a (o.toInt * sizeBytes f) (sizeBytes f)) ∧
  (∀ k d a f (o : BitVec 8) s, addressFault (.st k d a f o) s a (o.toInt * sizeBytes f) (sizeBytes f)) ∧
  (∀ k d a b f h s, addressFault (.atom k d a b f h) s a 0 4) ∧
  (∀ k d a b e s, addressFault (.cas k d a b e) s a 0 4) ∧
  (∀ k a b f h s, addressFault (.red k a b f h) s a 0 4)

/-- Where a leaf sends an address, once the walk of a unit has read its entries (R91). -/
def Sys2Proof.Stated.pageTarget (s : State) (u : Unit') (asid : BitVec 12) (leaf : DWord) (log2 : Nat) (va : DWord) (priv : Bool) (level : Nat) :
    XRes := targetOf (walkReach s u.dieNo asid va) leaf log2 va priv level

/-- R399, R398, R400 and R447 for an access of any unit: the order canonical, aligned, heap window, walk, permission, and the class each failure has; a TLB entry
serves an access that it lets through, every failure comes from a walk, and a walk waits for a die in reset. -/
def Obligations.TranslationChecks : Prop :=
  ∀ s u asid priv launch (va : DWord) n a,
    (¬ canonicalVa va → (checkAccess s u asid priv launch va n a) = (s, .fail 0x0F 0)) ∧
    (canonicalVa va → va.toNat % n ≠ 0 → (checkAccess s u asid priv launch va n a) = (s, .fail 0x0E 0)) ∧
    (canonicalVa va → va.toNat % n = 0 →
      let c := ctxOf s asid
      let inHeap := a ≠ .fetch ∧ c.heapBase.toNat < c.heapLimit.toNat ∧ c.heapBase.toNat ≤ va.toNat ∧ va.toNat < c.heapLimit.toNat
      (inHeap → backed (va + c.heapOffset).toNat = false → (checkAccess s u asid priv launch va n a) = (s, .fail 0x10 4)) ∧
      (¬ inHeap → ∀ e t, tlbServes s u asid priv va a = some (e, t) →
        (checkAccess s u asid priv launch va n a).2 = .ok t e.leaf (levelOf e.log2)) ∧
      (¬ inHeap → tlbServes s u asid priv va a = none → ∀ d l, walkHome s asid va = some (d, l) →
        (checkAccess s u asid priv launch va n a) = (s, if (s.die d).outOfService then .fail 0x10 (reason 8 l 0) else .home d l)) ∧
      (¬ inHeap → tlbServes s u asid priv va a = none → walkHome s asid va = none →
        (∀ l, walk s asid va = .pend l → (checkAccess s u asid priv launch va n a).2 = .pend l) ∧
        (∀ e, walk s asid va = .fail e → (checkAccess s u asid priv launch va n a).2 = .fail 0x10 e) ∧
        (∀ leaf log2 pa l e, walk s asid va = .leaf leaf log2 pa l → pageTarget s u asid leaf log2 va priv l = .fail 0x10 e →
          (checkAccess s u asid priv launch va n a).2 = .fail 0x10 e) ∧
        (∀ leaf log2 pa l, walk s asid va = .leaf leaf log2 pa l → (∀ e, pageTarget s u asid leaf log2 va priv l ≠ .fail 0x10 e) →
          (a = .read ∨ a = .atomic → leaf.getLsbD 5 = false → (checkAccess s u asid priv launch va n a).2 = .fail 0x11 (reason 1 l 0)) ∧
          (a = .write → leaf.getLsbD 6 = false → (checkAccess s u asid priv launch va n a).2 = .fail 0x11 (reason 2 l 0)) ∧
          (a = .fetch → leaf.getLsbD 7 = false → (checkAccess s u asid priv launch va n a).2 = .fail 0x11 (reason 3 l 0)) ∧
          (leaf.getLsbD 5 = true → leaf.getLsbD 6 = true → leaf.getLsbD 7 = true → leaf.getLsbD 8 = true → priv = false →
            (checkAccess s u asid priv launch va n a).2 = .fail 0x11 (reason 4 l 0)))))

/-! ### Taking a fault and returning -/

namespace Sys2Proof.Stated

/-- The handler's address (Table 23.4). -/
def handlerVa (s : State) : DWord := (ctxOf s s.team.asid).trapVec &&& ~~~3

/-- Nothing of the group is older than the faulting word and outstanding; a group fault other than REMOTE, with no record held and, as always then, no
younger word of a handler. -/
def takes (s : State) (f : PendFault) : Prop :=
  olderOutstanding s.grp f.cur.seq = false ∧ f.page = none ∧ f.cls ≠ 0x14 ∧ s.grp.inHandler = false ∧
    ∀ c ∈ s.grp.trail, f.cur.seq < c.seq → c.handler = false

/-- No younger word that the fault discards was fetched for lanes outside the faulting word's mask. -/
def noOtherLanes (s : State) (f : PendFault) : Prop := ∀ c ∈ s.grp.trail, f.cur.seq < c.seq → c.mask &&& ~~~f.cur.mask = 0

/-- The frontier once the discarded words have given back the lanes that only they were fetched for (notes/assumptions/74.md). -/
def givenBack (s : State) (f : PendFault) : List FEntry :=
  giveBack s.grp.frontier f.cur.mask (s.grp.trail.filter fun c => f.cur.seq < c.seq)

/-- What the rollback of R386 leaves in cell `key` of v: the value that the oldest undone entry which lists it saved. -/
def rolledBack (s : State) (seq key : Nat) : Word :=
  (((s.grp.undo.filter fun u => seq < u.seq && u.space = .v).filterMap fun u =>
    (u.cells.reverse.find? fun c => c.1 = key).map fun c => c.2).getLast?).getD (look s.grp.v key 0)

end Sys2Proof.Stated

/-- R386, R385 and R390: younger work is undone; the other lanes go on at PC + 4; the faulting lanes stand at the handler at priority 63 in the ninth
slot with the record written; memory is as before. -/
def Obligations.FaultEntry : Prop :=
  ∀ s f, takes s f → noOtherLanes s f → handlerVa s ≠ 0 →
    let t := raise s f
    t.grp.fault = { cls := f.cls, prio := f.cur.prio, fetch := f.fetch, defer := f.defer, tile := f.tile, valid := true, lanes := f.lanes,
                    fpc := f.cur.pc, faddr := f.faddr, fword := if f.defer then f.fword else f.cur.word, fcode := f.fcode } ∧
    t.grp.frontier = addEntry (removeLanes s.grp.frontier f.cur.mask)
        { pc := f.cur.pc + 4, prio := f.cur.prio, mask := f.cur.mask &&& ~~~f.lanes, handler := f.cur.handler } ++
      [{ pc := handlerVa s, prio := 63, mask := f.lanes, handler := true }] ∧
    (∀ key, look t.grp.v key 0 = rolledBack s f.cur.seq key) ∧
    (∀ e ∈ t.grp.commit, e.cur.seq < f.cur.seq) ∧ (∀ w ∈ t.grp.pend, w.seq ≤ f.cur.seq) ∧ (∀ h ∈ t.grp.held, h.seq ≤ f.cur.seq) ∧
    (∀ e ∈ t.grp.fwd, ∀ c r, e = .lane c r → c.seq < f.cur.seq) ∧
    t.grp.s = s.grp.s ∧ t.grp.c = s.grp.c ∧ t.grp.live = s.grp.live ∧ t.grp.pendFault = none ∧ t.grp.wait = .ready ∧
    t.mem = s.mem ∧ t.hostMem = s.hostMem ∧ t.peers = s.peers ∧ t.clock = s.clock

namespace Sys2Proof.Stated

/-- A uniform word at the helm (R43): it is the youngest word of its group, and no result of an `sld` is still owed. -/
def youngest (s : State) : Prop :=
  uniformReady [] s ∧ s.grp.owed = [] ∧ (∀ c ∈ s.grp.trail, c.seq < s.cur.seq) ∧ (∀ u ∈ s.grp.undo, u.seq < s.cur.seq) ∧
    (∀ p ∈ s.grp.pend, p.seq ≤ s.cur.seq) ∧ ∀ e ∈ s.grp.ret, e.seq < s.cur.seq

/-- The group keeps its registers: v, p, x, and s and c as the helm sees them. -/
def registersKept (s t : State) : Prop :=
  t.grp.v = s.grp.v ∧ t.grp.p = s.grp.p ∧ t.grp.x = s.grp.x ∧ (∀ n, t.grp.sreg n = s.grp.sreg n) ∧ ∀ n, t.grp.creg n = s.grp.creg n

/-- The group stands in one place: neither another group of its team nor another team bears its number. -/
def onePlace (s : State) : Prop :=
  s.team.uid ≠ 0 ∧ (∀ g ∈ s.team.groups, g.gidx ≠ s.grp.gidx) ∧ ∀ u ∈ s.teams, u.uid ≠ s.team.uid

end Sys2Proof.Stated

/-- R215 to R217 and R386: `exit`, `yield`, `trap` and `brk` complete with their own effects wherever what R215 and R364 make them wait for is done: `exit` takes the
group out of its team, whose stores go on, or does nothing where c[n] is false; `yield` ends the run; `trap` enters the handler, or retires its lanes where there is none;
`brk` stops the group in front of the next word, or acts as `nop`. Until then `exit`, and `brk` where it stops, only wait. -/
def Obligations.ExitYieldTrapBreakComplete : Prop :=
  (∀ k c s, youngest s → quiet s = true → onePlace s → s.grp.creg c.toNat = true →
    ∃ t, exec (.exit k c) s = .next t ∧ t.clock = s.clock + 1 ∧ t.grp.live = 0 ∧ (∀ g ∈ t.groupsOf s.team.uid, g.gidx ≠ s.grp.gidx) ∧
      (s.team.groups ≠ [] → t.team.uid = s.team.uid ∧ t.team.orphans = s.team.orphans ++
        s.grp.held.filter fun h => h.load.isNone && (h.lod.isNone || h.feeds))) ∧
  (∀ k c s, youngest s → s.grp.creg c.toNat = false → ∃ t, exec (.exit k c) s = .next t ∧ uniformWrote s t (s.cur.pc + 4) []) ∧
  (∀ k c s, s.grp.creg c.toNat = true → quiet s = false ∨ s.grp.owed ≠ [] → exec (.exit k c) s = .next (s.tick 1)) ∧
  (∀ k s, youngest s → ∃ t y, exec (.yield k) s = .next t ∧ t.clock = s.clock + 1 ∧ movedOn s t (s.cur.pc + 4) ∧
    t.grp.runNo = s.grp.runNo + 1 ∧ t.grp.runLen = 0 ∧ t.grp.yielded = s.grp.yielded ++ [y] ∧ y.run = t.grp.runNo ∧ y.since = s.clock ∧
    ∀ x ∈ groupsIn s s.team.core s.grp.quad, x.1.uid ≠ s.team.uid ∨ x.2.gidx ≠ s.grp.gidx → eligible s.clock x.1 x.2 = true →
      (16 * x.1.uid + x.2.gidx, x.2.pipeRun) ∈ y.others) ∧
  (∀ k i s, youngest s → quiet s = true → s.grp.inHandler = false → handlerVa s ≠ 0 →
    ∃ t, exec (.trap k i) s = .next t ∧ t.clock = s.clock + 1 ∧
      t.grp.frontier = removeLanes s.grp.frontier s.cur.mask ++ [{ pc := handlerVa s, prio := 63, mask := s.cur.mask, handler := true }] ∧
      t.grp.fault.cls = 0x0D ∧ t.grp.fault.fcode = i.setWidth 32 ∧ t.grp.fault.fpc = s.cur.pc ∧ t.grp.fault.lanes = s.cur.mask ∧
      t.grp.fault.prio = s.cur.prio ∧ t.grp.fault.fword = s.cur.word ∧ t.grp.fault.faddr = 0 ∧ t.grp.fault.valid = true ∧
      t.grp.fault.defer = false ∧ t.grp.fault.fetch = false ∧ t.grp.live = s.grp.live ∧ registersKept s t ∧ memoriesKept s t) ∧
  (∀ k i s, youngest s → quiet s = true → s.grp.inHandler = false → handlerVa s = 0 → s.grp.live &&& ~~~s.cur.mask ≠ 0 →
    ∃ t, exec (.trap k i) s = .next t ∧ t.clock = s.clock + 1 ∧ t.grp.live = s.grp.live &&& ~~~s.cur.mask ∧ registersKept s t) ∧
  (∀ k i s, youngest s → (debugAt s s.team.asid s.clock).brkEn = false →
    ∃ t, exec (.brk k i) s = .next t ∧ uniformWrote s t (s.cur.pc + 4) []) ∧
  (∀ k i s, youngest s → quiet s = true → (debugAt s s.team.asid s.clock).brkEn = true →
    ∃ t, exec (.brk k i) s = .next t ∧ t.clock = s.clock + 1 ∧ t.grp.wait = .stopped 1 ∧ t.grp.live = s.grp.live ∧
      t.grp.frontier = moveLanes s.grp.frontier s.cur (s.cur.pc + 4) ∧ t.grp.nextSeq = s.grp.nextSeq + 1 ∧ registersKept s t) ∧
  (∀ k i s, quiet s = false → (debugAt s s.team.asid s.clock).brkEn = true → exec (.brk k i) s = .next (s.tick 1))

/-- The entry of a fault that discards words of other lanes: those lanes stand again at the oldest of the words they were fetched for, which is the
model's choice (notes/assumptions/74.md); everything else as R386 says. -/
def Obligations.FaultGivesLanesBack : Prop :=
  ∀ s f, takes s f → handlerVa s ≠ 0 →
    let t := raise s f
    t.grp.frontier = addEntry (removeLanes (givenBack s f) f.cur.mask)
        { pc := f.cur.pc + 4, prio := f.cur.prio, mask := f.cur.mask &&& ~~~f.lanes, handler := f.cur.handler } ++
      [{ pc := handlerVa s, prio := 63, mask := f.lanes, handler := true }] ∧
    t.grp.fault.lanes = f.lanes ∧ t.grp.fault.fpc = f.cur.pc ∧ t.grp.fault.valid = true ∧ (∀ key, look t.grp.v key 0 = rolledBack s f.cur.seq key) ∧
    t.mem = s.mem ∧ t.hostMem = s.hostMem

/-- R386 and R392, R391: with no handler the faulting lanes retire; a fault while a record or a handler entry exists is a DOUBLE, after which no lane of
the group lives. -/
def Sys2Proof.Stated.faultWithoutHandler : Prop :=
  (∀ s f, takes s f → handlerVa s = 0 → (raise s f).grp.live = s.grp.live &&& ~~~f.lanes) ∧
  (∀ s f, olderOutstanding s.grp f.cur.seq = false → f.page = none →
    s.grp.fault.valid = true ∨ (s.grp.inHandler = true ∧ noOtherLanes s f) → (raise s f).grp.live = 0)

/-- R387: while something older is outstanding a fault waits, the oldest one of several; nothing else changes. -/
def Sys2Proof.Stated.faultWaits : Prop :=
  ∀ s f, olderOutstanding s.grp f.cur.seq = true → f.page.isSome ∨ f.cls ≠ 0x14 →
    raise s f = { s with grp := { s.grp with pendFault := some (match s.grp.pendFault with
      | some g => if g.cur.seq ≤ f.cur.seq then g else f
      | none => f) } }

/-- R391: `wrsys FRESUME` of the handler entry ends the handler. With RETIRE = 0 its lanes go on at FPC + 4 × SKIP with the record's priority; with RETIRE = 1
they retire. From any other entry, or with no record held, it is SYSREG. -/
def Obligations.HandlerReturn : Prop :=
  (∀ k d s h, uniformReady [d.toNat] s → quiet s = true → (sr s d).toNat < 4 → s.grp.fault.valid = true → s.cur.handler = true →
    s.grp.frontier.find? (fun e => e.handler) = some h →
    ((sr s d).getLsbD 1 = false → ∃ t, exec (.wrsys k d 0x38) s = .next t ∧
      t.grp.frontier = addEntry (s.grp.frontier.filter fun e => !e.handler)
        { pc := s.grp.fault.fpc + (if (sr s d).getLsbD 0 then 4 else 0), prio := s.grp.fault.prio, mask := h.mask } ∧
      t.grp.fault = { s.grp.fault with valid := false } ∧ t.grp.live = s.grp.live ∧ t.grp.v = s.grp.v ∧ t.grp.p = s.grp.p ∧ t.grp.x = s.grp.x ∧
      (∀ n, t.grp.sreg n = s.grp.sreg n) ∧ (∀ n, t.grp.creg n = s.grp.creg n) ∧ memoriesKept s t) ∧
    ((sr s d).getLsbD 1 = true → s.grp.live &&& ~~~h.mask ≠ 0 → (s.grp.flow.retire h.mask).frontier ≠ [] →
      programEntries (s.grp.flow.retire h.mask).frontier ≤ 8 → ∃ t, exec (.wrsys k d 0x38) s = .next t ∧
      t.grp.live = s.grp.live &&& ~~~h.mask ∧ t.grp.fault.valid = false ∧ t.grp.frontier = (s.grp.flow.retire h.mask).frontier ∧
      t.grp.v = s.grp.v ∧ memoriesKept s t)) ∧
  (∀ k d s, uniformReady [d.toNat] s → quiet s = true → (sr s d).toNat < 4 → (s.grp.fault.valid = false ∨ s.cur.handler = false) →
    ∃ t, exec (.wrsys k d 0x38) s = .next t ∧ t.grp.frontier = (wholeFault s 0x06).grp.frontier ∧ t.grp.fault = (wholeFault s 0x06).grp.fault ∧
      t.grp.live = (wholeFault s 0x06).grp.live)

/-! ### The step -/

namespace Sys2Proof.Stated

/-- What a group's instruction fetches see of device memory: memory as it stood when its launch started (R121). -/
def launchCode (s : State) : Memory := match s.launch s.team.seqNo with | some l => l.code.mem | none => []

/-- A fetch that waited for its home die waits no longer. -/
def unheld (s : State) : State :=
  match s.grp.wait with
  | .homeDie _ _ => { s with grp := { s.grp with wait := .ready, homeGone := false } }
  | _ => s

/-- The helm's next word of the executing group is `w`, at the top entry `e`: the group may move, no debug stop stands before it, and the bytes at its PC
in device memory are `w`; `u` is the state after the fetch, which goes through the core's L1. -/
def fetches (s : State) (e : FEntry) (u : State) (w : Word) : Prop :=
  s.stage = 7 ∧ helmReady s = true ∧ topEntry s.grp.frontier = some e ∧ stepOver s = false ∧ breakHit s e = none ∧
    ∃ v pa leaf l, checkAccess (noteStep s) (.core s.team.core) s.team.asid s.team.priv s.team.seqNo e.pc 4 .fetch = (v, .ok (.device pa) leaf l) ∧
      (v.die (homeOf (pa / 128))).inReset = false ∧ isLost v pa = false ∧
      linkHeld v (dieOf s.team.core) s.team.core (.device pa) false = false ∧
      memRead (launchCode v) pa 4 = w.toNat ∧ u = fetchLine (unheld v) pa (cachingOf leaf l)

/-- The word as it is executed: at its PC, for the lanes and the priority of its entry (R60), next in program order. -/
def curOf (s : State) (e : FEntry) (w : Word) : Cur :=
  { pc := e.pc, mask := e.mask, prio := e.prio, handler := e.handler, word := w, seq := s.grp.nextSeq, clk := s.clock }

/-- The state in which a fetched word is executed. -/
def atWord (s u : State) (e : FEntry) (w : Word) : State := { u with cur := curOf s e w }

/-- The state after a lane word has entered the forward queue (R43, R50); a control word leaves the frontier to its own effect. -/
def queuedAt (s u : State) (e : FEntry) (w : Word) (i : Instr) : State :=
  let g := u.grp
  let c : Cur := { curOf s e w with clk := u.clock }
  { u with
    cur := curOf s e w,
    grp := { g.countWord c u.clock (laneInfo i).control with
      fwd := g.fwd ++ [.lane c g.runNo],
      frontier := if (laneInfo i).control then g.frontier else moveLanes g.frontier c (e.pc + 4) } }

end Sys2Proof.Stated

/-- R43, R121, R129 and R394: the helm's step, for the group that its quadrant's helm serves, fetches four bytes at the top entry's PC. A uniform word is
executed there and then: the step is `exec` of it. An assigned lane word enters the forward queue, and where the queue was empty and the pipe stands ready
the step is `exec` of it as well. An unassigned word raises UNASSIGNED. The helm's record of the group it served follows. Where the helm serves another
group, or a `spawn` of a lower quadrant comes first (R38), nothing happens. -/
def Obligations.StepRunsFetchedWord : Prop :=
  ∀ s m e u w, s.agenda = .helm :: m → let a : State := { s with agenda := m }
    fetches a e u w → helmFirst a = true → ((spawnBefore a a.team.core a.grp.quad).isNone || !atSpawn a) = true →
    (∀ i t, decodeWord w = some i → w.getLsbD 31 = true → exec i (atWord s u e w) = .next t → step s = .next (noteServed a t)) ∧
    (∀ i, decodeWord w = some i → w.getLsbD 31 = false → (laneInfo i).inAllocation u.grp.nregs = true → u.grp.fwd.length < 16 →
      let q := queuedAt s u e w i
      (pipeServe q = none ∨ u.grp.fwd ≠ [] → step s = .next (noteServed a (q.tick 1))) ∧
      (∀ x j t, u.grp.fwd = [] → pipeServe q = some (x, j) → exec j x = .next t →
        step s = .next (noteServed a
          (ageOthers t (t.clock - 1) x.team.core x.grp.quad x.team.uid x.grp.gidx (look (x.core x.team.core).pipes x.grp.quad {}).urgent)))) ∧
    (decodeWord w = none → let x := atWord s u e w
      step s = .next (noteServed a ((wholeFault { x with grp := x.grp.closeRun x.clock } 0x01).tick 1))) ∧
    (∀ r n, r.agenda = .helm :: n → let b : State := { r with agenda := n }
      helmFirst b = false ∨ ((spawnBefore b b.team.core b.grp.quad).isSome = true ∧ atSpawn b = true) → step r = .next b)

/-- R51, R58 and R384: the pipe's step issues the oldest lane word in the forward queue of a group whose run holds the pipe, where the undo log has
room for it, a return-queue slot is free where it fills one, and strict mode holds it for no outstanding or late read (R46, R54): it is `exec` of the
instruction that the word decodes to, and the other groups age. -/
def Obligations.StepIssuesQueuedWord : Prop :=
  ∀ s m c i t, s.agenda = .pipe :: m → s.stage = 7 →
    (s.grp.fwd.filterMap fun e => match e with | .lane c r => some (c, r) | .value _ _ => none).head? = some (c, s.grp.pipeRun) →
    teamRuns s = true → faultBefore s.grp (c.seq + 1) = false → decodeWord c.word = some i →
    pipeWait { s with cur := c, agenda := m } i = false → undoRoom { s with cur := c, agenda := m } i = true →
    strictLate { s with cur := c, agenda := m } i = [] →
    exec i { s with cur := c, agenda := m } = .next t →
    step s = .next (ageOthers t (t.clock - 1) s.team.core s.grp.quad s.team.uid s.grp.gidx (look (s.core s.team.core).pipes s.grp.quad {}).urgent)

/-- R19, R20: an operation of the table that is no word runs as its own step once the module is Ready, a lane fetch where its group is the one that the
helm serves (R43); before that only a module reset has an effect; an operation whose arguments name no part of the module is no event of it. -/
def Obligations.StepRunsOperation : Prop :=
  (∀ s m i, s.agenda = .event i :: m → i.wf = true → i.isWord = false → s.stage = 7 → i ≠ .helmLaneFetch →
    step s = exec i { s with agenda := m }) ∧
  (∀ s m, s.agenda = .event .helmLaneFetch :: m → s.stage = 7 →
    step s = if helmFirst { s with agenda := m } then exec .helmLaneFetch { s with agenda := m } else .next { s with agenda := m }) ∧
  (∀ s m f v, s.agenda = .event (.moduleReset f v) :: m → (Instr.moduleReset f v).wf = true →
    step s = exec (.moduleReset f v) { s with agenda := m }) ∧
  (∀ s m i, s.agenda = .event i :: m → i.wf = true → i.isWord = false → s.stage ≠ 7 → (∀ f v, i ≠ .moduleReset f v) →
    step s = .next { s with agenda := m }) ∧
  (∀ s m i, s.agenda = .event i :: m → i.wf = false ∨ i.isWord = true → step s = .next { s with agenda := m }) ∧
  (∀ s m u g, s.agenda = .turn u g :: m → step s = .next ({ s with agenda := m }.turnTo u g)) ∧
  (∀ s m off n, s.agenda = .bar0Read off n :: m → step s = .next (bar0Read { s with agenda := m } off n)) ∧
  (∀ s m k p, s.agenda = .island k p :: m → k < 1024 → ∃ t, step s = .next t ∧ t.mem = s.mem ∧ t.grp = s.grp ∧
    ∀ n, look t.points n .gated = if n = k then p else look s.points n .gated)

/-- Every instruction and operation answers a next state from every state, and so does every step: the module stops nowhere. -/
def Obligations.StepNeverStops : Prop :=
  (∀ i s, ∃ t, exec i s = .next t) ∧ ∀ s, safeStep s

/-! ### Encodings -/

/-- Tables 7.1 and 7.4 to 7.10: the word of every well-formed instruction decodes to it, each operand at every value the encoding admits; the two words
that stand for several operations (`cop.sys.enset`, `cop.sys.linkctl`) decode to the first of them. -/
def Obligations.DecodeEncode : Prop := ∀ i w, i.wf = true → encode i = some w → decodeWord w = some i.wordForm

/-- R145: a word that decodes is the word of the instruction it decodes to, which is well-formed, so no two assigned words share a meaning and no bit of a
word is ignored. -/
def Obligations.EncodeDecode : Prop := ∀ w i, decodeWord w = some i → i.wf = true ∧ encode i = some w

/-- R145: the worked encodings of Table 10.6 and of the programs of 10 and 23, and words that are unassigned. -/
def Obligations.DecodeWords : Prop :=
  decodeWord 0x231C2A5C = some (.movi 0 7 0x2A5C) ∧ decodeWord 0x241C1234 = some (.movhi 0 7 0x1234) ∧
  decodeWord 0x22089008 = some (.mov 0 2 9 2 0) ∧ decodeWord 0x25105182 = some (.sel 0 4 5 6 2) ∧
  decodeWord 0x260C720C = some (.xlane 0 3 7 8 3 0) ∧ decodeWord 0x27241008 = some (.vote 0 9 1 2 0) ∧
  decodeWord 0x28005000 = some (.redux 0 5 0 0) ∧ decodeWord 0x290C0000 = some (.qpop 0 3 0) ∧
  decodeWord 0x2A005000 = some (.qpush 0 5 0) ∧ decodeWord 0x2D043004 = some (.xset 0 1 3 1 0) ∧
  decodeWord 0x2E180008 = some (.rdid 0 6 2 0) ∧ decodeWord 0x2F1024FE = some (.ld 0 4 2 4 0xFE) ∧
  decodeWord 0x30202602 = some (.st 0 8 2 6 2) ∧ decodeWord 0x311021A4 = some (.atom 0 4 2 6 9 0) ∧
  decodeWord 0x32102187 = some (.cas 0 4 2 6 7) ∧ decodeWord 0x34143404 = some (.lds 0 5 3 4 4) ∧
  decodeWord 0x37002102 = some (.pref 0 2 1 2) ∧ decodeWord 0x7C640000 = some (.strike 1 3 1) ∧
  decodeWord 0x7DE00000 = some (.lexit 1 7) ∧ decodeWord 0x7E28400C = some (.callr 1 1 2 4 12) ∧
  decodeWord 0x7FE00000 = some (.lret 1) ∧ decodeWord 0x7A449003 = some (.bdiv 1 2 1 9 3) ∧
  decodeWord 0x7BE40000 = some (.join 1 1) ∧ decodeWord 0x9AE00002 = some (.bra 0 7 2) ∧
  decodeWord 0x8EA40001 = some (.smovi 0 41 1) ∧ decodeWord 0x98A40038 = some (.wrsys 0 41 0x38) ∧
  decodeWord 0x27241009 = none ∧ decodeWord 0x33002220 = none ∧ decodeWord 0 = none

/-! ### Reset and memory -/

namespace Sys2Proof.Stated

/-- Device memory, host memory and every peer module's memory stand in canonical form: equal memories are equal data. -/
def memoriesFormed (s : State) : Prop :=
  Memory.wf s.mem = true ∧ Memory.wf s.hostMem = true ∧ ∀ e ∈ s.peers, Memory.wf e.2.mem = true

end Sys2Proof.Stated

/-- The reset values the manual's tables give: Table 1.5 (BOOTSTAT), Table 5.6 (way masks), Table 5.10, Table 6.1 and Table 23.4 (context registers), Table 24.2,
Table 24.4 and Table 24.6 (module registers), Table 25.1 (context control), Table 14.12 and Table 15.4 (profiles), Table 17.3 (WAKEDEPTH), Table 26.4
(SVCCAP). -/
def Obligations.ResetState : Prop :=
  let s := State.reset
  s.stage = 0 ∧ s.bootFail = false ∧ s.teams = [] ∧ s.launches = [] ∧ s.commands = [] ∧ s.repairs = [] ∧
  (∀ a, look s.hub.ctx a {} = { lease := 0x40, fring := 6 }) ∧
  (∀ a, look s.hub.ctl a {} = { dlExp := 0x18, dlEn := true, rayBudget := 0x1000 }) ∧
  s.hub.modFring = 6 ∧ s.hub.modPol = 1 ∧ s.hub.peerTo = 0x15 ∧ s.hub.aperBase = 0 ∧ (∀ m, look s.hub.fabRt m 0 = 0) ∧
  (∀ p, (look s.ports p {}).wakeDepth = 0x100) ∧
  s.hub.capCores = 768 ∧ s.hub.capSlices = 128 ∧ s.hub.capChannels = 64 ∧ s.hub.capPorts = 24 ∧
  (∀ a, (look s.ctxRes a {}).prof.cnode = 0x3C00 ∧ (look s.ctxRes a {}).prof.cclus = 0x4000 ∧ (look s.ctxRes a {}).prof.rlife = 0x10) ∧
  memoriesFormed s

/-- Every named write of a memory keeps the canonical form: a lane-path store or atomic at any target, an engine's write, the hub's. -/
def Obligations.WritesKeepMemoryForm : Prop :=
  (∀ s T c n v, memoriesFormed s → memoriesFormed (storeTarget s T c n v)) ∧
  (∀ s T c op cmp data, memoriesFormed s → memoriesFormed (atomicTarget s T c op cmp data).1) ∧
  (∀ s pa n v, memoriesFormed s → memoriesFormed (hubWrite s pa n v)) ∧
  (∀ s a n v path tso, memoriesFormed s → memoriesFormed (hostWrite s a n v path tso)) ∧
  (∀ s asid e, memoriesFormed s → memoriesFormed (ctxRing s asid e)) ∧
  (∀ s e, memoriesFormed s → memoriesFormed (modRing s e))

/-- Every step keeps the canonical form of every memory. -/
def Obligations.StepKeepsMemoryForm : Prop := ∀ s t, memoriesFormed s → step s = .next t → memoriesFormed t

/-! ### Operations of a group's own work -/

namespace Sys2Proof.Stated

/-- What register cells hold after a write lands: the write's own value where it names the cell. -/
def landed (cells : List (Nat × Word)) (old : Word) (key : Nat) : Word :=
  ((cells.reverse.find? fun c => c.1 = key).map fun c => c.2).getD old

/-- Registers that no operation of the helm or the pipe changes by itself: s and c registers as the helm sees them, the frontier, the rejoin registers. -/
def helmKept (s t : State) : Prop :=
  (∀ n, t.grp.sreg n = s.grp.sreg n) ∧ (∀ n, t.grp.creg n = s.grp.creg n) ∧ t.grp.frontier = s.grp.frontier ∧ t.grp.j = s.grp.j ∧
    t.grp.live = s.grp.live

/-- Whether a write slot of a bank is taken: by an issued word, or by a return (R59). -/
def slotTaken (p : Pipe) (d bank : Nat) : Bool := p.writes.contains (d, bank) || p.returns.contains (d, bank)

end Sys2Proof.Stated

/-- R43, R364, R365, R343, R52, R53, R59 and R216: what the helm and the wide pipe do on their own. -/
def Sys2Proof.Stated.helmAndPipe : Prop :=
  (∀ s e u w i, fetches s e u w → decodeWord w = some i → w.getLsbD 31 = false → (laneInfo i).inAllocation u.grp.nregs = true →
    u.grp.fwd.length < 16 → exec .helmLaneFetch s = .next ((noteHelm (queuedAt s u e w i) s.team s.grp).tick 1)) ∧
  (∀ s e (k : BitVec 3) l, topEntry s.grp.frontier = some e → breakHit s e = some (k.toNat, l) → helmReady s = true → stepOver s = false →
    allQuiet s.grp = true →
    ∃ t, exec (.breakpointStop k) s = .next t ∧ t.grp.wait = .stopped 0 ∧ helmKept s t ∧ t.grp.v = s.grp.v) ∧
  (∀ s e, topEntry s.grp.frontier = some e → stepOver s = true → helmReady s = true → allQuiet s.grp = true →
    ∃ t, exec .helmLaneFetch s = .next t ∧ t.grp.wait = .stopped 2 ∧ helmKept s t ∧ t.grp.v = s.grp.v ∧ t.clock = s.clock + 1) ∧
  (∀ s core quad x g c run, winner s core quad = some (x, g) → s.executes x g = true → nextLane s.grp = some (c, run) →
    ∃ t, exec (.runArbitration core quad) s = .next t ∧ t.grp.pipeRun = run ∧ t.grp.age = 0 ∧ t.grp.urgent = none ∧ t.grp.pend = [] ∧
      t.clock = s.clock ∧ s.clock ≤ t.pipe.next ∧ t.grp.v = s.grp.landAll.v ∧ t.grp.p = s.grp.landAll.p ∧ helmKept s t) ∧
  (∀ s core quad x g, winner s core quad = some (x, g) → s.executes x g = false →
    exec (.runArbitration core quad) s = .next (grantRun (s.turnTo x.uid g.gidx))) ∧
  (∀ s core quad, ∃ t, exec (.ageUrgent core quad) s = .next t ∧ t.clock = s.clock ∧
    t.grp = { s.grp with urgent := if s.team.core = core ∧ s.grp.quad = quad ∧ 256 ≤ s.grp.age ∧ s.grp.urgent = none then some s.clock
                                   else s.grp.urgent }) ∧
  (∀ s w rest d, s.grp.pend = w :: rest → w.due = some d → w.space = .v → readsBefore s d = false → (∀ x ∈ rest, ∀ c, x.due = some c → d < c) →
    ∃ t, exec .resultWriteback s = .next t ∧ t.clock = max s.clock d ∧ t.grp.pend = rest ∧ t.grp.p = s.grp.p ∧ helmKept s t ∧
      ∀ k, look t.grp.v k 0 = landed w.cells (look s.grp.v k 0) k) ∧
  (∀ s w rest key x, s.grp.pend = w :: rest → w.due = none → w.seq ≠ 0 → w.space = .v → w.cells.head? = some (key, x) → s.grp.live ≠ 0 →
    let after (c : Nat) : Prop := s.clock < c ∧ ∀ y ∈ rest, y.seq = w.seq → y.long = true → ∀ e, y.due = some e → e < c
    ∃ t d, exec .loadReturn s = .next t ∧ t.clock = s.clock ∧ after d ∧ { w with due := some d } ∈ t.grp.pend ∧ d + 1 ≤ t.grp.parkClk ∧
      (olderReturns s w = [] → d < s.clock + 1024 →
        slotTaken s.pipe d (key / 32 % 4) = false ∧ ∀ c, after c → c < d → slotTaken s.pipe c (key / 32 % 4) = true) ∧
      t.grp.v = s.grp.v ∧ t.grp.p = s.grp.p ∧ helmKept s t) ∧
  (∀ s, holdsPipe s.grp = false → s.grp.live ≠ 0 →
    (s.grp.parkOpen = false → ∃ t, exec .runParkEnd s = .next t ∧ t.clock = max s.clock s.grp.parkClk ∧ t.grp.pend = [] ∧
      t.grp.v = s.grp.landAll.v ∧ t.grp.p = s.grp.landAll.p ∧ t.grp.x = s.grp.landAll.x ∧ helmKept s t) ∧
    ({ s.grp with pend := [] }.parkOpen = true → ∃ t, exec .runParkEnd s = .next t ∧ t.clock = s.clock ∧ t.grp.v = s.grp.v)) ∧
  (∀ s y rest, s.grp.yielded = y :: rest →
    ∃ t, exec .yieldExpiry s = .next t ∧ t.grp.yielded = rest ∧ t.grp.wait = s.grp.wait ∧ t.grp.v = s.grp.v ∧ helmKept s t ∧
      s.clock ≤ t.clock ∧ t.clock ≤ max s.clock (y.since + 64))

/-- R48, R205, R110, R345, R122, R119 and R224: retirement, returns and the ends of waits. -/
def Sys2Proof.Stated.retirement : Prop :=
  (∀ s e rest sw cw, s.grp.commit = e :: rest → e.effect = .regs sw cw → laneBefore s.grp e.cur.seq = false →
    s.grp.ctl = none → s.grp.awaits = [] →
    (sw.map fun w => w.1).Nodup → (cw.map fun w => w.1).Nodup → (∀ w ∈ cw, w.1 < 8) →
    ∃ t, exec .commitRetire s = .next t ∧ t.grp.commit = rest ∧ helmKept s t ∧ t.grp.v = s.grp.v ∧
      ∀ n, look t.grp.s n 0 = landed sw (look s.grp.s n 0) n) ∧
  (∀ s o rest, s.grp.owed = o :: rest →
    ∃ t, exec .sldResultReturn s = .next t ∧ t.grp.owed = rest ∧ t.grp.commit = s.grp.commit ∧ t.grp.c = s.grp.c ∧ t.grp.v = s.grp.v ∧
      t.grp.frontier = s.grp.frontier ∧ t.mem = s.mem ∧ t.clock = s.clock ∧
      (s.grp.live ≠ 0 → s.grp.stopped = true → t.grp.stopped = false → s.clock < t.grp.helmClk) ∧
      ∀ n, look t.grp.s n 0 = landed o.2 (look s.grp.s n 0) n) ∧
  (∀ s h pa, heldReady s s.grp = some h → h.target = .device pa → h.op = none → h.load = none → h.lod = none → pa % 128 + h.size ≤ 128 →
    roomAtSlices s 1 → ∃ t, exec .storePerformed s = .next t ∧ sameBytes t.mem (memWrite s.mem pa h.size h.data) ∧
      t.grp.held = removeFirst (· = h) s.grp.held ∧ t.grp.v = s.grp.v ∧ helmKept s t) ∧
  (∀ s at_, s.grp.wait = .released at_ →
    ∃ t, exec .barrierReleaseReady s = .next t ∧ t.grp.wait = .passed ∧ t.grp.v = s.grp.v ∧ helmKept s t ∧ t.clock = max s.clock at_) ∧
  (∀ s sys, s.grp.wait = .fence sys → accessesDone s sys = true →
    ∃ t, exec .fenceComplete s = .next t ∧ t.grp = { s.grp with wait := .passed } ∧ t.mem = s.mem ∧
      (sys = true → ∀ w ∈ t.hostPending, w.uid = s.team.uid → w.gidx = s.grp.gidx → w.path = 0 → w.fenced = true)) ∧
  (∀ s bm am sc, s.grp.wait = .xfence bm am sc → xfenceReady s bm = true → (xfenceCombine s bm sc).2 = true →
    ∃ t, exec .xfenceComplete s = .next t ∧ t.grp = { s.grp with wait := .passed } ∧
      (am.getLsbD 0 = true → ∀ p < 9, bm.getLsbD p = true → look s.team.seenWts p 0 < (t.core s.team.core).ctime)) ∧
  (∀ s v, s.grp.wait = .publish v → allQuiet s.grp = true → s.grp.held = [] → s.slalia.lost = false →
    ∃ t, exec .publishComplete s = .next t ∧ t.grp = { s.grp with wait := .passed } ∧
      (let a := 8 * ((ctxOf s s.team.asid).pubAddr.toNat / 8 % 2 ^ 43)
       let before := (flushHost s fun w => w.fenced || (w.uid = s.team.uid && w.gidx = s.grp.gidx && w.path = 0)).hostMem
       memRead t.hostMem a 8 = max v.toNat (memRead before a 8)) ∧ t.mem = s.mem)

/-- What the helm, the wide pipe, the commit buffer and the ends of waits do by themselves, each with what it leaves as it is. -/
def Obligations.GroupOperations : Prop := helmAndPipe ∧ retirement

/-! ### The host and the hub -/

/-- R7, R331, R347, R348, R365, R411, R19 and R456: writes of hub registers, of LQHEAD and of RESUME, the host's accesses through BAR2, and module reset. -/
def Obligations.HostOperations : Prop :=
  (∀ s v h, s.slalia.lost = false ∨ h = false → ∃ t, exec (.registerWrite (hubBase + 0xF008) 8 v h) s = .next t ∧ t.hub.aperBase = v &&& 0x0000FFFE00000000 ∧ t.mem = s.mem) ∧
  (∀ s v h, s.slalia.lost = false ∨ h = false → ∀ m < 256, ∃ t, exec (.registerWrite (hubBase + 0x20000 + 8 * m) 8 v h) s = .next t ∧ look t.hub.fabRt m 0 = v &&& 0xFFFFFF ∧
    ∀ n, n ≠ m → look t.hub.fabRt n 0 = look s.hub.fabRt n 0) ∧
  (∀ s pa n v, bar0Mapped (pa - hubBase) = false ∨ pa < hubBase ∨ s.slalia.lost = true → exec (.registerWrite pa n v true) s = .next s) ∧
  (∀ s off n v q x, s.slalia.lost = true → exec (.hostBar2Write off n v) s = .next s ∧ exec (.lqheadWrite q x) s = .next s ∧
    exec (.hostBar2Read off n) s = .next { s with hostReplies := s.hostReplies ++ [{ bar := 2, addr := off, size := n, value := none }] }) ∧
  (∀ s off n, let v : Option Nat := if s.stage ≠ 7 ∧ off / 8 ≠ 0xF000 / 8 ∨ s.stage = 7 ∧ s.slalia.lost = true then none
      else some (if bar0Mapped off then hubGet s off n else 0)
    bar0Read s off n = { s with hostReplies := s.hostReplies ++ [{ bar := 0, addr := off, size := n, value := v }] }) ∧
  (∀ s q v, s.slalia.lost = false → ∃ t, exec (.lqheadWrite q v) s = .next t ∧ look t.hub.queues q.toNat {} = { look s.hub.queues q.toNat {} with head := v } ∧
    ∀ k, k ≠ q.toNat → look t.hub.queues k {} = look s.hub.queues k {}) ∧
  (∀ s asid name c, s.grp.wait = .stopped c → s.grp.live ≠ 0 → s.team.asid = asid → s.name.extractLsb' 0 60 = name.extractLsb' 0 60 →
    ∃ t, exec (.debugResume asid name) s = .next t ∧ t.grp.wait = .ready ∧ t.grp.passBreak = (topEntry s.grp.frontier).map (fun e => e.pc) ∧
      t.grp.stepping = true ∧ t.grp.v = s.grp.v ∧ helmKept s t) ∧
  (∀ s off n, let pa := s.hub.aperBase.toNat + off
    s.slalia.lost = false →
    (backed pa = true → reachable s pa = true → isLost s pa = false → ∃ t, exec (.hostBar2Read off n) s = .next t ∧ t.mem = s.mem ∧
      t.hostReplies = s.hostReplies ++ [{ addr := off, size := n, value := some (memRead s.mem pa n) }]) ∧
    (backed pa = false → ∃ t, exec (.hostBar2Read off n) s = .next t ∧
      t.hostReplies = s.hostReplies ++ [{ addr := off, size := n, value := none }]) ∧
    (backed pa = true → (s.die (homeOf (pa / 128))).inReset = true → exec (.hostBar2Read off n) s = .next { s with outside :=
      s.outside ++ [{ bar2 := some off, pa := pa, size := n, kind := 0, v := 0, since := s.clock }] })) ∧
  (∀ s off n v, let pa := s.hub.aperBase.toNat + off
    s.slalia.lost = false →
    (backed pa = true → reachable s pa = true → pa % 128 + n ≤ 128 → ∃ t, exec (.hostBar2Write off n v) s = .next t ∧
      sameBytes t.mem (memWrite s.mem pa n v.toNat)) ∧
    (backed pa = false → exec (.hostBar2Write off n v) s =
      .next (modRing s { source := 7, faddr := BitVec.ofNat 64 pa, fcode := 2 })) ∧
    (backed pa = true → (s.die (homeOf (pa / 128))).inReset = true → exec (.hostBar2Write off n v) s = .next { s with outside :=
      s.outside ++ [{ bar2 := some off, pa := pa, size := n, kind := 1, v := v.toNat, since := s.clock }] })) ∧
  (∀ s v d, d < 8 → (∀ r ∈ s.repairs, r.action = 2 → r.kind ≠ 5 ∧ (r.kind = 10 → r.ident.toNat ≠ d)) →
    ∃ t, exec (.moduleReset (0, []) v) s = .next t ∧ t.stage = 7 ∧ (∀ k < 1024, islandPoint t k = .nominal) ∧ t.bootFail = false ∧ t.fwver = v ∧ t.clock = 0 ∧ t.boots = s.boots + 1 ∧
    t.teams = [] ∧ t.launches = [] ∧ t.commands = [] ∧ t.grp.live = 0 ∧ t.mem = [] ∧ t.hostMem = s.hostMem ∧ t.repairs = s.repairs) ∧
  (∀ s v k d, d < 8 → (∀ r ∈ s.repairs, r.action = 2 → r.kind ≠ 5 ∧ (r.kind = 10 → r.ident.toNat ≠ d)) → 1 ≤ k → k ≤ 6 →
    ∃ t, exec (.moduleReset (k, []) v) s = .next t ∧ t.stage = k - 1 ∧ t.bootFail = true ∧ t.mem = [])

/-! ### Meters, clocks and heat -/

namespace Sys2Proof.Stated

/-- An exponent field acts as the nearest value of its range (R6). -/
def inRange (x lo hi : Nat) : Nat := max lo (min x hi)

end Sys2Proof.Stated

/-- R355, R358, R325, R94, R109, R317, R366, R342 and R454: what happens at fixed times. -/
def Obligations.TimedOperations : Prop :=
  (∀ s r, ∃ t, exec (.energyBoundary r) s = .next t ∧ t.energyAt = s.energyAt + 1 ∧
    t.clock = max s.clock ((s.energyAt + 1) * 2100) ∧ t.grp.units = 0 ∧ t.served = [] ∧
    ∀ n < 1024, ∀ x, r.find? (fun y => y.1 = n) = some x → look t.hub.energy n 0 = look s.hub.energy n 0 + x.2) ∧
  (∀ s, s.trace.tempo = false → exec .tempoTick s = .next s) ∧
  (∀ s, s.trace.tempo = true → s.trace.mielien = false → s.trace.next = none → ∃ t, exec .tempoTick s = .next t ∧
    t.trace.ticks = s.trace.ticks + 1 ∧ t.clock = max s.clock (s.trace.t0 + s.trace.ticks * 2 ^ s.trace.k) ∧ t.busy = s.busyNext ∧ t.busyNext = [] ∧ t.stallNext = [] ∧
    (s.trace.t0 + s.trace.ticks * 2 ^ s.trace.k ≤ s.clock → t.stallCnt = s.stallNext) ∧
    ∀ n < 768, (look t.latched n (0, 0)).1 = min (look s.busy n 0) 0xFFFFFFFF ∧
      (s.trace.t0 + s.trace.ticks * 2 ^ s.trace.k ≤ s.clock → (look t.latched n (0, 0)).2 = min (look s.stallCnt n 0) 0xFFFFFFFF)) ∧
  (∀ s, s.trace.tempo = false → ∃ t, exec .feedbackFilterClear s = .next t ∧ t.filterAt = s.filterAt + 2 ^ 16 ∧
    t.clock = max s.clock (s.filterAt + 2 ^ 16) ∧ ∀ c, (t.core c).filter = []) ∧
  (∀ s core n e, n < 256 → (s.core core).tlb[n]? = some e → e.pa = true ∨ e.pd = true → e.leafPa % 8 = 0 →
    ∃ t, exec (.pendingBitFlush core n) s = .next t ∧ t.clock = max s.clock (e.since + 2 ^ 22) ∧
      (t.core core).tlb[n]? = some { e with pa := false, pd := false } ∧
      memRead t.mem e.leafPa 8 = memRead s.mem e.leafPa 8 ||| (if e.pa then 2 ^ 48 else 0) ||| (if e.pd then 2 ^ 49 else 0)) ∧
  (∀ s core, (s.core core).loaded = true → ∃ t, exec (.ctimeAdvance core) s = .next t ∧ (s.core core).ctime < (t.core core).ctime ∧
    (t.core core).loaded = false ∧ t.clock = max s.clock ((s.core core).window + 16)) ∧
  (∀ s core n e, (s.core core).residency[n]? = some e → ∃ t, exec (.residencyEntryExpire core n) s = .next t ∧
    (t.core core).residency = (s.core core).residency.eraseIdx n ∧
    t.clock = max s.clock (e.filled + 2 ^ inRange (look s.ctxRes e.asid.toNat {}).prof.rlife.toNat 10 20)) ∧
  (∀ s d sl r k, sl < 16 → atPort s (16 * d + sl) = some (r, k) →
    let q := (look (s.die d).queued sl []).filter fun x => decide (2 * s.clock < x)
    ∃ t y, exec (.sliceRequestEnter d sl) s = .next t ∧ t.injected = s.injected.eraseIdx k ∧ t.mem = s.mem ∧
      (q.length < 32 → t.clock = s.clock) ∧ (32 ≤ q.length → ∀ x, q.head? = some x → t.clock = (x + 1) / 2) ∧
      t.granted = (if r.waits then s.granted ++ [(r.src, r.line)] else s.granted) ∧
      (let at_ := (2 * t.clock + 2) / 3 * 3
       let rest := (look (s.die d).queued sl []).filter fun x => decide (at_ < x)
       ((look (t.die d).queued sl []).filter fun x => decide (at_ < x)) = rest ++ [y] ∧ at_ < y ∧ (r.hit = true → y = max at_ (rest.getLastD 0) + 6))) ∧
  (∀ s, ∃ t, exec .admissionWindow s = .next t ∧ t.clock = max s.clock ((s.adm.window + 1) * 2100000) ∧ t.adm.window = s.adm.window + 1 ∧
    t.adm.charged = 0 ∧ t.adm.first = true ∧ t.adm.allowance = s.adm.next.getD s.adm.allowance ∧ t.adm.carry = (max 0 s.adm.excess).toNat) ∧
  (∀ s k c, ∃ t, exec (.thermalSample k c false) s = .next t ∧ t.clock % 4096 = 0 ∧ s.clock ≤ t.clock ∧ t.clock < s.clock + 4096 ∧
    look t.levels k 0 = max (look s.levels k 0) (if 115 ≤ c ∧ k < 768 then 3 else if 105 ≤ c then 2 else if 95 ≤ c then 1 else 0) ∧
    (115 ≤ c → k < 768 → (s.die (k / 96)).outOfService = false → (t.die (k / 96)).inReset = true)) ∧
  (∀ s k, look s.levels k 0 ≠ 0 → look s.coolSince k 0 ≠ 0 → s.coolantBad = false → ∃ t, exec (.thermalLevelReturn k) s = .next t ∧
    look t.levels k 0 = look s.levels k 0 - 1 ∧ t.clock = max s.clock (look s.coolSince k 0 - 1 + 2 ^ 20))

/-! ### The directory and peer modules -/

/-- R101, R369 and R413 (Table 5.9): who holds a line after a request at its home slice, an eviction or a recall. -/
def Sys2Proof.Stated.directory : Prop :=
  (∀ s line d, d < 8 → d ≠ homeOf line → (s.die d).rdc = [] → (s.die (homeOf line)).directory = [] → waysOf s (8 + d) 0 ≠ 0 →
    ∃ t x e, exec (.dirRead line d) s = .next t ∧ t.mem = s.mem ∧ rdcLine t d line = some x ∧ x.state = .E ∧
      dirEntry t line = some e ∧ e.presence = BitVec.ofNat 8 (2 ^ d) ∧ e.owner = some d) ∧
  (∀ s line d x e, d < 8 → rdcLine s d line = some x → dirEntry s line = some e →
    ∃ t y f, exec (.dirOwnership line d) s = .next t ∧ t.mem = s.mem ∧ rdcLine t d line = some y ∧ y.state = .M ∧
      dirEntry t line = some f ∧ f.presence = BitVec.ofNat 8 (2 ^ d) ∧ f.owner = some d ∧
      ∀ m < 8, m ≠ d → e.presence.getLsbD m = true → rdcLine t m line = none) ∧
  (∀ s line e, dirEntry s line = some e → ∃ t, exec (.dirHomeWrite line) s = .next t ∧ t.mem = s.mem ∧ dirEntry t line = none ∧
    ∀ m < 8, e.presence.getLsbD m = true → rdcLine t m line = none) ∧
  (∀ s line, dirEntry s line = none → exec (.dirHomeWrite line) s = .next s ∧ exec (.dirHomeRead line) s = .next s) ∧
  (∀ s line e m, dirEntry s line = some e → e.owner = some m → e.presence ≠ 0 → ∃ t f, exec (.dirHomeRead line) s = .next t ∧ t.mem = s.mem ∧
    dirEntry t line = some f ∧ f.presence = e.presence ∧ f.owner = none ∧
    ∀ x, rdcLine s m line = some x → ∃ y, rdcLine t m line = some y ∧ y.state = .S) ∧
  (∀ s d line x, rdcLine s d line = some x → rdcStays s x = true → exec (.rdcEvict d line) s = .next s) ∧
  (∀ s d line x, rdcLine s d line = some x → rdcStays s x = false → ∃ t, exec (.rdcEvict d line) s = .next t ∧ t.mem = s.mem ∧ rdcLine t d line = none ∧
    ∀ e, dirEntry s line = some e → e.presence = BitVec.ofNat 8 (2 ^ d) → dirEntry t line = none) ∧
  (∀ s line, let set := (s.die (homeOf line)).directory.filter fun e => e.line % 16384 = line % 16384 && servingSlice s e.line = servingSlice s line
    dirEntry s line = none → (16 ≤ set.length → (∀ e ∈ set, homeOf e.line = homeOf line) → ∃ t v, exec (.filterVictim line) s = .next t ∧ v ∈ set ∧
      (∀ w ∈ set, v.used ≤ w.used) ∧ dirEntry t v.line = none ∧ t.mem = s.mem) ∧
      (set.length < 16 → exec (.filterVictim line) s = .next s)) ∧
  (∀ s line f c, (s.die (homeOf line)).fills.find? (fun f => f.2.1 = line) = some f →
    (reachWrite s (homeOf line) line c).recalls = s.recalls ++ [(f.2.2.1, line, f.2.2.2)]) ∧
  (∀ s core line r, s.recalls.find? (fun x => x.1 = core && x.2.1 = line) = some r →
    ∃ t, exec (.leaseRecall core line) s = .next t ∧ t.mem = s.mem ∧ t.recalls = removeFirst (· = r) s.recalls ∧
      ((∀ e ∈ (s.core core).l1, e.line = line → e.lands ≤ s.clock) → l1Line t core line = none) ∧
      ∀ e ∈ (s.core core).l1, e.line = line → s.clock < e.lands → e.ttag = r.2.2 → { e with recalled := true } ∈ (t.core core).l1)

/-- R407 to R409: accesses of other modules, and the answers this module's groups get. -/
def Sys2Proof.Stated.peerModules : Prop :=
  (∀ s src pa n v, inboundReason s (pa % 2 ^ 39) = none → pa % 2 ^ 39 % 128 + n ≤ 128 →
    (∃ t, exec (.peerInboundAccess src pa n 1 v) s = .next t ∧ sameBytes t.mem (memWrite s.mem (pa % 2 ^ 39) n v) ∧
      t.peerReplies = s.peerReplies ++ [{ source := src, pa := pa % 2 ^ 39, nack := none, value := 0 }]) ∧
    (∃ t, exec (.peerInboundAccess src pa n 0 v) s = .next t ∧ t.mem = s.mem ∧
      t.peerReplies = s.peerReplies ++ [{ source := src, pa := pa % 2 ^ 39, nack := none, value := memRead s.mem (pa % 2 ^ 39) n }])) ∧
  (∀ s src pa n op v, inboundReason s (pa % 2 ^ 39) = none → op ≤ 10 → let old := memRead s.mem (pa % 2 ^ 39) 4
    ∃ t, exec (.peerInboundAccess src pa n (2 + op) v) s = .next t ∧
      t.peerReplies = s.peerReplies ++ [{ source := src, pa := pa % 2 ^ 39, nack := none, value := old }] ∧
      match newValue op (BitVec.ofNat 32 (v / 2 ^ 32)) (BitVec.ofNat 32 old) (BitVec.ofNat 32 v) with
      | some x => sameBytes t.mem (memWrite s.mem (pa % 2 ^ 39) 4 x.toNat)
      | none => t.mem = s.mem) ∧
  (∀ s src pa n w v d, inboundReason s (pa % 2 ^ 39) = some d →
    if d = 3 ∧ (s.die (homeOf (pa % 2 ^ 39 / 128))).inReset = true then
      exec (.peerInboundAccess src pa n w v) s =
        .next { s with outside := s.outside ++ [{ source := src, pa := pa % 2 ^ 39, size := n, kind := w, v := v, since := s.clock }] }
    else ∃ t, exec (.peerInboundAccess src pa n w v) s = .next t ∧
      t = { modRing s { source := 3, cls := 0x14, faddr := BitVec.ofNat 64 (pa % 2 ^ 39), fcode := BitVec.ofNat 32 (d + 65536 * src.toNat) } with
            peerReplies := s.peerReplies ++ [{ source := src, pa := pa % 2 ^ 39, nack := some d, value := 0 }] }) ∧
  (∀ s nack w, sentWord s = some w → (∀ x ∈ w.accs, ∃ t c, x.v = .ok t c) → w.answers.length < w.need s →
    w.cur.word.getLsbD 31 = true ∨ w.answers.length + 1 < w.need s →
    ∃ t, exec (.peerReply nack) s = .next t ∧ t.clock = s.clock ∧ memoriesKept s t ∧
      t.grp.awaiting w.cur.seq = some { w with answers := w.answers ++ [if nack = 0 then .ok else .nack nack] }) ∧
  (∀ s w x m pa c f d, sentWord s = some w → w.cur.word.getLsbD 31 = false → w.accs = [x] → x.v = .ok (.peer m pa) c → w.kind = .load f d →
    f < 8 → s.grp.olderAccess w.cur.seq = false → lockedRegs s.team s.grp.gidx = [] →
    ∃ t, exec (.peerReply 0) s = .next t ∧ t.clock = s.clock ∧ memoriesKept s t ∧ t.grp.awaiting w.cur.seq = none ∧
      ∃ p ∈ t.grp.pend, p.seq = w.cur.seq ∧
        p.cells = [(32 * d + x.lane, (loadRegs f (memRead (look s.peers m {}).mem pa (lmSize f))).getD 0 0)]) ∧
  (∀ s nack w x m pa c, sentWord s = some w → w.cur.word.getLsbD 31 = false → w.accs = [x] → x.v = .ok (.peer m pa) c → nack ≠ 0 →
    x.late = none → x.refused = none → (∀ l y, w.kind ≠ .lod l y) →
    ∃ u, exec (.peerReply nack) s = .next (raise u
      { cur := w.cur, lanes := maskOf [x.lane], cls := clsRemote, faddr := x.va, fcode := reason 3 0 nack.toNat }) ∧ u.cur = w.cur ∧ u.clock = s.clock ∧ memoriesKept s u) ∧
  (∀ s w x m pa c p, sentWord s = some w → w.cur.word.getLsbD 31 = false → w.accs = [x] → x.v = .ok (.peer m pa) c →
    x.refused = none → (∀ l y, w.kind ≠ .lod l y) →
    ∃ u, exec (.peerTimeout p) s = .next (raise u
      { cur := w.cur, lanes := maskOf [x.lane], cls := clsRemote, faddr := x.va, fcode := reason 2 0 0 }) ∧ u.cur = w.cur ∧ u.mem = s.mem ∧
      u.clock = max s.clock (w.since.getD 0 + 2 ^ inRange (s.hub.peerTo.toNat % 32) 16 28) ∧ (p = false → memoriesKept s u))

/-- The directory's transitions and the peer modules' accesses and answers. -/
def Obligations.CoherenceOperations : Prop := directory ∧ peerModules

/-! ### Links, dies, ports, errors -/

/-- R444 to R450 and R352: pontoon links, dies in reset, optical ports. -/
def Sys2Proof.Stated.linksAndDies : Prop :=
  (∀ s k, let l := look s.links k {}
    l.retraining = false → ∃ t, exec (.flitCrcError k) s = .next t ∧
      (let now := (l.replays.filter fun x => decide (s.clock < x + 98304)) ++ [s.clock]
       if 8 ≤ now.length then (look t.links k {}).retraining = true ∧ (look t.links k {}).retrains = l.retrains + 1
       else look t.links k {} = { l with replays := now })) ∧
  (∀ s k, (look s.links k {}).retraining = false → ∃ t, exec (.linkRetrain k) s = .next t ∧
    look t.links k {} = { look s.links k {} with retraining := true, retrainAt := s.clock, retrains := (look s.links k {}).retrains + 1, replays := [] }) ∧
  (∀ s k, (look s.links k {}).retraining = true → exec (.linkRetrain k) s = .next s ∧ exec (.flitCrcError k) s = .next s) ∧
  (∀ s k f, (look s.links k {}).retraining = true → ∃ t, exec (.retrainComplete k f) s = .next t ∧
    (let l := look s.links k {}
     look t.links k {} = { l with retraining := false, failed := l.failed ||| (f &&& BitVec.ofNat 8 (2 ^ linkModules k - 1)) })) ∧
  (∀ s d, (s.die d).inReset = false → (s.die d).outOfService = false → ∃ t, exec (.dieReset d) s = .next t ∧ (t.die d).inReset = true ∧
    (t.die d).resetAt = s.clock ∧ (t.die d).tlb = [] ∧ ∀ k, 96 * d ≤ k → k < 96 * d + 96 → (t.core k).l1 = [] ∧ (t.core k).tlb = []) ∧
  (∀ s d, (s.die d).inReset = true → (s.die d).outOfService = false → ∃ t, exec (.dieReturn d true) s = .next t ∧ (t.die d).inReset = false ∧
    (t.die d).outOfService = false ∧ t.grp = s.grp) ∧
  (∀ s d, (s.die d).inReset = true → (s.die d).outOfService = false → ∃ t, exec (.dieReturn d false) s = .next t ∧ (t.die d).inReset = false ∧
    (t.die d).outOfService = true ∧ t.grp = s.grp) ∧
  (∀ s d since, s.grp.wait = .homeDie d since → (s.die d).inReset = true → ∃ t, exec .homeDieWaitExpire s = .next t ∧
    t.clock = max s.clock (max since (s.die d).resetAt + 2 ^ 24) ∧ t.grp.homeGone = true ∧ t.grp.v = s.grp.v ∧ helmKept s t) ∧
  (∀ s w x d a c, (∀ e b, s.grp.wait ≠ .homeDie e b) → homeWord s = some w → w.cur.word.getLsbD 31 = false → w.accs = [x] → x.v = .home d a c →
    (∀ m pa, a ≠ .peer m pa) → x.late = none → x.refused = none → (∀ l y, w.kind ≠ .lod l y) → (s.die d).inReset = true →
    ∃ u, exec .homeDieWaitExpire s = .next (raise u
      { cur := w.cur, lanes := maskOf [x.lane], cls := clsXlate, faddr := x.va, fcode := reason 8 c.level 0 }) ∧ u.cur = w.cur ∧ memoriesKept s u ∧
      u.clock = max s.clock (max (w.since.getD 0) (s.die d).resetAt + 2 ^ 24)) ∧
  (∀ s x rest, (∀ d b, s.grp.wait ≠ .homeDie d b) → homeWord s = none → s.grp.held = [] → s.team.orphans = [] → s.outside = x :: rest → x.bar2 = none →
    (s.die (homeOf (x.pa / 128))).inReset = true → ∃ t, exec .homeDieWaitExpire s = .next t ∧ t.outside = rest ∧
      t.clock = max s.clock (max x.since (s.die (homeOf (x.pa / 128))).resetAt + 2 ^ 24) ∧
      t.peerReplies = s.peerReplies ++ [{ source := x.source, pa := x.pa, nack := some 3, value := 0 }]) ∧
  (∀ s k, ∃ t, exec (.selfWakeCompare k) s = .next t ∧ t.clock % 1536 = 0 ∧ s.clock ≤ t.clock ∧ t.clock < s.clock + 1536 ∧
    (let p := (look s.ports k {}).drain t.clock
     if inRange p.wakeDepth.toNat 1 4096 < p.depth then
       (look t.ports k {}).waking = p.waking ||| (p.parked &&& ~~~p.retired) ∧ (look t.ports k {}).parked = p.parked &&& p.retired
     else look t.ports k {} = p)) ∧
  (∀ s k g at_, (look s.ports k {}).waker = some (g, at_) → ∃ t, exec (.wakeComplete k) s = .next t ∧
    t.clock = max s.clock at_ ∧ (look t.ports k {}).waking.getLsbD g = false ∧
    (look t.ports k {}).parked = (look s.ports k {}).parked) ∧
  (∀ s k lambda, lambda < 16 → (look s.ports k {}).retired.getLsbD (lambda / 4) = false → ∃ t, exec (.wavelengthFail k lambda) s = .next t ∧
    (look t.ports k {}).retired.getLsbD (lambda / 4) = true ∧ (look t.ports k {}).parked.getLsbD (lambda / 4) = false ∧
    t.repairs ≠ [] ∧ t.hub.svcReq = true)

/-- R449, R452, R414 and R415: repairs, Slalia, storage errors. -/
def Sys2Proof.Stated.serviceAndErrors : Prop :=
  (∀ s kind ident left action, kind ≠ 1 → kind ≠ 3 → kind ≠ 6 → (∀ c ∈ spareCores kind.toNat ident.toNat, coreBusy s c = false) →
    ∃ t, exec (.spareApply kind ident left action) s = .next t ∧ t.hub.svcReq = true ∧
    t.repairs.getLast? = some { kind := kind, action := action, ident := ident, left := left, boot := s.boots, time := BitVec.ofNat 64 s.clock }) ∧
  (∀ s (ident : Half) left, coreBusy s (ident.toNat % 768) = false →
    (∃ t, exec (.spareApply 1 ident left 2) s = .next t ∧ (t.core (ident.toNat % 768)).outOfService = true) ∧
    let die := ident.toNat % 768 / 96
    (s.die die).coresSpared < 8 → ∃ t, exec (.spareApply 1 ident left 1) s = .next t ∧ (t.die die).coresSpared = (s.die die).coresSpared + 1 ∧
      (t.core (ident.toNat % 768)).outOfService = (s.core (ident.toNat % 768)).outOfService ∧
      t.repairs.getLast? = some { kind := 1, action := 1, ident := ident, left := BitVec.ofNat 32 (7 - (s.die die).coresSpared), boot := s.boots,
                                  time := BitVec.ofNat 64 s.clock }) ∧
  (∀ s (ident : Half) left action, coreBusy s (ident.toNat % 768) = true → action ≠ 3 → ∃ t, exec (.spareApply 1 ident left action) s = .next t ∧
    t.repairs = s.repairs ∧ (t.core (ident.toNat % 768)).draining = true ∧ (1, ident.toNat, left.toNat, action.toNat) ∈ t.sparing) ∧
  (∀ s n, s.slalia.lost = false → ∃ t, exec (.slaliaRetrain n) s = .next t ∧ t.slalia.lanes = n ∧ t.slalia.lost = false) ∧
  (∀ s, s.slalia.lost = false → ∃ t, exec .slaliaLost s = .next t ∧ t.slalia.lost = true ∧ t.hostPending = []) ∧
  (∀ s, s.slalia.lost = true → exec .slaliaLost s = .next s) ∧
  (∀ s code addr, code ≠ 9 ∨ s.damage = [] → ∃ t d, exec (.softError code addr false) s = .next t ∧ d < 13 ∧ t.mem = s.mem ∧ t.grp = s.grp ∧
    ∀ k, look t.hub.serrCe k 0 = if k = d then min (look s.hub.serrCe k 0 + 1) 0xFFFFFFFF else look s.hub.serrCe k 0) ∧
  (∀ s addr, ∃ t, exec (.softError 2 addr true) s = .next t ∧ t.mem = s.mem ∧
    (t.core (addr / 2 ^ 32 % 1024 % 768)).l1 = (s.core (addr / 2 ^ 32 % 1024 % 768)).l1.filter fun e => e.line ≠ addr % 2 ^ 32) ∧
  (∀ s d c, s.damage = [] → exec (.patrolScrub d c) s = .next s) ∧
  (∀ s line e c, s.damage = [(line, [e])] → c = sliceOfLine line / 2 → (s.die (homeOf line)).lost = [] →
    ∃ t, exec (.patrolScrub (homeOf line) c) s = .next t ∧ t.mem = s.mem ∧ t.damage = [] ∧
      look t.hub.serrCe (homeOf line) 0 = min (look s.hub.serrCe (homeOf line) 0 + 1) 0xFFFFFFFF)

/-- Links, dies, ports, spares, Slalia and storage errors. -/
def Obligations.ServiceOperations : Prop := linksAndDies ∧ serviceAndErrors

/-! ### The launch unit -/

/-- R332, R333, R339 to R341, R337, R439 and R440: acceptance, waits, placement, the finish of a launch, and the coalescing nodes. -/
def Obligations.LaunchOperations : Prop :=
  (∀ s (q : BitVec 8), let x := s.queue q.toNat
    let pa := x.base.toNat + 128 * (x.tail.toNat % 2 ^ inRange (x.cfg.toNat % 32) 1 16)
    turnQueue s = some q.toNat → x.due = none → ∃ (t : State) (l : Launch), exec (.launchAccept q) s = .next t ∧
      t.launches = s.launches ++ [l] ∧ l.id = s.nextLaunchId ∧ l.seqNo = s.nextSeqNo ∧ t.nextLaunchId = s.nextLaunchId + 1 ∧
      t.nextSeqNo = s.nextSeqNo + 1 ∧ t.launchTurn = q.toNat + 1 ∧ (t.queue q.toNat).tail = x.tail + 1 ∧ t.teams = s.teams ∧
      (paBytes s pa 128 = none → l.finished = true ∧ l.noDone = true) ∧
      ∀ b, paBytes s pa 128 = some b → let r := launchOf b
        (∀ o, recordBad (ctxOf s r.asid).valid b = some o → l.finished = true ∧ l.noDone = true) ∧
        (recordBad (ctxOf s r.asid).valid b = none → fieldAt b 56 8 = 0 → r.wait = false → r.qfed = false →
          l = { r with seqNo := s.nextSeqNo, id := s.nextLaunchId, queue := q.toNat, prev := lastOf s q.toNat, priv := (ctxOf s r.asid).priv,
                       addr := pa })) ∧
  (∀ s (q : BitVec 8), turnQueue s ≠ some q.toNat → exec (.launchAccept q) s = .next s) ∧
  (∀ s n l x, s.launch n = some l → l.finished = false → l.started = false → l.wait = true → hubTarget s l.asid l.waitVa .read = some x →
    ∃ t, exec (.launchWaitPoll n) s = .next t ∧ t.mem = s.mem ∧
      t.launch n = some (if l.waitVal.toNat ≤ rawRead s x 8 then
        { l with waitMet := true, after := startsAfter s (l.after ++ doneBefore s x) } else l)) ∧
  (∀ s n l c, s.launch n = some l → l.size = 1 → placeable s l = true → (∀ o ∈ s.launches, o.seqNo < n → placeable s o = false) →
    pickCore s l.need l.seqNo l.nextTeam = some c → ∃ (t : State) (m : Team) (code : CodeView) (after : List Nat), exec (.teamPlace n) s = .next t ∧
      t.launch n = some { l with nextTeam := l.nextTeam + 1, live := l.live + 1, code := code, after := after, started := true } ∧
      (if l.started then code = l.code ∧ after = l.after
       else after = startsAfter s (l.after ++ if l.serial then l.prev.toList else []) ∧ code.mem = orderedView s.codeLog false after s.mem ∧
         code.host = orderedView s.codeLog true after s.hostMem ∧ code.peers = s.peers ∧ code.hub = s.hub) ∧
      m ∈ t.teams ∧ m.uid = s.nextUid ∧ m.seqNo = n ∧ m.tidx = l.nextTeam ∧ m.core = c ∧ m.asid = l.asid ∧ m.launchId = l.id ∧
      m.groups.length = l.groups ∧ (∀ g ∈ m.groups, g.live = 0xFFFFFFFF ∧ g.nregs = 16 * l.regs ∧
        g.frontier = [{ pc := l.codeVa + (l.entry.getD g.role.index 0).setWidth 64, prio := 0, mask := 0xFFFFFFFF }]) ∧
      t.mem = s.mem ∧ t.grp.v = s.grp.v ∧ helmKept s t ∧ t.clock = s.clock + 3) ∧
  (∀ s n l, s.launch n = some l → placeable s l = false → exec (.teamPlace n) s = .next s) ∧
  (∀ s n l, s.launch n = some l → finishes s l = true → l.regions = [] → l.combWait = none → ∃ t, exec (.launchFinish n) s = .next t ∧
    t.launch n = some { l with finished := true, combRetry := false, regions := [] } ∧ ∀ k, ∀ e ∈ (t.core k).tlb, n ∉ e.users) ∧
  (∀ s n l pa, s.launch n = some l → finishes s l = true → l.regions = [] → l.combWait = none → l.done = true → l.noDone = false → allTlb s = [] →
    hubTarget s l.asid l.doneVa .write = some (.device pa) → pa % 128 + 8 ≤ 128 →
    ∃ t, exec (.launchFinish n) s = .next t ∧ memRead t.mem pa 8 = l.doneVal.toNat) ∧
  (∀ s n l tail f d3, s.launch n = some l → nodeServed l = true → l.node.firing = none → readNodeCtl s l = some (tail, f, d3) →
    ∃ t, exec (.nodeTailPoll n) s = .next t ∧ t.mem = s.mem ∧ t.clock = s.clock ∧
      t.launch n = some (if l.lo < tail then { l with node := { l.node with first := some (l.node.first.getD s.clock) } }
        else if d3.testBit 9 then { l with node := { l.node with closed := true } } else l)) ∧
  (∀ s n l tail f d3, s.launch n = some l → nodeServed l = true → l.node.firing = none → readNodeCtl s l = some (tail, f, d3) →
    (tail ≤ l.lo → ∃ t, exec (.batchFire n) s = .next t ∧ t.mem = s.mem ∧ t.launches = s.launches ∧ t.clock = s.clock ∧ t.grp = s.grp) ∧
    (l.lo < tail → ∃ (t : State) (x : Launch), exec (.batchFire n) s = .next t ∧ t.launch n = some x ∧
      t.clock = (if l.hi ≤ tail ∨ BitVec.ofNat 32 f ≠ l.node.flush ∨ d3.testBit 9 = true then s.clock
                 else max s.clock (l.node.first.getD s.clock + 256 * inRange (d3 % 512) 1 256)) ∧
      (x.ended = true ∨ x.node.firing.isSome = true ∨ x.node.batch = l.node.batch + 1))) ∧
  (∀ s n l o i c, s.launch n = some l → nodeServed l = true → l.node.firing = some (o, i, c) →
    (fireOrder l o).dropWhile (fun k => decide (k ≠ i)) = [i] → i < o → nodeWord s l (l.slotVa i) = some (l.validTag i) →
    ∃ t, exec (.batchFire n) s = .next t ∧ t.mem = s.mem ∧
      t.launch n = some { l with node := { l.node with batch := l.node.batch + 1, first := none, firing := none, timedOut := false } }) ∧
  (∀ s n l o i c, s.launch n = some l → l.node.firing = some (o, i, c) → l.node.timedOut = false → l.finished = false → l.ended = false →
    ∃ t, exec (.tagWaitTimeout n) s = .next t ∧ t.clock = max s.clock (c + 2 ^ 24) ∧
      t.launch n = some { l with node := { l.node with timedOut := true } })

/-! ### Pending faults, page requests, handler returns -/

/-- R386, R391 and R402: a pending fault or page request is taken once nothing older is outstanding; the return from a handler. -/
def Obligations.FaultOperations : Prop :=
  (∀ s f, s.grp.pendFault = some f → olderOutstanding s.grp f.cur.seq = false → f.page = none → f.cls ≠ 0x14 →
    exec .faultTake s = .next (raise { s with grp := { s.grp with pendFault := none } } f)) ∧
  (∀ s f, s.grp.pendFault = some f → takes s f → handlerVa s ≠ 0 → ∃ t, exec .faultTake s = .next t ∧ t.grp.pendFault = none ∧
    t.grp.fault = { cls := f.cls, prio := f.cur.prio, fetch := f.fetch, defer := f.defer, tile := f.tile, valid := true, lanes := f.lanes,
                    fpc := f.cur.pc, faddr := f.faddr, fword := if f.defer then f.fword else f.cur.word, fcode := f.fcode }) ∧
  (∀ s f, s.grp.pendFault = some f → olderOutstanding s.grp f.cur.seq = true →
    exec .faultTake s = .next s ∧ exec .pageRequest s = .next s) ∧
  (∀ s f va level, s.grp.pendFault = some f → olderOutstanding s.grp f.cur.seq = false → f.page = some (va, level) → f.lanes ≠ 0 →
    f.lanes &&& ~~~f.cur.mask = 0 →
    ∃ t, exec .pageRequest s = .next t ∧ (∃ e ∈ t.grp.frontier, e.pc = f.cur.pc ∧ e.mask &&& f.lanes = f.lanes) ∧
      (∀ key, look t.grp.v key 0 = rolledBack s f.cur.seq key) ∧ t.grp.pendFault = none ∧ t.grp.fault = s.grp.fault ∧
      t.grp.live = s.grp.live ∧ t.grp.s = s.grp.s ∧ t.grp.c = s.grp.c ∧
      ((ctxOf s s.team.asid).saveBase.toNat / 65536 = 0 → t.team.pageWait = some (s.team.pageWait.getD va) ∧ t.team.saving = s.team.saving) ∧
      ((ctxOf s s.team.asid).saveBase.toNat / 65536 ≠ 0 → slotHeld s s.team = false → s.team.uid ≠ 0 → t.team.saving.isSome = true)) ∧
  (∀ s v e, topEntry s.grp.frontier = some e → e.handler = true → s.grp.frontier.find? (fun x => x.handler) = some e →
    s.grp.fault.valid = true → v.getLsbD 1 = false → allQuiet s.grp = true → s.grp.live ≠ 0 →
    ∃ t, exec (.fresumeWrite v) s = .next t ∧ t.grp.fault = { s.grp.fault with valid := false } ∧ t.grp.live = s.grp.live ∧
      t.grp.frontier = addEntry (s.grp.frontier.filter fun x => !x.handler)
        { pc := s.grp.fault.fpc + (if v.getLsbD 0 then 4 else 0), prio := s.grp.fault.prio, mask := e.mask } ∧ t.grp.v = s.grp.v ∧ t.mem = s.mem)

/-! ### The matrix engine -/

namespace Sys2Proof.Stated

/-- Element `e` of row `i` of an i8 operand A in the operand buffer (R241). -/
def aByte (ob : Memory) (r : Reservation) (i e : Nat) : Int :=
  (memByte ob (128 * (r.w0.toNat % 2048) + i * (r.w0.toNat / 2 ^ 32 % 65536) + e)).toInt

/-- Element (k, j) of an i8 operand B in the registers of its holders (R242). -/
def bByte (gs : List Group) (holders : List Nat) (vb k j : Nat) : Int :=
  let per := 64 / holders.length
  let n := 2 * (k % per) + j % 2
  match gs.find? fun g => g.gidx = holders.getD (k / per) 16 with
  | some g => ((g.vreg (vb + n / 4) (j / 2)).extractLsb' (8 * (n % 4)) 8).toInt
  | none => 0

/-- A word of the focus team's engine that may start on a tile, with no earlier fault on it. -/
def mayBegin (s : State) (tile : BitVec 3) (w : MatWord) (major : Nat) : Prop :=
  headWord s.team tile.toNat = some w ∧ canStart s s.team w = true ∧ majorOf w.word = major ∧ (look s.team.tiles tile.toNat {}).faulted = []

end Sys2Proof.Stated

/-- R247 to R249, R245, R244 and R259: what tile words do to a tile when they start, the times they take, and their ends. -/
def Sys2Proof.Stated.matrixEngine : Prop :=
  (∀ s tile w, mayBegin s tile w 0x32 → ∃ t, exec (.matrixWordStart tile) s = .next t ∧ t.grp = s.grp ∧ t.mem = s.mem ∧
    (let x := look s.team.tiles tile.toNat {}
     look t.team.tiles tile.toNat {} = { x with type := .zero, elems := [], plane := [], bounds := [], ckBounds := [], chain := none }) ∧
    (∀ k, k ≠ tile.toNat → look t.team.tiles k {} = look s.team.tiles k {}) ∧ (∃ x ∈ t.team.words, x.order = w.order ∧ x.ends = s.clock + 4)) ∧
  (∀ s tile w, mayBegin s tile w 0x36 → (w.val.setWidth 32 : Word).toNat ≤ 0x7F800000 → ∃ t, exec (.matrixWordStart tile) s = .next t ∧
    look t.team.tiles tile.toNat {} = { look s.team.tiles tile.toNat {} with threshold := w.val.setWidth 32 }) ∧
  (∀ s tile w, mayBegin s tile w 0x30 → let r := look s.team.resv (jointR w.word) {}
    let x := look s.team.tiles tile.toNat {}
    let hs := gangHolders w.gang
    r.held = true → resvClass r = some .int8 → r.kpos + 64 ≤ r.w0.toNat / 2 ^ 32 % 65536 → x.type = .zero ∨ x.type = .i32 →
    hs.length = 2 ∨ hs.length = 4 → (∀ h ∈ hs, ∃ g ∈ s.groupsOf s.team.uid, g.gidx = h) → (∀ g ∈ s.groupsOf s.team.uid, g.pend = []) →
    ∃ t, exec (.matrixWordStart tile) s = .next t ∧ t.grp = s.grp ∧ t.mem = s.mem ∧ (look t.team.tiles tile.toNat {}).type = .i32 ∧
      (look t.team.resv (jointR w.word) {}).kpos = r.kpos + 64 ∧ (∃ y ∈ t.team.words, y.order = w.order ∧ y.ends = s.clock + 64) ∧
      ∀ i < 64, ∀ j < 64, look (look t.team.tiles tile.toNat {}).elems (64 * i + j) 0 = BitVec.ofInt 32 (max (-2 ^ 31) (min (2 ^ 31 - 1)
        ((List.range 64).foldl (fun (n : Int) k => n + aByte w.ob r i (r.kpos + k) *
          bByte (s.groupsOf s.team.uid) hs (jointVb w.word) k j) (look x.elems (64 * i + j) 0).toInt)))) ∧
  (∀ s tile w, mayBegin s tile w 0x30 → (look s.team.resv (jointR w.word) {}).held = false → s.grp.live ≠ 0 → ∃ t, exec (.matrixWordStart tile) s = .next t ∧
    t.team.resv = s.team.resv ∧ ∃ d, t.team.deferred = s.team.deferred ++ [d] ∧ d.cls = 0x18 ∧ d.tile = tile.toNat ∧ d.word = w.word) ∧
  (∀ s tile w, runningWord s.team tile.toNat (fun x => !x.replay) = some w → s.team.words.find? (fun x => x.order = w.order) = some w →
    s.grp.live ≠ 0 → (majorOf w.word = 0x30 ∨ majorOf w.word = 0x31 → (look s.team.tiles tile.toNat {}).chain = none) →
    majorOf w.word ≠ 0x33 → majorOf w.word ≠ 0x34 → majorOf w.word ≠ 0x35 →
    ∃ t, exec (.matrixWordComplete tile) s = .next t ∧ t.clock = max s.clock w.ends ∧ t.team.tiles = s.team.tiles ∧ t.grp.v = s.grp.v ∧ t.grp.pend = s.grp.pend ∧ helmKept s t ∧
      t.mem = s.mem ∧
      t.team.words = s.team.words.filter (fun x => x.order ≠ w.order) ∧
      look t.team.slots (jointSet w.word) 0 = look s.team.slots (jointSet w.word) 0 - 1) ∧
  (∀ s tile w, runningWord s.team tile.toNat (fun x => x.replay) = some w → s.team.words.find? (fun x => x.order = w.order) = some w →
    s.grp.live ≠ 0 → let x := look s.team.tiles tile.toNat {}
    let n := match x.chain with | some c => c.log.length | none => 0
    ∃ t, exec (.promotionReplayEnd tile) s = .next t ∧ t.clock = max s.clock w.ends ∧ (look t.team.tiles tile.toNat {}).type = .wide ∧
      t.team.promCnt = s.team.promCnt + 1 ∧ t.team.promStat = s.team.promStat ||| BitVec.ofNat 8 (2 ^ tile.toNat) ∧
      t.team.promClk = s.team.promClk + BitVec.ofNat 64 (8 + 128 * n) ∧ t.team.words = s.team.words.filter (fun x => x.order ≠ w.order))

/-! ### Commands in their engines -/

namespace Sys2Proof.Stated

/-- What freeing a retired generation does (R300): the nodes its retire list names, then its root in every pool, its count of entries and its
tag. Answers the slots freed. -/
def reclaimed (e : Agent) (va slot : Nat) : SceneM Nat := do
  let sc ← readScene e va
  let g := sc.gen slot
  let n ← (List.range g.retCnt).foldlM (fun (n : Nat) k => do
    let ref ← sceneNat e (g.ret + 4 * k) 4
    return n + if (← setNodeBit e sc (ref / 2 ^ 29) (ref % 2 ^ 29) false) then 1 else 0) 0
  let n ← pools.foldlM (fun (n : Nat) d => do return n + if (← setNodeBit e sc d g.root false) then 1 else 0) n
  recordWrite e (sc.va + genOff slot + 32) (leBytes 4 0)
  writeGens e (sc.setGen slot fun x => { x with tag := 0, state := 0 })
  return n

/-- The place of the entry at the head of a group's commit buffer. -/
def headSeq (g : Group) : Nat := (g.commit.head?.map fun e => e.cur.seq).getD 0

/-- A command's work begins with no write of its own (R119). -/
def unwritten (s : State) : State := { s with engWts := 0, sceneWts := 0 }

end Sys2Proof.Stated

/-- R262, R263, R265 to R267, R404, R306, R309, R298 to R300 and R279: acceptance, start, record and page wait of a command; rays; builds. -/
def Sys2Proof.Stated.engineCommands : Prop :=
  (∀ s c, deliveredCmd s = some c → s.grp.olderAccess (headSeq s.grp) = false → c.pages = [] → queueFull s c.engine = false →
    (c.major = 0x3B ∧ 5 ≤ c.fn) ∨ (c.major = 0x3A ∧ c.fn = 4) →
    ∃ (t : State) (x : Command), exec .commandAccept s = .next t ∧ t.cmd c.id = some x ∧ x.state = .queued ∧
      x.tag = BitVec.ofNat 32 (s.team.cmdSeq.toNat + 2 ^ 16 * s.grp.gidx + 2 ^ 22 * c.fn + 2 ^ 29 * (c.major - 0x38)) ∧ x.opa = c.opa ∧ x.opb = c.opb ∧
      t.team.cmdSeq = s.team.cmdSeq + 1 ∧ t.grp.commit = s.grp.commit.drop 1 ∧ t.grp.v = s.grp.v ∧ t.mem = s.mem ∧
      ∀ n, look t.grp.s n 0 = if c.dest = some n then x.tag else look s.grp.s n 0) ∧
  (∀ s c, deliveredCmd s = some c → s.grp.olderAccess (headSeq s.grp) = true → exec .commandAccept s = .next s) ∧
  (∀ s id c, s.cmd id = some c → mayStart s c = true → c.major = 0x3A →
    (c.fn ≤ 2 → ∃ (t : State) (x : Command), exec (.commandStart id) s = .next t ∧ t.cmd id = some x ∧ x.state = .running ∧ x.desc = c.desc ∧
      x.status = c.status ∧ x.outstanding = c.outstanding ∧ t.mem = s.mem ∧ t.rays = s.rays) ∧
    (c.fn = 4 → ∃ (t : State) (x : Command), exec (.commandStart id) s = .next t ∧ t.cmd id = some x ∧ x.state = .finished ∧ x.status = 0 ∧
      x.count = rayCount s c.opa (c.opb.toNat % 65536) ∧ t.mem = s.mem)) ∧
  (∀ s id c, s.cmd id = some c → mayStart s c = true → c.major = 0x3F → c.fn = 0 → c.opb.toNat / 4096 % 4 = 2 →
    ∃ (t : State) (x : Command), exec (.commandStart id) s = .next t ∧ t.cmd id = some x ∧ x.state = .finished ∧ x.status = 0 ∧
      x.after = underWay s (fun _ => true) (fun _ => true) (fun _ => true) ++ copiesUnderWay s (fun _ => true) ∧ (∀ k, (t.core k).tlb = []) ∧ ∀ d, (t.die d).tlb = []) ∧
  (∀ s id c, s.cmd id = some c → mayStart s c = true → c.major = 0x3F → c.fn = 6 → c.opa.toNat % 4 = 0 →
    ∃ (t : State) (x : Command), exec (.commandStart id) s = .next t ∧ t.cmd id = some x ∧ x.state = .finished ∧ x.status = 0 ∧
      t.adm = { s.adm with next := some c.opb.toNat } ∧ t.mem = s.mem) ∧
  (∀ s id c m, s.cmd id = some c → s.teamOf c.uid = some m → c.uid ≠ 0 → m.events.length < 64 → c.callouts = [] → c.state = .finished →
    leftPorts s c = true → (∀ x ∈ c.after, stillUnderWay s x = false) → recordFirst s c = true →
    ∃ (t : State) (u : Team) (r : Record), exec (.recordPlace id) s = .next t ∧ t.teamOf c.uid = some u ∧ u.events = m.events ++ [r] ∧
      r.tag = c.tag ∧ r.status = c.status ∧ r.flags = c.flags ∧ r.unit = c.unit ∧ r.cookie = c.cookie ∧
      (c.status ≠ 0 ∨ c.major ≠ 0x3F ∨ (c.fn ≠ 0 ∧ c.fn ≠ 2) → r.count = BitVec.ofNat 32 (min c.count 0xFFFFFFFF)) ∧
      (c.status = 0 → c.major = 0x3F → c.fn = 0 → c.opb.toNat / 4096 % 4 = 2 →
        r.count = BitVec.ofNat 32 (min (c.count + (allTlb s).length) 0xFFFFFFFF)) ∧
      t.cmd id = none ∧ t.grp = s.grp ∧ (c.major ≠ 0x3F ∨ c.fn ≠ 0 → t.mem = s.mem) ∧
      (c.major = 0x3F → c.fn = 0 → c.status = 0 → c.opb.toNat / 4096 % 4 = 2 → (∀ k, (t.core k).tlb = []) ∧ ∀ d, (t.die d).tlb = [])) ∧
  (∀ s id c, s.cmd id = some c → c.callouts = [] → leftPorts s c = false ∨ (∃ x ∈ c.after, stillUnderWay s x = true) ∨ recordFirst s c = false →
    (∃ m, s.teamOf c.uid = some m) → exec (.recordPlace id) s = .next s) ∧
  (∀ s id c m, s.cmd id = some c → s.teamOf c.uid = some m → 64 ≤ m.events.length → exec (.recordPlace id) s = .next s) ∧
  (∀ s id c, s.cmd id = some c → lostTeam s c = true → ∃ (t : State) (x : Command), exec (.commandStart id) s = .next t ∧ t.cmd id = some x ∧
    x.state = .finished ∧ x.status = 0xE ∧ x.count = 0 ∧ t.mem = s.mem) ∧
  (∀ s id c va, s.cmd id = some c → c.state = .waiting va →
    (c.retry = false → exec (.enginePageRetry id) s = .next s) ∧
    (c.retry = true → c.major = 0x3A → c.fn ≤ 2 →
      ∃ t, exec (.enginePageRetry id) s = .next t ∧ t.cmd id = some { c with state := .running, retry := false } ∧ t.mem = s.mem))

/-- R306, R309, R298 to R301: rays and builds. -/
def Sys2Proof.Stated.raysAndBuilds : Prop :=
  (∀ s id r c w ref n s1, s.rays.find? (fun x => x.id = id) = some r → s.cmd r.cmd = some c → c.state = .running → r.callout = none →
    hasPlace s r = true → budgetSpent s r = false → r.todo = [.node w ref] →
    (do readNode (travAgent c) (← readScene (travAgent c) w.scene.toNat) ref : SceneM Node) (unwritten s) = .ok (n, s1) →
    ∃ (t : State) (x : Ray), exec (.rayNodeRead id) s = .next t ∧ t.rays.find? (fun y => y.id = id) = some x ∧ x.visits = r.visits + 1) ∧
  (∀ s id r c h, s.rays.find? (fun x => x.id = id) = some r → s.cmd r.cmd = some c → c.state = .running → r.callout = none →
    hasPlace s r = true → budgetSpent s r = false → r.todo = [.offer h] → r.kind = 0 → r.kept = none → h.opaque_ = true → r.hit = none → h.t.le r.best = true →
    ∃ (t : State) (x : Ray), exec (.rayNodeRead id) s = .next t ∧ t.rays.find? (fun y => y.id = id) = some x ∧ x.hit = some h ∧ x.best = h.t ∧
      x.todo = [] ∧ t.mem = s.mem) ∧
  (∀ s id r c, s.rays.find? (fun x => x.id = id) = some r → s.cmd r.cmd = some c → c.state = .running → hasPlace s r = true → r.done = true →
    r.kind = 2 → r.occluded = true → ∃ (t : State) (x : Command), exec (.rayEnd id) s = .next t ∧ (∀ y ∈ t.rays, y.id ≠ id) ∧
      t.cmd r.cmd = some x ∧ x.outstanding = c.outstanding - 1 ∧ (x.outstanding = 0 → x.state = .finished) ∧ t.mem = s.mem) ∧
  (∀ s id c entry x st n s1, s.cmd id = some c → c.state = .running → c.major = 0x3B → c.fn = 2 → c.todo.find? (fun y => y % 8 = entry) = some x →
    c.todo.find? (fun y => y / 64 / 2 ^ 29 = x / 64 / 2 ^ 29) = some x →
    emitSub (agentOf c 5) (dieOf c.core) (emitDesc c.desc) (unwritten s) = .ok ((st, n), s1) → s1.commands = s.commands →
    ∃ (t : State) (y : Command), exec (.rootRewrite id entry) s = .next t ∧ t.cmd id = some y ∧ y.state = .finished ∧ y.status = BitVec.ofNat 16 st ∧
      y.count = n ∧ t.mem = s1.mem ∧ (emitDesc c.desc).fence ∉ fencesOf t c.asid) ∧
  (∀ s id c, s.cmd id = some c → c.state = .running → c.major = 0x3B → c.fn = 7 → rayCount s c.opa c.stamp ≠ 0 →
    exec (.compactReclaim id) s = .next s) ∧
  (∀ s id c n s1, s.cmd id = some c → c.state = .running → c.major = 0x3B → c.fn = 7 → rayCount s c.opa c.stamp = 0 → c.todo = [0] → c.count = 0 →
    reclaimed (agentOf c 5) c.opa.toNat c.slot (unwritten s) = .ok (n, s1) → s1.commands = s.commands →
    ∃ (t : State) (y : Command), exec (.compactReclaim id) s = .next t ∧ t.cmd id = some y ∧ y.state = .finished ∧ y.status = 0 ∧ y.count = n ∧
      t.mem = s1.mem)

/-- The engines: matrix words, commands, rays and builds. -/
def Obligations.EngineOperations : Prop := matrixEngine ∧ engineCommands ∧ raysAndBuilds

/-! ### Pre-emption -/

namespace Sys2Proof.Stated

/-- A forced reset of a context (R421): no team, command or saved team of it is left, its unfinished launches have ended, the cause stands in its
register and the count has risen. -/
def resetOf (s t : State) (asid : BitVec 12) (cause : Byte) : Prop :=
  (∀ x ∈ t.allTeams, x.asid ≠ asid) ∧ (∀ c ∈ t.commands, c.asid ≠ asid) ∧ (∀ v ∈ t.saved, v.asid ≠ asid) ∧
    (∀ l ∈ t.launches, l.asid = asid → l.finished = true) ∧ (t.ctl asid).cause = cause ∧
    (t.ctl asid).resets = (if (s.ctl asid).resets = 0xFFFFFF then 0xFFFFFF else (s.ctl asid).resets + 1) ∧ (t.ctl asid).drain = (s.ctl asid).drain

end Sys2Proof.Stated

/-- R403, R418 to R421, R423 and R433: page waits, saves and restores of teams, drains and forced resets. -/
def Obligations.PreemptionOperations : Prop :=
  (∀ s uid m va, uid ≠ 0 → s.teamOf uid = some m → m.pageWait = some va →
    (m.pageRetry = false → exec (.pageRestoreWalk uid) s = .next s) ∧
    (m.pageRetry = true → ∃ t, exec (.pageRestoreWalk uid) s = .next t ∧ t.mem = s.mem ∧ t.grp = s.grp ∧
      t.teamOf uid = some (if walkPermits s m.asid m.priv va m.pageKind then { m with pageWait := none, pageRetry := false }
                           else { m with pageRetry := false }))) ∧
  (∀ s core slot m, s.allTeams.find? (fun t => t.core = core && t.tslot = slot && t.saving.isSome) = some m → (∀ id, m.saving ≠ some (.command id)) → membersOf s m = [m] →
    memberQuiet s m = false → exec (.teamSave core slot) s = .next s) ∧
  (∀ s core slot m va s0 m0 s1 pieces v,
    s.allTeams.find? (fun t => t.core = core && t.tslot = slot && t.saving.isSome) = some m → m.saving = some (.page va) → m.uid ≠ 0 →
    membersOf s m = [m] → memberQuiet s m = true → (m.saveWait.isSome = true → m.pageRetry = true) → settleGroups s m.uid = s0 →
    s0.teamOf m.uid = some m0 → membersOf s0 m = [m0] → membersOf s0 m0 = [m0] → memberQuiet s0 m0 = true →
    memberSave s0 m0 ((ctxOf s0 m0.asid).saveBase + BitVec.ofNat 64 (m0.core * 17301504)) (some va) = (s1, pieces, v) →
    ∃ t, exec (.teamSave core slot) s = .next t ∧ v.uid = m.uid ∧ v.saveId = s0.saveCount + 1 ∧ v.va = some va ∧ v.tslot = m0.tslot ∧
      match dmaWriteAll (saveAgent s0 m0 none) pieces s1 0 with
      | (s2, n, none) => t.saved = s2.saved ++ [v] ∧ n = 224 + 10 * v.groups.length ∧ t.mem = s2.mem ∧ ∀ u ∈ t.teams, u.uid ≠ m.uid
      | (s2, _, some _) => t.saved = s2.saved) ∧
  (∀ s uid v, s.saved.find? (fun x => x.uid = uid) = some v → v.restoring = some none → (s.ctl v.asid).drain = false →
    savedMembers s v = [v] → ∃ t, exec (.teamRestore uid 0x3FF) s = .next t ∧
      match restoreAll s (saveAgent s v.image none) v v.area 0x3FF with
      | .placed _ n => (∀ x ∈ t.saved, x.uid ≠ uid) ∧ (∃ u ∈ t.teams, u.uid = v.image.uid) ∧ n = 224 + 10 * v.groups.length
      | .noRoom s1 => t = s1
      | .bad _ _ => (t.ctl v.asid).cause = 5
      | .stop _ (.pend _ _) _ => t.clock = s.clock
      | .stop s1 (.home va d) _ => t = homeWait s1 (saveAgent s v.image none) va d
      | .stop _ _ _ => (t.ctl v.asid).cause = 5) ∧
  (∀ s uid v target, s.saved.find? (fun x => x.uid = uid) = some v → v.restoring = none → exec (.teamRestore uid target) s = .next s) ∧
  (∀ s asid on, ∃ t, exec (.pctlDrainWrite asid on) s = .next t ∧ t.mem = s.mem ∧ t.grp = s.grp ∧ t.commands = s.commands ∧
    t.ctl asid = { s.ctl asid with drain := on, drainAt := if on && !(s.ctl asid).drain then s.clock else (s.ctl asid).drainAt }) ∧
  (∀ s asid, ∃ t, exec (.pctlReset asid) s = .next t ∧ resetOf s t asid 1) ∧
  (∀ s asid, (s.ctl asid).drain = true → (s.ctl asid).dlEn = true → pstate s asid = 1 → ∃ t, exec (.drainDeadline asid) s = .next t ∧
    resetOf s t asid 2 ∧ t.clock = max s.clock ((s.ctl asid).drainAt + 2 ^ inRange (s.ctl asid).dlExp.toNat 16 30)) ∧
  (∀ s asid, (s.ctl asid).drain = false ∨ (s.ctl asid).dlEn = false → exec (.drainDeadline asid) s = .next s)

/-! ### Groups of statements -/

/-- R68 to R70: rounding keeps what a format holds, and invalid operations give the default NaN. -/
def Obligations.FloatCorners : Prop := roundingKeepsRepresentable ∧ invalidGivesDefaultNan

/-- R163 to R165: addition, subtraction, multiplication and their combined forms of the lanes. -/
def Obligations.LaneIntegerArithmetic : Prop := laneAddSubtract ∧ laneMultiply

/-- The other integer words of the lanes: minima and logic, shifts, bit fields, compares. -/
def Obligations.LaneIntegerBits : Prop := laneMinMaxLogic ∧ laneShift ∧ laneBitFields ∧ laneIntegerCompare

/-- The remaining float words of the lanes: minima, conversions, functions, compares. -/
def Obligations.LaneFloatForms : Prop := laneFloatOther ∧ laneFloatCompare

/-- Moves of the lanes, exchanges between lanes, and reads of names. -/
def Obligations.LaneMoveForms : Prop := laneMoves ∧ laneCross ∧ laneNames

/-- The queues between the lanes and the uniform unit. -/
def Obligations.LaneQueues : Prop := laneReturnQueue ∧ laneForwardQueue

/-- Arithmetic, logic, compares, immediates and selects of the uniform unit. -/
def Obligations.UniformIntegerWords : Prop := uniformArithmetic ∧ uniformImmediateSelect

/-- Team barriers: arrivals, waits, enrolment. -/
def Obligations.TeamBarriers : Prop := teamBarrierArrive ∧ teamBarrierHold

/-- Scratchpad accesses of the lanes and the offsets that fault. -/
def Obligations.Scratchpad : Prop := laneScratchpad ∧ scratchpadOffsets

/-- `rdsys` and `rdcnt`: what each number reads. -/
def Obligations.SystemRegisterReads : Prop := systemRegisterRead ∧ counters

/-- Fences and publications of the uniform unit. -/
def Obligations.OrderingWords : Prop := fences ∧ publication

/-- Joint words of the matrix groups: delivery, acceptance, waits. -/
def Obligations.JointWords : Prop := jointDelivery ∧ jointAcceptance

/-- Calls, returns and exits of lanes. -/
def Obligations.LaneControlFlow : Prop := laneCalls ∧ laneExit

/-- Register and address faults of lane words. -/
def Obligations.LaneWordFaults : Prop := laneRegisterFaults ∧ laneAddressFaults

/-- Faults without a handler, double faults, faults that wait. -/
def Obligations.FaultAlternatives : Prop := faultWithoutHandler ∧ faultWaits
end

