-- ==== Sys2Proof/Laws/Memory.lean ====
section
/-!
SUPPORT. Sparse maps and memory: a read after a write, and that every write keeps the canonical form.
-/
namespace Sys2Proof.Machine

theorem look_insertKey {β : Type} (m : Sparse β) (k : Nat) (v : β) (i : Nat) (d : β) :
    look (insertKey m k v) i d = if k = i then v else look m i d := by
  induction m with
  | nil => simp [insertKey, look]
  | cons e r ih =>
    obtain ⟨j, w⟩ := e
    by_cases h1 : k < j
    · simp [insertKey, look, h1]
    · by_cases h2 : k = j
      · subst h2; simp only [insertKey, look, h1, if_true, if_false]; split <;> simp_all
      · simp only [insertKey, look, h1, h2, if_false, ih]; split <;> simp_all

theorem look_filter_ne {β : Type} (m : Sparse β) (k i : Nat) (d : β) :
    look (m.filter fun e => decide (e.1 ≠ k)) i d = if k = i then d else look m i d := by
  induction m with
  | nil => simp [look]
  | cons e r ih =>
    obtain ⟨j, w⟩ := e
    by_cases h : j = k
    · subst h; simp only [List.filter, ne_eq, not_true_eq_false, decide_false, ih, look]; split <;> simp_all
    · simp only [List.filter, ne_eq, h, not_false_eq_true, decide_true, look, ih]; split <;> split <;> simp_all

/-- A read after a write. -/
theorem look_put {β : Type} [DecidableEq β] (m : Sparse β) (k : Nat) (v : β) (i : Nat) (d : β) :
    look (put m k v d) i d = if k = i then v else look m i d := by
  unfold put; split
  · rename_i h; rw [look_filter_ne, h]
  · exact look_insertKey m k v i d

@[simp] theorem look_put_self {β : Type} [DecidableEq β] (m : Sparse β) (k : Nat) (v d : β) : look (put m k v d) k d = v := by
  simp [look_put]

theorem look_put_ne {β : Type} [DecidableEq β] {m : Sparse β} {k i : Nat} {v d : β} (h : k ≠ i) :
    look (put m k v d) i d = look m i d := by simp [look_put, h]

theorem look_change {β : Type} [DecidableEq β] (m : Sparse β) (k : Nat) (d : β) (f : β → β) (i : Nat) :
    look (change m k d f) i d = if k = i then f (look m k d) else look m i d := look_put ..

theorem all_insertKey {β : Type} (m : Sparse β) (k : Nat) (v : β) (p : Nat × β → Bool) (hm : m.all p) (hv : p (k, v)) :
    (insertKey m k v).all p := by
  induction m with
  | nil => simp [insertKey, hv]
  | cons e r ih =>
    obtain ⟨j, w⟩ := e
    simp only [List.all_cons, Bool.and_eq_true] at hm
    unfold insertKey; split
    · simp [hv, hm.1, hm.2]
    · split
      · simp [hv, hm.2]
      · simp [hm.1, ih hm.2]

theorem wf_insertKey {β : Type} [DecidableEq β] (m : Sparse β) (k : Nat) (v d : β) (hm : Sparse.wf m d) (hv : v ≠ d) :
    Sparse.wf (insertKey m k v) d := by
  induction m with
  | nil => simp [insertKey, Sparse.wf, hv]
  | cons e r ih =>
    obtain ⟨j, w⟩ := e
    simp only [Sparse.wf, Bool.and_eq_true, decide_eq_true_eq] at hm
    obtain ⟨⟨hw, hr⟩, hwf⟩ := hm
    unfold insertKey; split
    · rename_i h
      simp only [Sparse.wf, Bool.and_eq_true, decide_eq_true_eq]
      refine ⟨⟨hv, ?_⟩, ⟨⟨hw, hr⟩, hwf⟩⟩
      simp only [List.all_cons, Bool.and_eq_true, decide_eq_true_eq, List.all_eq_true] at hr ⊢
      exact ⟨h, fun x hx => Nat.lt_trans h (hr x hx)⟩
    · split
      · rename_i h1 h2; subst h2
        simp only [Sparse.wf, Bool.and_eq_true, decide_eq_true_eq]; exact ⟨⟨hv, hr⟩, hwf⟩
      · simp only [Sparse.wf, Bool.and_eq_true, decide_eq_true_eq]
        refine ⟨⟨hw, all_insertKey r k v _ hr ?_⟩, ih hwf⟩
        simp only [decide_eq_true_eq]; omega

theorem wf_filter {β : Type} [DecidableEq β] (m : Sparse β) (d : β) (p : Nat × β → Bool) (hm : Sparse.wf m d) :
    Sparse.wf (m.filter p) d := by
  induction m with
  | nil => simp [Sparse.wf]
  | cons e r ih =>
    obtain ⟨j, w⟩ := e
    simp only [Sparse.wf, Bool.and_eq_true, decide_eq_true_eq] at hm
    obtain ⟨⟨hw, hr⟩, hwf⟩ := hm
    simp only [List.filter]; split
    · simp only [Sparse.wf, Bool.and_eq_true, decide_eq_true_eq]
      refine ⟨⟨hw, ?_⟩, ih hwf⟩
      simp only [List.all_eq_true, decide_eq_true_eq, List.mem_filter] at hr ⊢
      exact fun x hx => hr x hx.1
    · exact ih hwf

/-- A write keeps the canonical form. -/
theorem wf_put {β : Type} [DecidableEq β] (m : Sparse β) (k : Nat) (v d : β) (hm : Sparse.wf m d) : Sparse.wf (put m k v d) d := by
  unfold put; split
  · exact wf_filter m d _ hm
  · rename_i h; exact wf_insertKey m k v d hm h

theorem wf_change {β : Type} [DecidableEq β] (m : Sparse β) (k : Nat) (d : β) (f : β → β) (hm : Sparse.wf m d) :
    Sparse.wf (change m k d f) d := wf_put _ _ _ _ hm

/-- A byte after a store of one byte. -/
theorem memByte_memPut (m : Memory) (a : Nat) (b : Byte) (i : Nat) : memByte (memPut m a b) i = if a = i then b else memByte m i :=
  look_put ..

theorem memPut_wf (m : Memory) (a : Nat) (b : Byte) (hm : Memory.wf m) : Memory.wf (memPut m a b) := wf_put _ _ _ _ hm

/-- A store keeps the canonical form of memory. -/
theorem memWrite_wf (n : Nat) : ∀ (m : Memory) (a v : Nat), Memory.wf m → Memory.wf (memWrite m a n v) := by
  induction n with
  | zero => intro m a v h; exact h
  | succ n ih => intro m a v h; exact ih _ _ _ (memPut_wf m a _ h)

/-- A byte outside the bytes stored. -/
theorem memByte_memWrite_outside (n : Nat) : ∀ (m : Memory) (a v i : Nat), i < a ∨ a + n ≤ i → memByte (memWrite m a n v) i = memByte m i := by
  induction n with
  | zero => intro m a v i _; rfl
  | succ n ih =>
    intro m a v i h
    rw [memWrite, ih _ _ _ _ (by omega), memByte_memPut, if_neg (by omega)]

/-- A byte of the bytes stored. -/
theorem memByte_memWrite_inside (n : Nat) : ∀ (m : Memory) (a v k : Nat), k < n →
    memByte (memWrite m a n v) (a + k) = BitVec.ofNat 8 (v / 256 ^ k) := by
  induction n with
  | zero => intro m a v k h; omega
  | succ n ih =>
    intro m a v k h
    rw [memWrite]
    match k with
    | 0 => rw [memByte_memWrite_outside _ _ _ _ _ (by omega), memByte_memPut]; simp
    | k + 1 =>
      have := ih (memPut m a (BitVec.ofNat 8 v)) (a + 1) (v / 256) k (by omega)
      rw [show a + (k + 1) = a + 1 + k by omega, this, Nat.div_div_eq_div_mul, Nat.pow_succ, Nat.mul_comm]

/-- What was stored is what is read. -/
theorem memRead_memWrite (n : Nat) : ∀ (m : Memory) (a v : Nat), memRead (memWrite m a n v) a n = v % 256 ^ n := by
  induction n with
  | zero => intro m a v; simp [memRead, Nat.mod_one]
  | succ n ih =>
    intro m a v
    have h0 : memByte (memWrite m a (n + 1) v) a = BitVec.ofNat 8 v := by
      have := memByte_memWrite_inside (n + 1) m a v 0 (by omega); simpa using this
    rw [memRead, h0, memWrite, ih, Nat.pow_succ, Nat.mul_comm (256 ^ n), Nat.mod_mul]; simp

end Sys2Proof.Machine
end

