-- ==== Sys2Proof/Laws/State.lean ====
section
/-!
SUPPORT. One lemma per field and update: what an update leaves as it is, and what it writes.
-/
namespace Sys2Proof.Machine

@[simp] theorem State.modGrp_clock (s : State) (f : Group → Group) : (s.modGrp f).clock = s.clock := rfl
@[simp] theorem State.modGrp_stage (s : State) (f : Group → Group) : (s.modGrp f).stage = s.stage := rfl
@[simp] theorem State.modGrp_bootFail (s : State) (f : Group → Group) : (s.modGrp f).bootFail = s.bootFail := rfl
@[simp] theorem State.modGrp_fwver (s : State) (f : Group → Group) : (s.modGrp f).fwver = s.fwver := rfl
@[simp] theorem State.modGrp_boots (s : State) (f : Group → Group) : (s.modGrp f).boots = s.boots := rfl
@[simp] theorem State.modGrp_repairs (s : State) (f : Group → Group) : (s.modGrp f).repairs = s.repairs := rfl
@[simp] theorem State.modGrp_mem (s : State) (f : Group → Group) : (s.modGrp f).mem = s.mem := rfl
@[simp] theorem State.modGrp_hostMem (s : State) (f : Group → Group) : (s.modGrp f).hostMem = s.hostMem := rfl
@[simp] theorem State.modGrp_hostPending (s : State) (f : Group → Group) : (s.modGrp f).hostPending = s.hostPending := rfl
@[simp] theorem State.modGrp_past (s : State) (f : Group → Group) : (s.modGrp f).past = s.past := rfl
@[simp] theorem State.modGrp_codeLog (s : State) (f : Group → Group) : (s.modGrp f).codeLog = s.codeLog := rfl
@[simp] theorem State.modGrp_peers (s : State) (f : Group → Group) : (s.modGrp f).peers = s.peers := rfl
@[simp] theorem State.modGrp_hub (s : State) (f : Group → Group) : (s.modGrp f).hub = s.hub := rfl
@[simp] theorem State.modGrp_ctxRes (s : State) (f : Group → Group) : (s.modGrp f).ctxRes = s.ctxRes := rfl
@[simp] theorem State.modGrp_cur (s : State) (f : Group → Group) : (s.modGrp f).cur = s.cur := rfl
@[simp] theorem State.modGrp_team (s : State) (f : Group → Group) : (s.modGrp f).team = s.team := rfl
@[simp] theorem State.modGrp_teams (s : State) (f : Group → Group) : (s.modGrp f).teams = s.teams := rfl
@[simp] theorem State.modGrp_saved (s : State) (f : Group → Group) : (s.modGrp f).saved = s.saved := rfl
@[simp] theorem State.modGrp_clusters (s : State) (f : Group → Group) : (s.modGrp f).clusters = s.clusters := rfl
@[simp] theorem State.modGrp_launches (s : State) (f : Group → Group) : (s.modGrp f).launches = s.launches := rfl
@[simp] theorem State.modGrp_nextLaunchId (s : State) (f : Group → Group) : (s.modGrp f).nextLaunchId = s.nextLaunchId := rfl
@[simp] theorem State.modGrp_launchTurn (s : State) (f : Group → Group) : (s.modGrp f).launchTurn = s.launchTurn := rfl
@[simp] theorem State.modGrp_nextSeqNo (s : State) (f : Group → Group) : (s.modGrp f).nextSeqNo = s.nextSeqNo := rfl
@[simp] theorem State.modGrp_nextUid (s : State) (f : Group → Group) : (s.modGrp f).nextUid = s.nextUid := rfl
@[simp] theorem State.modGrp_saveCount (s : State) (f : Group → Group) : (s.modGrp f).saveCount = s.saveCount := rfl
@[simp] theorem State.modGrp_adm (s : State) (f : Group → Group) : (s.modGrp f).adm = s.adm := rfl
@[simp] theorem State.modGrp_cores (s : State) (f : Group → Group) : (s.modGrp f).cores = s.cores := rfl
@[simp] theorem State.modGrp_predictors (s : State) (f : Group → Group) : (s.modGrp f).predictors = s.predictors := rfl
@[simp] theorem State.modGrp_dies (s : State) (f : Group → Group) : (s.modGrp f).dies = s.dies := rfl
@[simp] theorem State.modGrp_injected (s : State) (f : Group → Group) : (s.modGrp f).injected = s.injected := rfl
@[simp] theorem State.modGrp_granted (s : State) (f : Group → Group) : (s.modGrp f).granted = s.granted := rfl
@[simp] theorem State.modGrp_recalls (s : State) (f : Group → Group) : (s.modGrp f).recalls = s.recalls := rfl
@[simp] theorem State.modGrp_blocks (s : State) (f : Group → Group) : (s.modGrp f).blocks = s.blocks := rfl
@[simp] theorem State.modGrp_served (s : State) (f : Group → Group) : (s.modGrp f).served = s.served := rfl
@[simp] theorem State.modGrp_energyAt (s : State) (f : Group → Group) : (s.modGrp f).energyAt = s.energyAt := rfl
@[simp] theorem State.modGrp_commands (s : State) (f : Group → Group) : (s.modGrp f).commands = s.commands := rfl
@[simp] theorem State.modGrp_nextCmd (s : State) (f : Group → Group) : (s.modGrp f).nextCmd = s.nextCmd := rfl
@[simp] theorem State.modGrp_rays (s : State) (f : Group → Group) : (s.modGrp f).rays = s.rays := rfl
@[simp] theorem State.modGrp_nextRay (s : State) (f : Group → Group) : (s.modGrp f).nextRay = s.nextRay := rfl
@[simp] theorem State.modGrp_rayCounts (s : State) (f : Group → Group) : (s.modGrp f).rayCounts = s.rayCounts := rfl
@[simp] theorem State.modGrp_ports (s : State) (f : Group → Group) : (s.modGrp f).ports = s.ports := rfl
@[simp] theorem State.modGrp_links (s : State) (f : Group → Group) : (s.modGrp f).links = s.links := rfl
@[simp] theorem State.modGrp_inbound (s : State) (f : Group → Group) : (s.modGrp f).inbound = s.inbound := rfl
@[simp] theorem State.modGrp_slalia (s : State) (f : Group → Group) : (s.modGrp f).slalia = s.slalia := rfl
@[simp] theorem State.modGrp_trace (s : State) (f : Group → Group) : (s.modGrp f).trace = s.trace := rfl
@[simp] theorem State.modGrp_busy (s : State) (f : Group → Group) : (s.modGrp f).busy = s.busy := rfl
@[simp] theorem State.modGrp_stallCnt (s : State) (f : Group → Group) : (s.modGrp f).stallCnt = s.stallCnt := rfl
@[simp] theorem State.modGrp_latched (s : State) (f : Group → Group) : (s.modGrp f).latched = s.latched := rfl
@[simp] theorem State.modGrp_busyNext (s : State) (f : Group → Group) : (s.modGrp f).busyNext = s.busyNext := rfl
@[simp] theorem State.modGrp_stallNext (s : State) (f : Group → Group) : (s.modGrp f).stallNext = s.stallNext := rfl
@[simp] theorem State.modGrp_filterAt (s : State) (f : Group → Group) : (s.modGrp f).filterAt = s.filterAt := rfl
@[simp] theorem State.modGrp_points (s : State) (f : Group → Group) : (s.modGrp f).points = s.points := rfl
@[simp] theorem State.modGrp_levels (s : State) (f : Group → Group) : (s.modGrp f).levels = s.levels := rfl
@[simp] theorem State.modGrp_coolSince (s : State) (f : Group → Group) : (s.modGrp f).coolSince = s.coolSince := rfl
@[simp] theorem State.modGrp_coolantBad (s : State) (f : Group → Group) : (s.modGrp f).coolantBad = s.coolantBad := rfl
@[simp] theorem State.modGrp_sparing (s : State) (f : Group → Group) : (s.modGrp f).sparing = s.sparing := rfl
@[simp] theorem State.modGrp_damage (s : State) (f : Group → Group) : (s.modGrp f).damage = s.damage := rfl
@[simp] theorem State.modGrp_levelLogged (s : State) (f : Group → Group) : (s.modGrp f).levelLogged = s.levelLogged := rfl
@[simp] theorem State.modGrp_hostReplies (s : State) (f : Group → Group) : (s.modGrp f).hostReplies = s.hostReplies := rfl
@[simp] theorem State.modGrp_peerReplies (s : State) (f : Group → Group) : (s.modGrp f).peerReplies = s.peerReplies := rfl
@[simp] theorem State.modGrp_outside (s : State) (f : Group → Group) : (s.modGrp f).outside = s.outside := rfl
@[simp] theorem State.modGrp_homeWaits (s : State) (f : Group → Group) : (s.modGrp f).homeWaits = s.homeWaits := rfl
@[simp] theorem State.modGrp_kept (s : State) (f : Group → Group) : (s.modGrp f).kept = s.kept := rfl
@[simp] theorem State.modGrp_engWts (s : State) (f : Group → Group) : (s.modGrp f).engWts = s.engWts := rfl
@[simp] theorem State.modGrp_sceneWts (s : State) (f : Group → Group) : (s.modGrp f).sceneWts = s.sceneWts := rfl
@[simp] theorem State.modGrp_free (s : State) (f : Group → Group) : (s.modGrp f).free = s.free := rfl
@[simp] theorem State.modGrp_agenda (s : State) (f : Group → Group) : (s.modGrp f).agenda = s.agenda := rfl

@[simp] theorem State.modCore_clock (s : State) (c : Nat) (f : Core → Core) : (s.modCore c f).clock = s.clock := rfl
@[simp] theorem State.modCore_stage (s : State) (c : Nat) (f : Core → Core) : (s.modCore c f).stage = s.stage := rfl
@[simp] theorem State.modCore_bootFail (s : State) (c : Nat) (f : Core → Core) : (s.modCore c f).bootFail = s.bootFail := rfl
@[simp] theorem State.modCore_fwver (s : State) (c : Nat) (f : Core → Core) : (s.modCore c f).fwver = s.fwver := rfl
@[simp] theorem State.modCore_boots (s : State) (c : Nat) (f : Core → Core) : (s.modCore c f).boots = s.boots := rfl
@[simp] theorem State.modCore_repairs (s : State) (c : Nat) (f : Core → Core) : (s.modCore c f).repairs = s.repairs := rfl
@[simp] theorem State.modCore_mem (s : State) (c : Nat) (f : Core → Core) : (s.modCore c f).mem = s.mem := rfl
@[simp] theorem State.modCore_hostMem (s : State) (c : Nat) (f : Core → Core) : (s.modCore c f).hostMem = s.hostMem := rfl
@[simp] theorem State.modCore_hostPending (s : State) (c : Nat) (f : Core → Core) : (s.modCore c f).hostPending = s.hostPending := rfl
@[simp] theorem State.modCore_past (s : State) (c : Nat) (f : Core → Core) : (s.modCore c f).past = s.past := rfl
@[simp] theorem State.modCore_codeLog (s : State) (c : Nat) (f : Core → Core) : (s.modCore c f).codeLog = s.codeLog := rfl
@[simp] theorem State.modCore_peers (s : State) (c : Nat) (f : Core → Core) : (s.modCore c f).peers = s.peers := rfl
@[simp] theorem State.modCore_hub (s : State) (c : Nat) (f : Core → Core) : (s.modCore c f).hub = s.hub := rfl
@[simp] theorem State.modCore_ctxRes (s : State) (c : Nat) (f : Core → Core) : (s.modCore c f).ctxRes = s.ctxRes := rfl
@[simp] theorem State.modCore_cur (s : State) (c : Nat) (f : Core → Core) : (s.modCore c f).cur = s.cur := rfl
@[simp] theorem State.modCore_grp (s : State) (c : Nat) (f : Core → Core) : (s.modCore c f).grp = s.grp := rfl
@[simp] theorem State.modCore_team (s : State) (c : Nat) (f : Core → Core) : (s.modCore c f).team = s.team := rfl
@[simp] theorem State.modCore_teams (s : State) (c : Nat) (f : Core → Core) : (s.modCore c f).teams = s.teams := rfl
@[simp] theorem State.modCore_saved (s : State) (c : Nat) (f : Core → Core) : (s.modCore c f).saved = s.saved := rfl
@[simp] theorem State.modCore_clusters (s : State) (c : Nat) (f : Core → Core) : (s.modCore c f).clusters = s.clusters := rfl
@[simp] theorem State.modCore_launches (s : State) (c : Nat) (f : Core → Core) : (s.modCore c f).launches = s.launches := rfl
@[simp] theorem State.modCore_nextLaunchId (s : State) (c : Nat) (f : Core → Core) : (s.modCore c f).nextLaunchId = s.nextLaunchId := rfl
@[simp] theorem State.modCore_launchTurn (s : State) (c : Nat) (f : Core → Core) : (s.modCore c f).launchTurn = s.launchTurn := rfl
@[simp] theorem State.modCore_nextSeqNo (s : State) (c : Nat) (f : Core → Core) : (s.modCore c f).nextSeqNo = s.nextSeqNo := rfl
@[simp] theorem State.modCore_nextUid (s : State) (c : Nat) (f : Core → Core) : (s.modCore c f).nextUid = s.nextUid := rfl
@[simp] theorem State.modCore_saveCount (s : State) (c : Nat) (f : Core → Core) : (s.modCore c f).saveCount = s.saveCount := rfl
@[simp] theorem State.modCore_adm (s : State) (c : Nat) (f : Core → Core) : (s.modCore c f).adm = s.adm := rfl
@[simp] theorem State.modCore_predictors (s : State) (c : Nat) (f : Core → Core) : (s.modCore c f).predictors = s.predictors := rfl
@[simp] theorem State.modCore_dies (s : State) (c : Nat) (f : Core → Core) : (s.modCore c f).dies = s.dies := rfl
@[simp] theorem State.modCore_injected (s : State) (c : Nat) (f : Core → Core) : (s.modCore c f).injected = s.injected := rfl
@[simp] theorem State.modCore_granted (s : State) (c : Nat) (f : Core → Core) : (s.modCore c f).granted = s.granted := rfl
@[simp] theorem State.modCore_recalls (s : State) (c : Nat) (f : Core → Core) : (s.modCore c f).recalls = s.recalls := rfl
@[simp] theorem State.modCore_blocks (s : State) (c : Nat) (f : Core → Core) : (s.modCore c f).blocks = s.blocks := rfl
@[simp] theorem State.modCore_served (s : State) (c : Nat) (f : Core → Core) : (s.modCore c f).served = s.served := rfl
@[simp] theorem State.modCore_energyAt (s : State) (c : Nat) (f : Core → Core) : (s.modCore c f).energyAt = s.energyAt := rfl
@[simp] theorem State.modCore_commands (s : State) (c : Nat) (f : Core → Core) : (s.modCore c f).commands = s.commands := rfl
@[simp] theorem State.modCore_nextCmd (s : State) (c : Nat) (f : Core → Core) : (s.modCore c f).nextCmd = s.nextCmd := rfl
@[simp] theorem State.modCore_rays (s : State) (c : Nat) (f : Core → Core) : (s.modCore c f).rays = s.rays := rfl
@[simp] theorem State.modCore_nextRay (s : State) (c : Nat) (f : Core → Core) : (s.modCore c f).nextRay = s.nextRay := rfl
@[simp] theorem State.modCore_rayCounts (s : State) (c : Nat) (f : Core → Core) : (s.modCore c f).rayCounts = s.rayCounts := rfl
@[simp] theorem State.modCore_ports (s : State) (c : Nat) (f : Core → Core) : (s.modCore c f).ports = s.ports := rfl
@[simp] theorem State.modCore_links (s : State) (c : Nat) (f : Core → Core) : (s.modCore c f).links = s.links := rfl
@[simp] theorem State.modCore_inbound (s : State) (c : Nat) (f : Core → Core) : (s.modCore c f).inbound = s.inbound := rfl
@[simp] theorem State.modCore_slalia (s : State) (c : Nat) (f : Core → Core) : (s.modCore c f).slalia = s.slalia := rfl
@[simp] theorem State.modCore_trace (s : State) (c : Nat) (f : Core → Core) : (s.modCore c f).trace = s.trace := rfl
@[simp] theorem State.modCore_busy (s : State) (c : Nat) (f : Core → Core) : (s.modCore c f).busy = s.busy := rfl
@[simp] theorem State.modCore_stallCnt (s : State) (c : Nat) (f : Core → Core) : (s.modCore c f).stallCnt = s.stallCnt := rfl
@[simp] theorem State.modCore_latched (s : State) (c : Nat) (f : Core → Core) : (s.modCore c f).latched = s.latched := rfl
@[simp] theorem State.modCore_busyNext (s : State) (c : Nat) (f : Core → Core) : (s.modCore c f).busyNext = s.busyNext := rfl
@[simp] theorem State.modCore_stallNext (s : State) (c : Nat) (f : Core → Core) : (s.modCore c f).stallNext = s.stallNext := rfl
@[simp] theorem State.modCore_filterAt (s : State) (c : Nat) (f : Core → Core) : (s.modCore c f).filterAt = s.filterAt := rfl
@[simp] theorem State.modCore_points (s : State) (c : Nat) (f : Core → Core) : (s.modCore c f).points = s.points := rfl
@[simp] theorem State.modCore_levels (s : State) (c : Nat) (f : Core → Core) : (s.modCore c f).levels = s.levels := rfl
@[simp] theorem State.modCore_coolSince (s : State) (c : Nat) (f : Core → Core) : (s.modCore c f).coolSince = s.coolSince := rfl
@[simp] theorem State.modCore_coolantBad (s : State) (c : Nat) (f : Core → Core) : (s.modCore c f).coolantBad = s.coolantBad := rfl
@[simp] theorem State.modCore_sparing (s : State) (c : Nat) (f : Core → Core) : (s.modCore c f).sparing = s.sparing := rfl
@[simp] theorem State.modCore_damage (s : State) (c : Nat) (f : Core → Core) : (s.modCore c f).damage = s.damage := rfl
@[simp] theorem State.modCore_levelLogged (s : State) (c : Nat) (f : Core → Core) : (s.modCore c f).levelLogged = s.levelLogged := rfl
@[simp] theorem State.modCore_hostReplies (s : State) (c : Nat) (f : Core → Core) : (s.modCore c f).hostReplies = s.hostReplies := rfl
@[simp] theorem State.modCore_peerReplies (s : State) (c : Nat) (f : Core → Core) : (s.modCore c f).peerReplies = s.peerReplies := rfl
@[simp] theorem State.modCore_outside (s : State) (c : Nat) (f : Core → Core) : (s.modCore c f).outside = s.outside := rfl
@[simp] theorem State.modCore_homeWaits (s : State) (c : Nat) (f : Core → Core) : (s.modCore c f).homeWaits = s.homeWaits := rfl
@[simp] theorem State.modCore_kept (s : State) (c : Nat) (f : Core → Core) : (s.modCore c f).kept = s.kept := rfl
@[simp] theorem State.modCore_engWts (s : State) (c : Nat) (f : Core → Core) : (s.modCore c f).engWts = s.engWts := rfl
@[simp] theorem State.modCore_sceneWts (s : State) (c : Nat) (f : Core → Core) : (s.modCore c f).sceneWts = s.sceneWts := rfl
@[simp] theorem State.modCore_free (s : State) (c : Nat) (f : Core → Core) : (s.modCore c f).free = s.free := rfl
@[simp] theorem State.modCore_agenda (s : State) (c : Nat) (f : Core → Core) : (s.modCore c f).agenda = s.agenda := rfl

@[simp] theorem State.modDie_clock (s : State) (d : Nat) (f : Die → Die) : (s.modDie d f).clock = s.clock := rfl
@[simp] theorem State.modDie_stage (s : State) (d : Nat) (f : Die → Die) : (s.modDie d f).stage = s.stage := rfl
@[simp] theorem State.modDie_bootFail (s : State) (d : Nat) (f : Die → Die) : (s.modDie d f).bootFail = s.bootFail := rfl
@[simp] theorem State.modDie_fwver (s : State) (d : Nat) (f : Die → Die) : (s.modDie d f).fwver = s.fwver := rfl
@[simp] theorem State.modDie_boots (s : State) (d : Nat) (f : Die → Die) : (s.modDie d f).boots = s.boots := rfl
@[simp] theorem State.modDie_repairs (s : State) (d : Nat) (f : Die → Die) : (s.modDie d f).repairs = s.repairs := rfl
@[simp] theorem State.modDie_mem (s : State) (d : Nat) (f : Die → Die) : (s.modDie d f).mem = s.mem := rfl
@[simp] theorem State.modDie_hostMem (s : State) (d : Nat) (f : Die → Die) : (s.modDie d f).hostMem = s.hostMem := rfl
@[simp] theorem State.modDie_hostPending (s : State) (d : Nat) (f : Die → Die) : (s.modDie d f).hostPending = s.hostPending := rfl
@[simp] theorem State.modDie_past (s : State) (d : Nat) (f : Die → Die) : (s.modDie d f).past = s.past := rfl
@[simp] theorem State.modDie_codeLog (s : State) (d : Nat) (f : Die → Die) : (s.modDie d f).codeLog = s.codeLog := rfl
@[simp] theorem State.modDie_peers (s : State) (d : Nat) (f : Die → Die) : (s.modDie d f).peers = s.peers := rfl
@[simp] theorem State.modDie_hub (s : State) (d : Nat) (f : Die → Die) : (s.modDie d f).hub = s.hub := rfl
@[simp] theorem State.modDie_ctxRes (s : State) (d : Nat) (f : Die → Die) : (s.modDie d f).ctxRes = s.ctxRes := rfl
@[simp] theorem State.modDie_cur (s : State) (d : Nat) (f : Die → Die) : (s.modDie d f).cur = s.cur := rfl
@[simp] theorem State.modDie_grp (s : State) (d : Nat) (f : Die → Die) : (s.modDie d f).grp = s.grp := rfl
@[simp] theorem State.modDie_team (s : State) (d : Nat) (f : Die → Die) : (s.modDie d f).team = s.team := rfl
@[simp] theorem State.modDie_teams (s : State) (d : Nat) (f : Die → Die) : (s.modDie d f).teams = s.teams := rfl
@[simp] theorem State.modDie_saved (s : State) (d : Nat) (f : Die → Die) : (s.modDie d f).saved = s.saved := rfl
@[simp] theorem State.modDie_clusters (s : State) (d : Nat) (f : Die → Die) : (s.modDie d f).clusters = s.clusters := rfl
@[simp] theorem State.modDie_launches (s : State) (d : Nat) (f : Die → Die) : (s.modDie d f).launches = s.launches := rfl
@[simp] theorem State.modDie_nextLaunchId (s : State) (d : Nat) (f : Die → Die) : (s.modDie d f).nextLaunchId = s.nextLaunchId := rfl
@[simp] theorem State.modDie_launchTurn (s : State) (d : Nat) (f : Die → Die) : (s.modDie d f).launchTurn = s.launchTurn := rfl
@[simp] theorem State.modDie_nextSeqNo (s : State) (d : Nat) (f : Die → Die) : (s.modDie d f).nextSeqNo = s.nextSeqNo := rfl
@[simp] theorem State.modDie_nextUid (s : State) (d : Nat) (f : Die → Die) : (s.modDie d f).nextUid = s.nextUid := rfl
@[simp] theorem State.modDie_saveCount (s : State) (d : Nat) (f : Die → Die) : (s.modDie d f).saveCount = s.saveCount := rfl
@[simp] theorem State.modDie_adm (s : State) (d : Nat) (f : Die → Die) : (s.modDie d f).adm = s.adm := rfl
@[simp] theorem State.modDie_cores (s : State) (d : Nat) (f : Die → Die) : (s.modDie d f).cores = s.cores := rfl
@[simp] theorem State.modDie_predictors (s : State) (d : Nat) (f : Die → Die) : (s.modDie d f).predictors = s.predictors := rfl
@[simp] theorem State.modDie_injected (s : State) (d : Nat) (f : Die → Die) : (s.modDie d f).injected = s.injected := rfl
@[simp] theorem State.modDie_granted (s : State) (d : Nat) (f : Die → Die) : (s.modDie d f).granted = s.granted := rfl
@[simp] theorem State.modDie_recalls (s : State) (d : Nat) (f : Die → Die) : (s.modDie d f).recalls = s.recalls := rfl
@[simp] theorem State.modDie_blocks (s : State) (d : Nat) (f : Die → Die) : (s.modDie d f).blocks = s.blocks := rfl
@[simp] theorem State.modDie_served (s : State) (d : Nat) (f : Die → Die) : (s.modDie d f).served = s.served := rfl
@[simp] theorem State.modDie_energyAt (s : State) (d : Nat) (f : Die → Die) : (s.modDie d f).energyAt = s.energyAt := rfl
@[simp] theorem State.modDie_commands (s : State) (d : Nat) (f : Die → Die) : (s.modDie d f).commands = s.commands := rfl
@[simp] theorem State.modDie_nextCmd (s : State) (d : Nat) (f : Die → Die) : (s.modDie d f).nextCmd = s.nextCmd := rfl
@[simp] theorem State.modDie_rays (s : State) (d : Nat) (f : Die → Die) : (s.modDie d f).rays = s.rays := rfl
@[simp] theorem State.modDie_nextRay (s : State) (d : Nat) (f : Die → Die) : (s.modDie d f).nextRay = s.nextRay := rfl
@[simp] theorem State.modDie_rayCounts (s : State) (d : Nat) (f : Die → Die) : (s.modDie d f).rayCounts = s.rayCounts := rfl
@[simp] theorem State.modDie_ports (s : State) (d : Nat) (f : Die → Die) : (s.modDie d f).ports = s.ports := rfl
@[simp] theorem State.modDie_links (s : State) (d : Nat) (f : Die → Die) : (s.modDie d f).links = s.links := rfl
@[simp] theorem State.modDie_inbound (s : State) (d : Nat) (f : Die → Die) : (s.modDie d f).inbound = s.inbound := rfl
@[simp] theorem State.modDie_slalia (s : State) (d : Nat) (f : Die → Die) : (s.modDie d f).slalia = s.slalia := rfl
@[simp] theorem State.modDie_trace (s : State) (d : Nat) (f : Die → Die) : (s.modDie d f).trace = s.trace := rfl
@[simp] theorem State.modDie_busy (s : State) (d : Nat) (f : Die → Die) : (s.modDie d f).busy = s.busy := rfl
@[simp] theorem State.modDie_stallCnt (s : State) (d : Nat) (f : Die → Die) : (s.modDie d f).stallCnt = s.stallCnt := rfl
@[simp] theorem State.modDie_latched (s : State) (d : Nat) (f : Die → Die) : (s.modDie d f).latched = s.latched := rfl
@[simp] theorem State.modDie_busyNext (s : State) (d : Nat) (f : Die → Die) : (s.modDie d f).busyNext = s.busyNext := rfl
@[simp] theorem State.modDie_stallNext (s : State) (d : Nat) (f : Die → Die) : (s.modDie d f).stallNext = s.stallNext := rfl
@[simp] theorem State.modDie_filterAt (s : State) (d : Nat) (f : Die → Die) : (s.modDie d f).filterAt = s.filterAt := rfl
@[simp] theorem State.modDie_points (s : State) (d : Nat) (f : Die → Die) : (s.modDie d f).points = s.points := rfl
@[simp] theorem State.modDie_levels (s : State) (d : Nat) (f : Die → Die) : (s.modDie d f).levels = s.levels := rfl
@[simp] theorem State.modDie_coolSince (s : State) (d : Nat) (f : Die → Die) : (s.modDie d f).coolSince = s.coolSince := rfl
@[simp] theorem State.modDie_coolantBad (s : State) (d : Nat) (f : Die → Die) : (s.modDie d f).coolantBad = s.coolantBad := rfl
@[simp] theorem State.modDie_sparing (s : State) (d : Nat) (f : Die → Die) : (s.modDie d f).sparing = s.sparing := rfl
@[simp] theorem State.modDie_damage (s : State) (d : Nat) (f : Die → Die) : (s.modDie d f).damage = s.damage := rfl
@[simp] theorem State.modDie_levelLogged (s : State) (d : Nat) (f : Die → Die) : (s.modDie d f).levelLogged = s.levelLogged := rfl
@[simp] theorem State.modDie_hostReplies (s : State) (d : Nat) (f : Die → Die) : (s.modDie d f).hostReplies = s.hostReplies := rfl
@[simp] theorem State.modDie_peerReplies (s : State) (d : Nat) (f : Die → Die) : (s.modDie d f).peerReplies = s.peerReplies := rfl
@[simp] theorem State.modDie_outside (s : State) (d : Nat) (f : Die → Die) : (s.modDie d f).outside = s.outside := rfl
@[simp] theorem State.modDie_homeWaits (s : State) (d : Nat) (f : Die → Die) : (s.modDie d f).homeWaits = s.homeWaits := rfl
@[simp] theorem State.modDie_kept (s : State) (d : Nat) (f : Die → Die) : (s.modDie d f).kept = s.kept := rfl
@[simp] theorem State.modDie_engWts (s : State) (d : Nat) (f : Die → Die) : (s.modDie d f).engWts = s.engWts := rfl
@[simp] theorem State.modDie_sceneWts (s : State) (d : Nat) (f : Die → Die) : (s.modDie d f).sceneWts = s.sceneWts := rfl
@[simp] theorem State.modDie_free (s : State) (d : Nat) (f : Die → Die) : (s.modDie d f).free = s.free := rfl
@[simp] theorem State.modDie_agenda (s : State) (d : Nat) (f : Die → Die) : (s.modDie d f).agenda = s.agenda := rfl

@[simp] theorem State.modCtx_clock (s : State) (n : Nat) (f : CtxDesc → CtxDesc) : (s.modCtx n f).clock = s.clock := rfl
@[simp] theorem State.modCtx_stage (s : State) (n : Nat) (f : CtxDesc → CtxDesc) : (s.modCtx n f).stage = s.stage := rfl
@[simp] theorem State.modCtx_bootFail (s : State) (n : Nat) (f : CtxDesc → CtxDesc) : (s.modCtx n f).bootFail = s.bootFail := rfl
@[simp] theorem State.modCtx_fwver (s : State) (n : Nat) (f : CtxDesc → CtxDesc) : (s.modCtx n f).fwver = s.fwver := rfl
@[simp] theorem State.modCtx_boots (s : State) (n : Nat) (f : CtxDesc → CtxDesc) : (s.modCtx n f).boots = s.boots := rfl
@[simp] theorem State.modCtx_repairs (s : State) (n : Nat) (f : CtxDesc → CtxDesc) : (s.modCtx n f).repairs = s.repairs := rfl
@[simp] theorem State.modCtx_mem (s : State) (n : Nat) (f : CtxDesc → CtxDesc) : (s.modCtx n f).mem = s.mem := rfl
@[simp] theorem State.modCtx_hostMem (s : State) (n : Nat) (f : CtxDesc → CtxDesc) : (s.modCtx n f).hostMem = s.hostMem := rfl
@[simp] theorem State.modCtx_hostPending (s : State) (n : Nat) (f : CtxDesc → CtxDesc) : (s.modCtx n f).hostPending = s.hostPending := rfl
@[simp] theorem State.modCtx_past (s : State) (n : Nat) (f : CtxDesc → CtxDesc) : (s.modCtx n f).past = s.past := rfl
@[simp] theorem State.modCtx_codeLog (s : State) (n : Nat) (f : CtxDesc → CtxDesc) : (s.modCtx n f).codeLog = s.codeLog := rfl
@[simp] theorem State.modCtx_peers (s : State) (n : Nat) (f : CtxDesc → CtxDesc) : (s.modCtx n f).peers = s.peers := rfl
@[simp] theorem State.modCtx_ctxRes (s : State) (n : Nat) (f : CtxDesc → CtxDesc) : (s.modCtx n f).ctxRes = s.ctxRes := rfl
@[simp] theorem State.modCtx_cur (s : State) (n : Nat) (f : CtxDesc → CtxDesc) : (s.modCtx n f).cur = s.cur := rfl
@[simp] theorem State.modCtx_grp (s : State) (n : Nat) (f : CtxDesc → CtxDesc) : (s.modCtx n f).grp = s.grp := rfl
@[simp] theorem State.modCtx_team (s : State) (n : Nat) (f : CtxDesc → CtxDesc) : (s.modCtx n f).team = s.team := rfl
@[simp] theorem State.modCtx_teams (s : State) (n : Nat) (f : CtxDesc → CtxDesc) : (s.modCtx n f).teams = s.teams := rfl
@[simp] theorem State.modCtx_saved (s : State) (n : Nat) (f : CtxDesc → CtxDesc) : (s.modCtx n f).saved = s.saved := rfl
@[simp] theorem State.modCtx_clusters (s : State) (n : Nat) (f : CtxDesc → CtxDesc) : (s.modCtx n f).clusters = s.clusters := rfl
@[simp] theorem State.modCtx_launches (s : State) (n : Nat) (f : CtxDesc → CtxDesc) : (s.modCtx n f).launches = s.launches := rfl
@[simp] theorem State.modCtx_nextLaunchId (s : State) (n : Nat) (f : CtxDesc → CtxDesc) : (s.modCtx n f).nextLaunchId = s.nextLaunchId := rfl
@[simp] theorem State.modCtx_launchTurn (s : State) (n : Nat) (f : CtxDesc → CtxDesc) : (s.modCtx n f).launchTurn = s.launchTurn := rfl
@[simp] theorem State.modCtx_nextSeqNo (s : State) (n : Nat) (f : CtxDesc → CtxDesc) : (s.modCtx n f).nextSeqNo = s.nextSeqNo := rfl
@[simp] theorem State.modCtx_nextUid (s : State) (n : Nat) (f : CtxDesc → CtxDesc) : (s.modCtx n f).nextUid = s.nextUid := rfl
@[simp] theorem State.modCtx_saveCount (s : State) (n : Nat) (f : CtxDesc → CtxDesc) : (s.modCtx n f).saveCount = s.saveCount := rfl
@[simp] theorem State.modCtx_adm (s : State) (n : Nat) (f : CtxDesc → CtxDesc) : (s.modCtx n f).adm = s.adm := rfl
@[simp] theorem State.modCtx_cores (s : State) (n : Nat) (f : CtxDesc → CtxDesc) : (s.modCtx n f).cores = s.cores := rfl
@[simp] theorem State.modCtx_predictors (s : State) (n : Nat) (f : CtxDesc → CtxDesc) : (s.modCtx n f).predictors = s.predictors := rfl
@[simp] theorem State.modCtx_dies (s : State) (n : Nat) (f : CtxDesc → CtxDesc) : (s.modCtx n f).dies = s.dies := rfl
@[simp] theorem State.modCtx_injected (s : State) (n : Nat) (f : CtxDesc → CtxDesc) : (s.modCtx n f).injected = s.injected := rfl
@[simp] theorem State.modCtx_granted (s : State) (n : Nat) (f : CtxDesc → CtxDesc) : (s.modCtx n f).granted = s.granted := rfl
@[simp] theorem State.modCtx_recalls (s : State) (n : Nat) (f : CtxDesc → CtxDesc) : (s.modCtx n f).recalls = s.recalls := rfl
@[simp] theorem State.modCtx_blocks (s : State) (n : Nat) (f : CtxDesc → CtxDesc) : (s.modCtx n f).blocks = s.blocks := rfl
@[simp] theorem State.modCtx_served (s : State) (n : Nat) (f : CtxDesc → CtxDesc) : (s.modCtx n f).served = s.served := rfl
@[simp] theorem State.modCtx_energyAt (s : State) (n : Nat) (f : CtxDesc → CtxDesc) : (s.modCtx n f).energyAt = s.energyAt := rfl
@[simp] theorem State.modCtx_commands (s : State) (n : Nat) (f : CtxDesc → CtxDesc) : (s.modCtx n f).commands = s.commands := rfl
@[simp] theorem State.modCtx_nextCmd (s : State) (n : Nat) (f : CtxDesc → CtxDesc) : (s.modCtx n f).nextCmd = s.nextCmd := rfl
@[simp] theorem State.modCtx_rays (s : State) (n : Nat) (f : CtxDesc → CtxDesc) : (s.modCtx n f).rays = s.rays := rfl
@[simp] theorem State.modCtx_nextRay (s : State) (n : Nat) (f : CtxDesc → CtxDesc) : (s.modCtx n f).nextRay = s.nextRay := rfl
@[simp] theorem State.modCtx_rayCounts (s : State) (n : Nat) (f : CtxDesc → CtxDesc) : (s.modCtx n f).rayCounts = s.rayCounts := rfl
@[simp] theorem State.modCtx_ports (s : State) (n : Nat) (f : CtxDesc → CtxDesc) : (s.modCtx n f).ports = s.ports := rfl
@[simp] theorem State.modCtx_links (s : State) (n : Nat) (f : CtxDesc → CtxDesc) : (s.modCtx n f).links = s.links := rfl
@[simp] theorem State.modCtx_inbound (s : State) (n : Nat) (f : CtxDesc → CtxDesc) : (s.modCtx n f).inbound = s.inbound := rfl
@[simp] theorem State.modCtx_slalia (s : State) (n : Nat) (f : CtxDesc → CtxDesc) : (s.modCtx n f).slalia = s.slalia := rfl
@[simp] theorem State.modCtx_trace (s : State) (n : Nat) (f : CtxDesc → CtxDesc) : (s.modCtx n f).trace = s.trace := rfl
@[simp] theorem State.modCtx_busy (s : State) (n : Nat) (f : CtxDesc → CtxDesc) : (s.modCtx n f).busy = s.busy := rfl
@[simp] theorem State.modCtx_stallCnt (s : State) (n : Nat) (f : CtxDesc → CtxDesc) : (s.modCtx n f).stallCnt = s.stallCnt := rfl
@[simp] theorem State.modCtx_latched (s : State) (n : Nat) (f : CtxDesc → CtxDesc) : (s.modCtx n f).latched = s.latched := rfl
@[simp] theorem State.modCtx_busyNext (s : State) (n : Nat) (f : CtxDesc → CtxDesc) : (s.modCtx n f).busyNext = s.busyNext := rfl
@[simp] theorem State.modCtx_stallNext (s : State) (n : Nat) (f : CtxDesc → CtxDesc) : (s.modCtx n f).stallNext = s.stallNext := rfl
@[simp] theorem State.modCtx_filterAt (s : State) (n : Nat) (f : CtxDesc → CtxDesc) : (s.modCtx n f).filterAt = s.filterAt := rfl
@[simp] theorem State.modCtx_points (s : State) (n : Nat) (f : CtxDesc → CtxDesc) : (s.modCtx n f).points = s.points := rfl
@[simp] theorem State.modCtx_levels (s : State) (n : Nat) (f : CtxDesc → CtxDesc) : (s.modCtx n f).levels = s.levels := rfl
@[simp] theorem State.modCtx_coolSince (s : State) (n : Nat) (f : CtxDesc → CtxDesc) : (s.modCtx n f).coolSince = s.coolSince := rfl
@[simp] theorem State.modCtx_coolantBad (s : State) (n : Nat) (f : CtxDesc → CtxDesc) : (s.modCtx n f).coolantBad = s.coolantBad := rfl
@[simp] theorem State.modCtx_sparing (s : State) (n : Nat) (f : CtxDesc → CtxDesc) : (s.modCtx n f).sparing = s.sparing := rfl
@[simp] theorem State.modCtx_damage (s : State) (n : Nat) (f : CtxDesc → CtxDesc) : (s.modCtx n f).damage = s.damage := rfl
@[simp] theorem State.modCtx_levelLogged (s : State) (n : Nat) (f : CtxDesc → CtxDesc) : (s.modCtx n f).levelLogged = s.levelLogged := rfl
@[simp] theorem State.modCtx_hostReplies (s : State) (n : Nat) (f : CtxDesc → CtxDesc) : (s.modCtx n f).hostReplies = s.hostReplies := rfl
@[simp] theorem State.modCtx_peerReplies (s : State) (n : Nat) (f : CtxDesc → CtxDesc) : (s.modCtx n f).peerReplies = s.peerReplies := rfl
@[simp] theorem State.modCtx_outside (s : State) (n : Nat) (f : CtxDesc → CtxDesc) : (s.modCtx n f).outside = s.outside := rfl
@[simp] theorem State.modCtx_homeWaits (s : State) (n : Nat) (f : CtxDesc → CtxDesc) : (s.modCtx n f).homeWaits = s.homeWaits := rfl
@[simp] theorem State.modCtx_kept (s : State) (n : Nat) (f : CtxDesc → CtxDesc) : (s.modCtx n f).kept = s.kept := rfl
@[simp] theorem State.modCtx_engWts (s : State) (n : Nat) (f : CtxDesc → CtxDesc) : (s.modCtx n f).engWts = s.engWts := rfl
@[simp] theorem State.modCtx_sceneWts (s : State) (n : Nat) (f : CtxDesc → CtxDesc) : (s.modCtx n f).sceneWts = s.sceneWts := rfl
@[simp] theorem State.modCtx_free (s : State) (n : Nat) (f : CtxDesc → CtxDesc) : (s.modCtx n f).free = s.free := rfl
@[simp] theorem State.modCtx_agenda (s : State) (n : Nat) (f : CtxDesc → CtxDesc) : (s.modCtx n f).agenda = s.agenda := rfl

@[simp] theorem State.modQueue_clock (s : State) (n : Nat) (f : LaunchQueue → LaunchQueue) : (s.modQueue n f).clock = s.clock := rfl
@[simp] theorem State.modQueue_stage (s : State) (n : Nat) (f : LaunchQueue → LaunchQueue) : (s.modQueue n f).stage = s.stage := rfl
@[simp] theorem State.modQueue_bootFail (s : State) (n : Nat) (f : LaunchQueue → LaunchQueue) : (s.modQueue n f).bootFail = s.bootFail := rfl
@[simp] theorem State.modQueue_fwver (s : State) (n : Nat) (f : LaunchQueue → LaunchQueue) : (s.modQueue n f).fwver = s.fwver := rfl
@[simp] theorem State.modQueue_boots (s : State) (n : Nat) (f : LaunchQueue → LaunchQueue) : (s.modQueue n f).boots = s.boots := rfl
@[simp] theorem State.modQueue_repairs (s : State) (n : Nat) (f : LaunchQueue → LaunchQueue) : (s.modQueue n f).repairs = s.repairs := rfl
@[simp] theorem State.modQueue_mem (s : State) (n : Nat) (f : LaunchQueue → LaunchQueue) : (s.modQueue n f).mem = s.mem := rfl
@[simp] theorem State.modQueue_hostMem (s : State) (n : Nat) (f : LaunchQueue → LaunchQueue) : (s.modQueue n f).hostMem = s.hostMem := rfl
@[simp] theorem State.modQueue_hostPending (s : State) (n : Nat) (f : LaunchQueue → LaunchQueue) : (s.modQueue n f).hostPending = s.hostPending := rfl
@[simp] theorem State.modQueue_past (s : State) (n : Nat) (f : LaunchQueue → LaunchQueue) : (s.modQueue n f).past = s.past := rfl
@[simp] theorem State.modQueue_codeLog (s : State) (n : Nat) (f : LaunchQueue → LaunchQueue) : (s.modQueue n f).codeLog = s.codeLog := rfl
@[simp] theorem State.modQueue_peers (s : State) (n : Nat) (f : LaunchQueue → LaunchQueue) : (s.modQueue n f).peers = s.peers := rfl
@[simp] theorem State.modQueue_ctxRes (s : State) (n : Nat) (f : LaunchQueue → LaunchQueue) : (s.modQueue n f).ctxRes = s.ctxRes := rfl
@[simp] theorem State.modQueue_cur (s : State) (n : Nat) (f : LaunchQueue → LaunchQueue) : (s.modQueue n f).cur = s.cur := rfl
@[simp] theorem State.modQueue_grp (s : State) (n : Nat) (f : LaunchQueue → LaunchQueue) : (s.modQueue n f).grp = s.grp := rfl
@[simp] theorem State.modQueue_team (s : State) (n : Nat) (f : LaunchQueue → LaunchQueue) : (s.modQueue n f).team = s.team := rfl
@[simp] theorem State.modQueue_teams (s : State) (n : Nat) (f : LaunchQueue → LaunchQueue) : (s.modQueue n f).teams = s.teams := rfl
@[simp] theorem State.modQueue_saved (s : State) (n : Nat) (f : LaunchQueue → LaunchQueue) : (s.modQueue n f).saved = s.saved := rfl
@[simp] theorem State.modQueue_clusters (s : State) (n : Nat) (f : LaunchQueue → LaunchQueue) : (s.modQueue n f).clusters = s.clusters := rfl
@[simp] theorem State.modQueue_launches (s : State) (n : Nat) (f : LaunchQueue → LaunchQueue) : (s.modQueue n f).launches = s.launches := rfl
@[simp] theorem State.modQueue_nextLaunchId (s : State) (n : Nat) (f : LaunchQueue → LaunchQueue) : (s.modQueue n f).nextLaunchId = s.nextLaunchId := rfl
@[simp] theorem State.modQueue_launchTurn (s : State) (n : Nat) (f : LaunchQueue → LaunchQueue) : (s.modQueue n f).launchTurn = s.launchTurn := rfl
@[simp] theorem State.modQueue_nextSeqNo (s : State) (n : Nat) (f : LaunchQueue → LaunchQueue) : (s.modQueue n f).nextSeqNo = s.nextSeqNo := rfl
@[simp] theorem State.modQueue_nextUid (s : State) (n : Nat) (f : LaunchQueue → LaunchQueue) : (s.modQueue n f).nextUid = s.nextUid := rfl
@[simp] theorem State.modQueue_saveCount (s : State) (n : Nat) (f : LaunchQueue → LaunchQueue) : (s.modQueue n f).saveCount = s.saveCount := rfl
@[simp] theorem State.modQueue_adm (s : State) (n : Nat) (f : LaunchQueue → LaunchQueue) : (s.modQueue n f).adm = s.adm := rfl
@[simp] theorem State.modQueue_cores (s : State) (n : Nat) (f : LaunchQueue → LaunchQueue) : (s.modQueue n f).cores = s.cores := rfl
@[simp] theorem State.modQueue_predictors (s : State) (n : Nat) (f : LaunchQueue → LaunchQueue) : (s.modQueue n f).predictors = s.predictors := rfl
@[simp] theorem State.modQueue_dies (s : State) (n : Nat) (f : LaunchQueue → LaunchQueue) : (s.modQueue n f).dies = s.dies := rfl
@[simp] theorem State.modQueue_injected (s : State) (n : Nat) (f : LaunchQueue → LaunchQueue) : (s.modQueue n f).injected = s.injected := rfl
@[simp] theorem State.modQueue_granted (s : State) (n : Nat) (f : LaunchQueue → LaunchQueue) : (s.modQueue n f).granted = s.granted := rfl
@[simp] theorem State.modQueue_recalls (s : State) (n : Nat) (f : LaunchQueue → LaunchQueue) : (s.modQueue n f).recalls = s.recalls := rfl
@[simp] theorem State.modQueue_blocks (s : State) (n : Nat) (f : LaunchQueue → LaunchQueue) : (s.modQueue n f).blocks = s.blocks := rfl
@[simp] theorem State.modQueue_served (s : State) (n : Nat) (f : LaunchQueue → LaunchQueue) : (s.modQueue n f).served = s.served := rfl
@[simp] theorem State.modQueue_energyAt (s : State) (n : Nat) (f : LaunchQueue → LaunchQueue) : (s.modQueue n f).energyAt = s.energyAt := rfl
@[simp] theorem State.modQueue_commands (s : State) (n : Nat) (f : LaunchQueue → LaunchQueue) : (s.modQueue n f).commands = s.commands := rfl
@[simp] theorem State.modQueue_nextCmd (s : State) (n : Nat) (f : LaunchQueue → LaunchQueue) : (s.modQueue n f).nextCmd = s.nextCmd := rfl
@[simp] theorem State.modQueue_rays (s : State) (n : Nat) (f : LaunchQueue → LaunchQueue) : (s.modQueue n f).rays = s.rays := rfl
@[simp] theorem State.modQueue_nextRay (s : State) (n : Nat) (f : LaunchQueue → LaunchQueue) : (s.modQueue n f).nextRay = s.nextRay := rfl
@[simp] theorem State.modQueue_rayCounts (s : State) (n : Nat) (f : LaunchQueue → LaunchQueue) : (s.modQueue n f).rayCounts = s.rayCounts := rfl
@[simp] theorem State.modQueue_ports (s : State) (n : Nat) (f : LaunchQueue → LaunchQueue) : (s.modQueue n f).ports = s.ports := rfl
@[simp] theorem State.modQueue_links (s : State) (n : Nat) (f : LaunchQueue → LaunchQueue) : (s.modQueue n f).links = s.links := rfl
@[simp] theorem State.modQueue_inbound (s : State) (n : Nat) (f : LaunchQueue → LaunchQueue) : (s.modQueue n f).inbound = s.inbound := rfl
@[simp] theorem State.modQueue_slalia (s : State) (n : Nat) (f : LaunchQueue → LaunchQueue) : (s.modQueue n f).slalia = s.slalia := rfl
@[simp] theorem State.modQueue_trace (s : State) (n : Nat) (f : LaunchQueue → LaunchQueue) : (s.modQueue n f).trace = s.trace := rfl
@[simp] theorem State.modQueue_busy (s : State) (n : Nat) (f : LaunchQueue → LaunchQueue) : (s.modQueue n f).busy = s.busy := rfl
@[simp] theorem State.modQueue_stallCnt (s : State) (n : Nat) (f : LaunchQueue → LaunchQueue) : (s.modQueue n f).stallCnt = s.stallCnt := rfl
@[simp] theorem State.modQueue_latched (s : State) (n : Nat) (f : LaunchQueue → LaunchQueue) : (s.modQueue n f).latched = s.latched := rfl
@[simp] theorem State.modQueue_busyNext (s : State) (n : Nat) (f : LaunchQueue → LaunchQueue) : (s.modQueue n f).busyNext = s.busyNext := rfl
@[simp] theorem State.modQueue_stallNext (s : State) (n : Nat) (f : LaunchQueue → LaunchQueue) : (s.modQueue n f).stallNext = s.stallNext := rfl
@[simp] theorem State.modQueue_filterAt (s : State) (n : Nat) (f : LaunchQueue → LaunchQueue) : (s.modQueue n f).filterAt = s.filterAt := rfl
@[simp] theorem State.modQueue_points (s : State) (n : Nat) (f : LaunchQueue → LaunchQueue) : (s.modQueue n f).points = s.points := rfl
@[simp] theorem State.modQueue_levels (s : State) (n : Nat) (f : LaunchQueue → LaunchQueue) : (s.modQueue n f).levels = s.levels := rfl
@[simp] theorem State.modQueue_coolSince (s : State) (n : Nat) (f : LaunchQueue → LaunchQueue) : (s.modQueue n f).coolSince = s.coolSince := rfl
@[simp] theorem State.modQueue_coolantBad (s : State) (n : Nat) (f : LaunchQueue → LaunchQueue) : (s.modQueue n f).coolantBad = s.coolantBad := rfl
@[simp] theorem State.modQueue_sparing (s : State) (n : Nat) (f : LaunchQueue → LaunchQueue) : (s.modQueue n f).sparing = s.sparing := rfl
@[simp] theorem State.modQueue_damage (s : State) (n : Nat) (f : LaunchQueue → LaunchQueue) : (s.modQueue n f).damage = s.damage := rfl
@[simp] theorem State.modQueue_levelLogged (s : State) (n : Nat) (f : LaunchQueue → LaunchQueue) : (s.modQueue n f).levelLogged = s.levelLogged := rfl
@[simp] theorem State.modQueue_hostReplies (s : State) (n : Nat) (f : LaunchQueue → LaunchQueue) : (s.modQueue n f).hostReplies = s.hostReplies := rfl
@[simp] theorem State.modQueue_peerReplies (s : State) (n : Nat) (f : LaunchQueue → LaunchQueue) : (s.modQueue n f).peerReplies = s.peerReplies := rfl
@[simp] theorem State.modQueue_outside (s : State) (n : Nat) (f : LaunchQueue → LaunchQueue) : (s.modQueue n f).outside = s.outside := rfl
@[simp] theorem State.modQueue_homeWaits (s : State) (n : Nat) (f : LaunchQueue → LaunchQueue) : (s.modQueue n f).homeWaits = s.homeWaits := rfl
@[simp] theorem State.modQueue_kept (s : State) (n : Nat) (f : LaunchQueue → LaunchQueue) : (s.modQueue n f).kept = s.kept := rfl
@[simp] theorem State.modQueue_engWts (s : State) (n : Nat) (f : LaunchQueue → LaunchQueue) : (s.modQueue n f).engWts = s.engWts := rfl
@[simp] theorem State.modQueue_sceneWts (s : State) (n : Nat) (f : LaunchQueue → LaunchQueue) : (s.modQueue n f).sceneWts = s.sceneWts := rfl
@[simp] theorem State.modQueue_free (s : State) (n : Nat) (f : LaunchQueue → LaunchQueue) : (s.modQueue n f).free = s.free := rfl
@[simp] theorem State.modQueue_agenda (s : State) (n : Nat) (f : LaunchQueue → LaunchQueue) : (s.modQueue n f).agenda = s.agenda := rfl

@[simp] theorem State.modDebug_clock (s : State) (n : Nat) (f : DebugBlock → DebugBlock) : (s.modDebug n f).clock = s.clock := rfl
@[simp] theorem State.modDebug_stage (s : State) (n : Nat) (f : DebugBlock → DebugBlock) : (s.modDebug n f).stage = s.stage := rfl
@[simp] theorem State.modDebug_bootFail (s : State) (n : Nat) (f : DebugBlock → DebugBlock) : (s.modDebug n f).bootFail = s.bootFail := rfl
@[simp] theorem State.modDebug_fwver (s : State) (n : Nat) (f : DebugBlock → DebugBlock) : (s.modDebug n f).fwver = s.fwver := rfl
@[simp] theorem State.modDebug_boots (s : State) (n : Nat) (f : DebugBlock → DebugBlock) : (s.modDebug n f).boots = s.boots := rfl
@[simp] theorem State.modDebug_repairs (s : State) (n : Nat) (f : DebugBlock → DebugBlock) : (s.modDebug n f).repairs = s.repairs := rfl
@[simp] theorem State.modDebug_mem (s : State) (n : Nat) (f : DebugBlock → DebugBlock) : (s.modDebug n f).mem = s.mem := rfl
@[simp] theorem State.modDebug_hostMem (s : State) (n : Nat) (f : DebugBlock → DebugBlock) : (s.modDebug n f).hostMem = s.hostMem := rfl
@[simp] theorem State.modDebug_hostPending (s : State) (n : Nat) (f : DebugBlock → DebugBlock) : (s.modDebug n f).hostPending = s.hostPending := rfl
@[simp] theorem State.modDebug_past (s : State) (n : Nat) (f : DebugBlock → DebugBlock) : (s.modDebug n f).past = s.past := rfl
@[simp] theorem State.modDebug_codeLog (s : State) (n : Nat) (f : DebugBlock → DebugBlock) : (s.modDebug n f).codeLog = s.codeLog := rfl
@[simp] theorem State.modDebug_peers (s : State) (n : Nat) (f : DebugBlock → DebugBlock) : (s.modDebug n f).peers = s.peers := rfl
@[simp] theorem State.modDebug_ctxRes (s : State) (n : Nat) (f : DebugBlock → DebugBlock) : (s.modDebug n f).ctxRes = s.ctxRes := rfl
@[simp] theorem State.modDebug_cur (s : State) (n : Nat) (f : DebugBlock → DebugBlock) : (s.modDebug n f).cur = s.cur := rfl
@[simp] theorem State.modDebug_grp (s : State) (n : Nat) (f : DebugBlock → DebugBlock) : (s.modDebug n f).grp = s.grp := rfl
@[simp] theorem State.modDebug_team (s : State) (n : Nat) (f : DebugBlock → DebugBlock) : (s.modDebug n f).team = s.team := rfl
@[simp] theorem State.modDebug_teams (s : State) (n : Nat) (f : DebugBlock → DebugBlock) : (s.modDebug n f).teams = s.teams := rfl
@[simp] theorem State.modDebug_saved (s : State) (n : Nat) (f : DebugBlock → DebugBlock) : (s.modDebug n f).saved = s.saved := rfl
@[simp] theorem State.modDebug_clusters (s : State) (n : Nat) (f : DebugBlock → DebugBlock) : (s.modDebug n f).clusters = s.clusters := rfl
@[simp] theorem State.modDebug_launches (s : State) (n : Nat) (f : DebugBlock → DebugBlock) : (s.modDebug n f).launches = s.launches := rfl
@[simp] theorem State.modDebug_nextLaunchId (s : State) (n : Nat) (f : DebugBlock → DebugBlock) : (s.modDebug n f).nextLaunchId = s.nextLaunchId := rfl
@[simp] theorem State.modDebug_launchTurn (s : State) (n : Nat) (f : DebugBlock → DebugBlock) : (s.modDebug n f).launchTurn = s.launchTurn := rfl
@[simp] theorem State.modDebug_nextSeqNo (s : State) (n : Nat) (f : DebugBlock → DebugBlock) : (s.modDebug n f).nextSeqNo = s.nextSeqNo := rfl
@[simp] theorem State.modDebug_nextUid (s : State) (n : Nat) (f : DebugBlock → DebugBlock) : (s.modDebug n f).nextUid = s.nextUid := rfl
@[simp] theorem State.modDebug_saveCount (s : State) (n : Nat) (f : DebugBlock → DebugBlock) : (s.modDebug n f).saveCount = s.saveCount := rfl
@[simp] theorem State.modDebug_adm (s : State) (n : Nat) (f : DebugBlock → DebugBlock) : (s.modDebug n f).adm = s.adm := rfl
@[simp] theorem State.modDebug_cores (s : State) (n : Nat) (f : DebugBlock → DebugBlock) : (s.modDebug n f).cores = s.cores := rfl
@[simp] theorem State.modDebug_predictors (s : State) (n : Nat) (f : DebugBlock → DebugBlock) : (s.modDebug n f).predictors = s.predictors := rfl
@[simp] theorem State.modDebug_dies (s : State) (n : Nat) (f : DebugBlock → DebugBlock) : (s.modDebug n f).dies = s.dies := rfl
@[simp] theorem State.modDebug_injected (s : State) (n : Nat) (f : DebugBlock → DebugBlock) : (s.modDebug n f).injected = s.injected := rfl
@[simp] theorem State.modDebug_granted (s : State) (n : Nat) (f : DebugBlock → DebugBlock) : (s.modDebug n f).granted = s.granted := rfl
@[simp] theorem State.modDebug_recalls (s : State) (n : Nat) (f : DebugBlock → DebugBlock) : (s.modDebug n f).recalls = s.recalls := rfl
@[simp] theorem State.modDebug_blocks (s : State) (n : Nat) (f : DebugBlock → DebugBlock) : (s.modDebug n f).blocks = s.blocks := rfl
@[simp] theorem State.modDebug_served (s : State) (n : Nat) (f : DebugBlock → DebugBlock) : (s.modDebug n f).served = s.served := rfl
@[simp] theorem State.modDebug_energyAt (s : State) (n : Nat) (f : DebugBlock → DebugBlock) : (s.modDebug n f).energyAt = s.energyAt := rfl
@[simp] theorem State.modDebug_commands (s : State) (n : Nat) (f : DebugBlock → DebugBlock) : (s.modDebug n f).commands = s.commands := rfl
@[simp] theorem State.modDebug_nextCmd (s : State) (n : Nat) (f : DebugBlock → DebugBlock) : (s.modDebug n f).nextCmd = s.nextCmd := rfl
@[simp] theorem State.modDebug_rays (s : State) (n : Nat) (f : DebugBlock → DebugBlock) : (s.modDebug n f).rays = s.rays := rfl
@[simp] theorem State.modDebug_nextRay (s : State) (n : Nat) (f : DebugBlock → DebugBlock) : (s.modDebug n f).nextRay = s.nextRay := rfl
@[simp] theorem State.modDebug_rayCounts (s : State) (n : Nat) (f : DebugBlock → DebugBlock) : (s.modDebug n f).rayCounts = s.rayCounts := rfl
@[simp] theorem State.modDebug_ports (s : State) (n : Nat) (f : DebugBlock → DebugBlock) : (s.modDebug n f).ports = s.ports := rfl
@[simp] theorem State.modDebug_links (s : State) (n : Nat) (f : DebugBlock → DebugBlock) : (s.modDebug n f).links = s.links := rfl
@[simp] theorem State.modDebug_inbound (s : State) (n : Nat) (f : DebugBlock → DebugBlock) : (s.modDebug n f).inbound = s.inbound := rfl
@[simp] theorem State.modDebug_slalia (s : State) (n : Nat) (f : DebugBlock → DebugBlock) : (s.modDebug n f).slalia = s.slalia := rfl
@[simp] theorem State.modDebug_trace (s : State) (n : Nat) (f : DebugBlock → DebugBlock) : (s.modDebug n f).trace = s.trace := rfl
@[simp] theorem State.modDebug_busy (s : State) (n : Nat) (f : DebugBlock → DebugBlock) : (s.modDebug n f).busy = s.busy := rfl
@[simp] theorem State.modDebug_stallCnt (s : State) (n : Nat) (f : DebugBlock → DebugBlock) : (s.modDebug n f).stallCnt = s.stallCnt := rfl
@[simp] theorem State.modDebug_latched (s : State) (n : Nat) (f : DebugBlock → DebugBlock) : (s.modDebug n f).latched = s.latched := rfl
@[simp] theorem State.modDebug_busyNext (s : State) (n : Nat) (f : DebugBlock → DebugBlock) : (s.modDebug n f).busyNext = s.busyNext := rfl
@[simp] theorem State.modDebug_stallNext (s : State) (n : Nat) (f : DebugBlock → DebugBlock) : (s.modDebug n f).stallNext = s.stallNext := rfl
@[simp] theorem State.modDebug_filterAt (s : State) (n : Nat) (f : DebugBlock → DebugBlock) : (s.modDebug n f).filterAt = s.filterAt := rfl
@[simp] theorem State.modDebug_points (s : State) (n : Nat) (f : DebugBlock → DebugBlock) : (s.modDebug n f).points = s.points := rfl
@[simp] theorem State.modDebug_levels (s : State) (n : Nat) (f : DebugBlock → DebugBlock) : (s.modDebug n f).levels = s.levels := rfl
@[simp] theorem State.modDebug_coolSince (s : State) (n : Nat) (f : DebugBlock → DebugBlock) : (s.modDebug n f).coolSince = s.coolSince := rfl
@[simp] theorem State.modDebug_coolantBad (s : State) (n : Nat) (f : DebugBlock → DebugBlock) : (s.modDebug n f).coolantBad = s.coolantBad := rfl
@[simp] theorem State.modDebug_sparing (s : State) (n : Nat) (f : DebugBlock → DebugBlock) : (s.modDebug n f).sparing = s.sparing := rfl
@[simp] theorem State.modDebug_damage (s : State) (n : Nat) (f : DebugBlock → DebugBlock) : (s.modDebug n f).damage = s.damage := rfl
@[simp] theorem State.modDebug_levelLogged (s : State) (n : Nat) (f : DebugBlock → DebugBlock) : (s.modDebug n f).levelLogged = s.levelLogged := rfl
@[simp] theorem State.modDebug_hostReplies (s : State) (n : Nat) (f : DebugBlock → DebugBlock) : (s.modDebug n f).hostReplies = s.hostReplies := rfl
@[simp] theorem State.modDebug_peerReplies (s : State) (n : Nat) (f : DebugBlock → DebugBlock) : (s.modDebug n f).peerReplies = s.peerReplies := rfl
@[simp] theorem State.modDebug_outside (s : State) (n : Nat) (f : DebugBlock → DebugBlock) : (s.modDebug n f).outside = s.outside := rfl
@[simp] theorem State.modDebug_homeWaits (s : State) (n : Nat) (f : DebugBlock → DebugBlock) : (s.modDebug n f).homeWaits = s.homeWaits := rfl
@[simp] theorem State.modDebug_kept (s : State) (n : Nat) (f : DebugBlock → DebugBlock) : (s.modDebug n f).kept = s.kept := rfl
@[simp] theorem State.modDebug_engWts (s : State) (n : Nat) (f : DebugBlock → DebugBlock) : (s.modDebug n f).engWts = s.engWts := rfl
@[simp] theorem State.modDebug_sceneWts (s : State) (n : Nat) (f : DebugBlock → DebugBlock) : (s.modDebug n f).sceneWts = s.sceneWts := rfl
@[simp] theorem State.modDebug_free (s : State) (n : Nat) (f : DebugBlock → DebugBlock) : (s.modDebug n f).free = s.free := rfl
@[simp] theorem State.modDebug_agenda (s : State) (n : Nat) (f : DebugBlock → DebugBlock) : (s.modDebug n f).agenda = s.agenda := rfl

@[simp] theorem State.modCtl_clock (s : State) (a : BitVec 12) (f : CtxCtl → CtxCtl) : (s.modCtl a f).clock = s.clock := rfl
@[simp] theorem State.modCtl_stage (s : State) (a : BitVec 12) (f : CtxCtl → CtxCtl) : (s.modCtl a f).stage = s.stage := rfl
@[simp] theorem State.modCtl_bootFail (s : State) (a : BitVec 12) (f : CtxCtl → CtxCtl) : (s.modCtl a f).bootFail = s.bootFail := rfl
@[simp] theorem State.modCtl_fwver (s : State) (a : BitVec 12) (f : CtxCtl → CtxCtl) : (s.modCtl a f).fwver = s.fwver := rfl
@[simp] theorem State.modCtl_boots (s : State) (a : BitVec 12) (f : CtxCtl → CtxCtl) : (s.modCtl a f).boots = s.boots := rfl
@[simp] theorem State.modCtl_repairs (s : State) (a : BitVec 12) (f : CtxCtl → CtxCtl) : (s.modCtl a f).repairs = s.repairs := rfl
@[simp] theorem State.modCtl_mem (s : State) (a : BitVec 12) (f : CtxCtl → CtxCtl) : (s.modCtl a f).mem = s.mem := rfl
@[simp] theorem State.modCtl_hostMem (s : State) (a : BitVec 12) (f : CtxCtl → CtxCtl) : (s.modCtl a f).hostMem = s.hostMem := rfl
@[simp] theorem State.modCtl_hostPending (s : State) (a : BitVec 12) (f : CtxCtl → CtxCtl) : (s.modCtl a f).hostPending = s.hostPending := rfl
@[simp] theorem State.modCtl_past (s : State) (a : BitVec 12) (f : CtxCtl → CtxCtl) : (s.modCtl a f).past = s.past := rfl
@[simp] theorem State.modCtl_codeLog (s : State) (a : BitVec 12) (f : CtxCtl → CtxCtl) : (s.modCtl a f).codeLog = s.codeLog := rfl
@[simp] theorem State.modCtl_peers (s : State) (a : BitVec 12) (f : CtxCtl → CtxCtl) : (s.modCtl a f).peers = s.peers := rfl
@[simp] theorem State.modCtl_ctxRes (s : State) (a : BitVec 12) (f : CtxCtl → CtxCtl) : (s.modCtl a f).ctxRes = s.ctxRes := rfl
@[simp] theorem State.modCtl_cur (s : State) (a : BitVec 12) (f : CtxCtl → CtxCtl) : (s.modCtl a f).cur = s.cur := rfl
@[simp] theorem State.modCtl_grp (s : State) (a : BitVec 12) (f : CtxCtl → CtxCtl) : (s.modCtl a f).grp = s.grp := rfl
@[simp] theorem State.modCtl_team (s : State) (a : BitVec 12) (f : CtxCtl → CtxCtl) : (s.modCtl a f).team = s.team := rfl
@[simp] theorem State.modCtl_teams (s : State) (a : BitVec 12) (f : CtxCtl → CtxCtl) : (s.modCtl a f).teams = s.teams := rfl
@[simp] theorem State.modCtl_saved (s : State) (a : BitVec 12) (f : CtxCtl → CtxCtl) : (s.modCtl a f).saved = s.saved := rfl
@[simp] theorem State.modCtl_clusters (s : State) (a : BitVec 12) (f : CtxCtl → CtxCtl) : (s.modCtl a f).clusters = s.clusters := rfl
@[simp] theorem State.modCtl_launches (s : State) (a : BitVec 12) (f : CtxCtl → CtxCtl) : (s.modCtl a f).launches = s.launches := rfl
@[simp] theorem State.modCtl_nextLaunchId (s : State) (a : BitVec 12) (f : CtxCtl → CtxCtl) : (s.modCtl a f).nextLaunchId = s.nextLaunchId := rfl
@[simp] theorem State.modCtl_launchTurn (s : State) (a : BitVec 12) (f : CtxCtl → CtxCtl) : (s.modCtl a f).launchTurn = s.launchTurn := rfl
@[simp] theorem State.modCtl_nextSeqNo (s : State) (a : BitVec 12) (f : CtxCtl → CtxCtl) : (s.modCtl a f).nextSeqNo = s.nextSeqNo := rfl
@[simp] theorem State.modCtl_nextUid (s : State) (a : BitVec 12) (f : CtxCtl → CtxCtl) : (s.modCtl a f).nextUid = s.nextUid := rfl
@[simp] theorem State.modCtl_saveCount (s : State) (a : BitVec 12) (f : CtxCtl → CtxCtl) : (s.modCtl a f).saveCount = s.saveCount := rfl
@[simp] theorem State.modCtl_adm (s : State) (a : BitVec 12) (f : CtxCtl → CtxCtl) : (s.modCtl a f).adm = s.adm := rfl
@[simp] theorem State.modCtl_cores (s : State) (a : BitVec 12) (f : CtxCtl → CtxCtl) : (s.modCtl a f).cores = s.cores := rfl
@[simp] theorem State.modCtl_predictors (s : State) (a : BitVec 12) (f : CtxCtl → CtxCtl) : (s.modCtl a f).predictors = s.predictors := rfl
@[simp] theorem State.modCtl_dies (s : State) (a : BitVec 12) (f : CtxCtl → CtxCtl) : (s.modCtl a f).dies = s.dies := rfl
@[simp] theorem State.modCtl_injected (s : State) (a : BitVec 12) (f : CtxCtl → CtxCtl) : (s.modCtl a f).injected = s.injected := rfl
@[simp] theorem State.modCtl_granted (s : State) (a : BitVec 12) (f : CtxCtl → CtxCtl) : (s.modCtl a f).granted = s.granted := rfl
@[simp] theorem State.modCtl_recalls (s : State) (a : BitVec 12) (f : CtxCtl → CtxCtl) : (s.modCtl a f).recalls = s.recalls := rfl
@[simp] theorem State.modCtl_blocks (s : State) (a : BitVec 12) (f : CtxCtl → CtxCtl) : (s.modCtl a f).blocks = s.blocks := rfl
@[simp] theorem State.modCtl_served (s : State) (a : BitVec 12) (f : CtxCtl → CtxCtl) : (s.modCtl a f).served = s.served := rfl
@[simp] theorem State.modCtl_energyAt (s : State) (a : BitVec 12) (f : CtxCtl → CtxCtl) : (s.modCtl a f).energyAt = s.energyAt := rfl
@[simp] theorem State.modCtl_commands (s : State) (a : BitVec 12) (f : CtxCtl → CtxCtl) : (s.modCtl a f).commands = s.commands := rfl
@[simp] theorem State.modCtl_nextCmd (s : State) (a : BitVec 12) (f : CtxCtl → CtxCtl) : (s.modCtl a f).nextCmd = s.nextCmd := rfl
@[simp] theorem State.modCtl_rays (s : State) (a : BitVec 12) (f : CtxCtl → CtxCtl) : (s.modCtl a f).rays = s.rays := rfl
@[simp] theorem State.modCtl_nextRay (s : State) (a : BitVec 12) (f : CtxCtl → CtxCtl) : (s.modCtl a f).nextRay = s.nextRay := rfl
@[simp] theorem State.modCtl_rayCounts (s : State) (a : BitVec 12) (f : CtxCtl → CtxCtl) : (s.modCtl a f).rayCounts = s.rayCounts := rfl
@[simp] theorem State.modCtl_ports (s : State) (a : BitVec 12) (f : CtxCtl → CtxCtl) : (s.modCtl a f).ports = s.ports := rfl
@[simp] theorem State.modCtl_links (s : State) (a : BitVec 12) (f : CtxCtl → CtxCtl) : (s.modCtl a f).links = s.links := rfl
@[simp] theorem State.modCtl_inbound (s : State) (a : BitVec 12) (f : CtxCtl → CtxCtl) : (s.modCtl a f).inbound = s.inbound := rfl
@[simp] theorem State.modCtl_slalia (s : State) (a : BitVec 12) (f : CtxCtl → CtxCtl) : (s.modCtl a f).slalia = s.slalia := rfl
@[simp] theorem State.modCtl_trace (s : State) (a : BitVec 12) (f : CtxCtl → CtxCtl) : (s.modCtl a f).trace = s.trace := rfl
@[simp] theorem State.modCtl_busy (s : State) (a : BitVec 12) (f : CtxCtl → CtxCtl) : (s.modCtl a f).busy = s.busy := rfl
@[simp] theorem State.modCtl_stallCnt (s : State) (a : BitVec 12) (f : CtxCtl → CtxCtl) : (s.modCtl a f).stallCnt = s.stallCnt := rfl
@[simp] theorem State.modCtl_latched (s : State) (a : BitVec 12) (f : CtxCtl → CtxCtl) : (s.modCtl a f).latched = s.latched := rfl
@[simp] theorem State.modCtl_busyNext (s : State) (a : BitVec 12) (f : CtxCtl → CtxCtl) : (s.modCtl a f).busyNext = s.busyNext := rfl
@[simp] theorem State.modCtl_stallNext (s : State) (a : BitVec 12) (f : CtxCtl → CtxCtl) : (s.modCtl a f).stallNext = s.stallNext := rfl
@[simp] theorem State.modCtl_filterAt (s : State) (a : BitVec 12) (f : CtxCtl → CtxCtl) : (s.modCtl a f).filterAt = s.filterAt := rfl
@[simp] theorem State.modCtl_points (s : State) (a : BitVec 12) (f : CtxCtl → CtxCtl) : (s.modCtl a f).points = s.points := rfl
@[simp] theorem State.modCtl_levels (s : State) (a : BitVec 12) (f : CtxCtl → CtxCtl) : (s.modCtl a f).levels = s.levels := rfl
@[simp] theorem State.modCtl_coolSince (s : State) (a : BitVec 12) (f : CtxCtl → CtxCtl) : (s.modCtl a f).coolSince = s.coolSince := rfl
@[simp] theorem State.modCtl_coolantBad (s : State) (a : BitVec 12) (f : CtxCtl → CtxCtl) : (s.modCtl a f).coolantBad = s.coolantBad := rfl
@[simp] theorem State.modCtl_sparing (s : State) (a : BitVec 12) (f : CtxCtl → CtxCtl) : (s.modCtl a f).sparing = s.sparing := rfl
@[simp] theorem State.modCtl_damage (s : State) (a : BitVec 12) (f : CtxCtl → CtxCtl) : (s.modCtl a f).damage = s.damage := rfl
@[simp] theorem State.modCtl_levelLogged (s : State) (a : BitVec 12) (f : CtxCtl → CtxCtl) : (s.modCtl a f).levelLogged = s.levelLogged := rfl
@[simp] theorem State.modCtl_hostReplies (s : State) (a : BitVec 12) (f : CtxCtl → CtxCtl) : (s.modCtl a f).hostReplies = s.hostReplies := rfl
@[simp] theorem State.modCtl_peerReplies (s : State) (a : BitVec 12) (f : CtxCtl → CtxCtl) : (s.modCtl a f).peerReplies = s.peerReplies := rfl
@[simp] theorem State.modCtl_outside (s : State) (a : BitVec 12) (f : CtxCtl → CtxCtl) : (s.modCtl a f).outside = s.outside := rfl
@[simp] theorem State.modCtl_homeWaits (s : State) (a : BitVec 12) (f : CtxCtl → CtxCtl) : (s.modCtl a f).homeWaits = s.homeWaits := rfl
@[simp] theorem State.modCtl_kept (s : State) (a : BitVec 12) (f : CtxCtl → CtxCtl) : (s.modCtl a f).kept = s.kept := rfl
@[simp] theorem State.modCtl_engWts (s : State) (a : BitVec 12) (f : CtxCtl → CtxCtl) : (s.modCtl a f).engWts = s.engWts := rfl
@[simp] theorem State.modCtl_sceneWts (s : State) (a : BitVec 12) (f : CtxCtl → CtxCtl) : (s.modCtl a f).sceneWts = s.sceneWts := rfl
@[simp] theorem State.modCtl_free (s : State) (a : BitVec 12) (f : CtxCtl → CtxCtl) : (s.modCtl a f).free = s.free := rfl
@[simp] theorem State.modCtl_agenda (s : State) (a : BitVec 12) (f : CtxCtl → CtxCtl) : (s.modCtl a f).agenda = s.agenda := rfl

@[simp] theorem State.modLaunch_clock (s : State) (n : Nat) (f : Launch → Launch) : (s.modLaunch n f).clock = s.clock := rfl
@[simp] theorem State.modLaunch_stage (s : State) (n : Nat) (f : Launch → Launch) : (s.modLaunch n f).stage = s.stage := rfl
@[simp] theorem State.modLaunch_bootFail (s : State) (n : Nat) (f : Launch → Launch) : (s.modLaunch n f).bootFail = s.bootFail := rfl
@[simp] theorem State.modLaunch_fwver (s : State) (n : Nat) (f : Launch → Launch) : (s.modLaunch n f).fwver = s.fwver := rfl
@[simp] theorem State.modLaunch_boots (s : State) (n : Nat) (f : Launch → Launch) : (s.modLaunch n f).boots = s.boots := rfl
@[simp] theorem State.modLaunch_repairs (s : State) (n : Nat) (f : Launch → Launch) : (s.modLaunch n f).repairs = s.repairs := rfl
@[simp] theorem State.modLaunch_mem (s : State) (n : Nat) (f : Launch → Launch) : (s.modLaunch n f).mem = s.mem := rfl
@[simp] theorem State.modLaunch_hostMem (s : State) (n : Nat) (f : Launch → Launch) : (s.modLaunch n f).hostMem = s.hostMem := rfl
@[simp] theorem State.modLaunch_hostPending (s : State) (n : Nat) (f : Launch → Launch) : (s.modLaunch n f).hostPending = s.hostPending := rfl
@[simp] theorem State.modLaunch_past (s : State) (n : Nat) (f : Launch → Launch) : (s.modLaunch n f).past = s.past := rfl
@[simp] theorem State.modLaunch_codeLog (s : State) (n : Nat) (f : Launch → Launch) : (s.modLaunch n f).codeLog = s.codeLog := rfl
@[simp] theorem State.modLaunch_peers (s : State) (n : Nat) (f : Launch → Launch) : (s.modLaunch n f).peers = s.peers := rfl
@[simp] theorem State.modLaunch_hub (s : State) (n : Nat) (f : Launch → Launch) : (s.modLaunch n f).hub = s.hub := rfl
@[simp] theorem State.modLaunch_ctxRes (s : State) (n : Nat) (f : Launch → Launch) : (s.modLaunch n f).ctxRes = s.ctxRes := rfl
@[simp] theorem State.modLaunch_cur (s : State) (n : Nat) (f : Launch → Launch) : (s.modLaunch n f).cur = s.cur := rfl
@[simp] theorem State.modLaunch_grp (s : State) (n : Nat) (f : Launch → Launch) : (s.modLaunch n f).grp = s.grp := rfl
@[simp] theorem State.modLaunch_team (s : State) (n : Nat) (f : Launch → Launch) : (s.modLaunch n f).team = s.team := rfl
@[simp] theorem State.modLaunch_teams (s : State) (n : Nat) (f : Launch → Launch) : (s.modLaunch n f).teams = s.teams := rfl
@[simp] theorem State.modLaunch_saved (s : State) (n : Nat) (f : Launch → Launch) : (s.modLaunch n f).saved = s.saved := rfl
@[simp] theorem State.modLaunch_clusters (s : State) (n : Nat) (f : Launch → Launch) : (s.modLaunch n f).clusters = s.clusters := rfl
@[simp] theorem State.modLaunch_nextLaunchId (s : State) (n : Nat) (f : Launch → Launch) : (s.modLaunch n f).nextLaunchId = s.nextLaunchId := rfl
@[simp] theorem State.modLaunch_launchTurn (s : State) (n : Nat) (f : Launch → Launch) : (s.modLaunch n f).launchTurn = s.launchTurn := rfl
@[simp] theorem State.modLaunch_nextSeqNo (s : State) (n : Nat) (f : Launch → Launch) : (s.modLaunch n f).nextSeqNo = s.nextSeqNo := rfl
@[simp] theorem State.modLaunch_nextUid (s : State) (n : Nat) (f : Launch → Launch) : (s.modLaunch n f).nextUid = s.nextUid := rfl
@[simp] theorem State.modLaunch_saveCount (s : State) (n : Nat) (f : Launch → Launch) : (s.modLaunch n f).saveCount = s.saveCount := rfl
@[simp] theorem State.modLaunch_adm (s : State) (n : Nat) (f : Launch → Launch) : (s.modLaunch n f).adm = s.adm := rfl
@[simp] theorem State.modLaunch_cores (s : State) (n : Nat) (f : Launch → Launch) : (s.modLaunch n f).cores = s.cores := rfl
@[simp] theorem State.modLaunch_predictors (s : State) (n : Nat) (f : Launch → Launch) : (s.modLaunch n f).predictors = s.predictors := rfl
@[simp] theorem State.modLaunch_dies (s : State) (n : Nat) (f : Launch → Launch) : (s.modLaunch n f).dies = s.dies := rfl
@[simp] theorem State.modLaunch_injected (s : State) (n : Nat) (f : Launch → Launch) : (s.modLaunch n f).injected = s.injected := rfl
@[simp] theorem State.modLaunch_granted (s : State) (n : Nat) (f : Launch → Launch) : (s.modLaunch n f).granted = s.granted := rfl
@[simp] theorem State.modLaunch_recalls (s : State) (n : Nat) (f : Launch → Launch) : (s.modLaunch n f).recalls = s.recalls := rfl
@[simp] theorem State.modLaunch_blocks (s : State) (n : Nat) (f : Launch → Launch) : (s.modLaunch n f).blocks = s.blocks := rfl
@[simp] theorem State.modLaunch_served (s : State) (n : Nat) (f : Launch → Launch) : (s.modLaunch n f).served = s.served := rfl
@[simp] theorem State.modLaunch_energyAt (s : State) (n : Nat) (f : Launch → Launch) : (s.modLaunch n f).energyAt = s.energyAt := rfl
@[simp] theorem State.modLaunch_commands (s : State) (n : Nat) (f : Launch → Launch) : (s.modLaunch n f).commands = s.commands := rfl
@[simp] theorem State.modLaunch_nextCmd (s : State) (n : Nat) (f : Launch → Launch) : (s.modLaunch n f).nextCmd = s.nextCmd := rfl
@[simp] theorem State.modLaunch_rays (s : State) (n : Nat) (f : Launch → Launch) : (s.modLaunch n f).rays = s.rays := rfl
@[simp] theorem State.modLaunch_nextRay (s : State) (n : Nat) (f : Launch → Launch) : (s.modLaunch n f).nextRay = s.nextRay := rfl
@[simp] theorem State.modLaunch_rayCounts (s : State) (n : Nat) (f : Launch → Launch) : (s.modLaunch n f).rayCounts = s.rayCounts := rfl
@[simp] theorem State.modLaunch_ports (s : State) (n : Nat) (f : Launch → Launch) : (s.modLaunch n f).ports = s.ports := rfl
@[simp] theorem State.modLaunch_links (s : State) (n : Nat) (f : Launch → Launch) : (s.modLaunch n f).links = s.links := rfl
@[simp] theorem State.modLaunch_inbound (s : State) (n : Nat) (f : Launch → Launch) : (s.modLaunch n f).inbound = s.inbound := rfl
@[simp] theorem State.modLaunch_slalia (s : State) (n : Nat) (f : Launch → Launch) : (s.modLaunch n f).slalia = s.slalia := rfl
@[simp] theorem State.modLaunch_trace (s : State) (n : Nat) (f : Launch → Launch) : (s.modLaunch n f).trace = s.trace := rfl
@[simp] theorem State.modLaunch_busy (s : State) (n : Nat) (f : Launch → Launch) : (s.modLaunch n f).busy = s.busy := rfl
@[simp] theorem State.modLaunch_stallCnt (s : State) (n : Nat) (f : Launch → Launch) : (s.modLaunch n f).stallCnt = s.stallCnt := rfl
@[simp] theorem State.modLaunch_latched (s : State) (n : Nat) (f : Launch → Launch) : (s.modLaunch n f).latched = s.latched := rfl
@[simp] theorem State.modLaunch_busyNext (s : State) (n : Nat) (f : Launch → Launch) : (s.modLaunch n f).busyNext = s.busyNext := rfl
@[simp] theorem State.modLaunch_stallNext (s : State) (n : Nat) (f : Launch → Launch) : (s.modLaunch n f).stallNext = s.stallNext := rfl
@[simp] theorem State.modLaunch_filterAt (s : State) (n : Nat) (f : Launch → Launch) : (s.modLaunch n f).filterAt = s.filterAt := rfl
@[simp] theorem State.modLaunch_points (s : State) (n : Nat) (f : Launch → Launch) : (s.modLaunch n f).points = s.points := rfl
@[simp] theorem State.modLaunch_levels (s : State) (n : Nat) (f : Launch → Launch) : (s.modLaunch n f).levels = s.levels := rfl
@[simp] theorem State.modLaunch_coolSince (s : State) (n : Nat) (f : Launch → Launch) : (s.modLaunch n f).coolSince = s.coolSince := rfl
@[simp] theorem State.modLaunch_coolantBad (s : State) (n : Nat) (f : Launch → Launch) : (s.modLaunch n f).coolantBad = s.coolantBad := rfl
@[simp] theorem State.modLaunch_sparing (s : State) (n : Nat) (f : Launch → Launch) : (s.modLaunch n f).sparing = s.sparing := rfl
@[simp] theorem State.modLaunch_damage (s : State) (n : Nat) (f : Launch → Launch) : (s.modLaunch n f).damage = s.damage := rfl
@[simp] theorem State.modLaunch_levelLogged (s : State) (n : Nat) (f : Launch → Launch) : (s.modLaunch n f).levelLogged = s.levelLogged := rfl
@[simp] theorem State.modLaunch_hostReplies (s : State) (n : Nat) (f : Launch → Launch) : (s.modLaunch n f).hostReplies = s.hostReplies := rfl
@[simp] theorem State.modLaunch_peerReplies (s : State) (n : Nat) (f : Launch → Launch) : (s.modLaunch n f).peerReplies = s.peerReplies := rfl
@[simp] theorem State.modLaunch_outside (s : State) (n : Nat) (f : Launch → Launch) : (s.modLaunch n f).outside = s.outside := rfl
@[simp] theorem State.modLaunch_homeWaits (s : State) (n : Nat) (f : Launch → Launch) : (s.modLaunch n f).homeWaits = s.homeWaits := rfl
@[simp] theorem State.modLaunch_kept (s : State) (n : Nat) (f : Launch → Launch) : (s.modLaunch n f).kept = s.kept := rfl
@[simp] theorem State.modLaunch_engWts (s : State) (n : Nat) (f : Launch → Launch) : (s.modLaunch n f).engWts = s.engWts := rfl
@[simp] theorem State.modLaunch_sceneWts (s : State) (n : Nat) (f : Launch → Launch) : (s.modLaunch n f).sceneWts = s.sceneWts := rfl
@[simp] theorem State.modLaunch_free (s : State) (n : Nat) (f : Launch → Launch) : (s.modLaunch n f).free = s.free := rfl
@[simp] theorem State.modLaunch_agenda (s : State) (n : Nat) (f : Launch → Launch) : (s.modLaunch n f).agenda = s.agenda := rfl

@[simp] theorem State.modCmd_clock (s : State) (n : Nat) (f : Command → Command) : (s.modCmd n f).clock = s.clock := rfl
@[simp] theorem State.modCmd_stage (s : State) (n : Nat) (f : Command → Command) : (s.modCmd n f).stage = s.stage := rfl
@[simp] theorem State.modCmd_bootFail (s : State) (n : Nat) (f : Command → Command) : (s.modCmd n f).bootFail = s.bootFail := rfl
@[simp] theorem State.modCmd_fwver (s : State) (n : Nat) (f : Command → Command) : (s.modCmd n f).fwver = s.fwver := rfl
@[simp] theorem State.modCmd_boots (s : State) (n : Nat) (f : Command → Command) : (s.modCmd n f).boots = s.boots := rfl
@[simp] theorem State.modCmd_repairs (s : State) (n : Nat) (f : Command → Command) : (s.modCmd n f).repairs = s.repairs := rfl
@[simp] theorem State.modCmd_mem (s : State) (n : Nat) (f : Command → Command) : (s.modCmd n f).mem = s.mem := rfl
@[simp] theorem State.modCmd_hostMem (s : State) (n : Nat) (f : Command → Command) : (s.modCmd n f).hostMem = s.hostMem := rfl
@[simp] theorem State.modCmd_hostPending (s : State) (n : Nat) (f : Command → Command) : (s.modCmd n f).hostPending = s.hostPending := rfl
@[simp] theorem State.modCmd_past (s : State) (n : Nat) (f : Command → Command) : (s.modCmd n f).past = s.past := rfl
@[simp] theorem State.modCmd_codeLog (s : State) (n : Nat) (f : Command → Command) : (s.modCmd n f).codeLog = s.codeLog := rfl
@[simp] theorem State.modCmd_peers (s : State) (n : Nat) (f : Command → Command) : (s.modCmd n f).peers = s.peers := rfl
@[simp] theorem State.modCmd_hub (s : State) (n : Nat) (f : Command → Command) : (s.modCmd n f).hub = s.hub := rfl
@[simp] theorem State.modCmd_ctxRes (s : State) (n : Nat) (f : Command → Command) : (s.modCmd n f).ctxRes = s.ctxRes := rfl
@[simp] theorem State.modCmd_cur (s : State) (n : Nat) (f : Command → Command) : (s.modCmd n f).cur = s.cur := rfl
@[simp] theorem State.modCmd_grp (s : State) (n : Nat) (f : Command → Command) : (s.modCmd n f).grp = s.grp := rfl
@[simp] theorem State.modCmd_team (s : State) (n : Nat) (f : Command → Command) : (s.modCmd n f).team = s.team := rfl
@[simp] theorem State.modCmd_teams (s : State) (n : Nat) (f : Command → Command) : (s.modCmd n f).teams = s.teams := rfl
@[simp] theorem State.modCmd_saved (s : State) (n : Nat) (f : Command → Command) : (s.modCmd n f).saved = s.saved := rfl
@[simp] theorem State.modCmd_clusters (s : State) (n : Nat) (f : Command → Command) : (s.modCmd n f).clusters = s.clusters := rfl
@[simp] theorem State.modCmd_launches (s : State) (n : Nat) (f : Command → Command) : (s.modCmd n f).launches = s.launches := rfl
@[simp] theorem State.modCmd_nextLaunchId (s : State) (n : Nat) (f : Command → Command) : (s.modCmd n f).nextLaunchId = s.nextLaunchId := rfl
@[simp] theorem State.modCmd_launchTurn (s : State) (n : Nat) (f : Command → Command) : (s.modCmd n f).launchTurn = s.launchTurn := rfl
@[simp] theorem State.modCmd_nextSeqNo (s : State) (n : Nat) (f : Command → Command) : (s.modCmd n f).nextSeqNo = s.nextSeqNo := rfl
@[simp] theorem State.modCmd_nextUid (s : State) (n : Nat) (f : Command → Command) : (s.modCmd n f).nextUid = s.nextUid := rfl
@[simp] theorem State.modCmd_saveCount (s : State) (n : Nat) (f : Command → Command) : (s.modCmd n f).saveCount = s.saveCount := rfl
@[simp] theorem State.modCmd_adm (s : State) (n : Nat) (f : Command → Command) : (s.modCmd n f).adm = s.adm := rfl
@[simp] theorem State.modCmd_cores (s : State) (n : Nat) (f : Command → Command) : (s.modCmd n f).cores = s.cores := rfl
@[simp] theorem State.modCmd_predictors (s : State) (n : Nat) (f : Command → Command) : (s.modCmd n f).predictors = s.predictors := rfl
@[simp] theorem State.modCmd_dies (s : State) (n : Nat) (f : Command → Command) : (s.modCmd n f).dies = s.dies := rfl
@[simp] theorem State.modCmd_injected (s : State) (n : Nat) (f : Command → Command) : (s.modCmd n f).injected = s.injected := rfl
@[simp] theorem State.modCmd_granted (s : State) (n : Nat) (f : Command → Command) : (s.modCmd n f).granted = s.granted := rfl
@[simp] theorem State.modCmd_recalls (s : State) (n : Nat) (f : Command → Command) : (s.modCmd n f).recalls = s.recalls := rfl
@[simp] theorem State.modCmd_blocks (s : State) (n : Nat) (f : Command → Command) : (s.modCmd n f).blocks = s.blocks := rfl
@[simp] theorem State.modCmd_served (s : State) (n : Nat) (f : Command → Command) : (s.modCmd n f).served = s.served := rfl
@[simp] theorem State.modCmd_energyAt (s : State) (n : Nat) (f : Command → Command) : (s.modCmd n f).energyAt = s.energyAt := rfl
@[simp] theorem State.modCmd_nextCmd (s : State) (n : Nat) (f : Command → Command) : (s.modCmd n f).nextCmd = s.nextCmd := rfl
@[simp] theorem State.modCmd_rays (s : State) (n : Nat) (f : Command → Command) : (s.modCmd n f).rays = s.rays := rfl
@[simp] theorem State.modCmd_nextRay (s : State) (n : Nat) (f : Command → Command) : (s.modCmd n f).nextRay = s.nextRay := rfl
@[simp] theorem State.modCmd_rayCounts (s : State) (n : Nat) (f : Command → Command) : (s.modCmd n f).rayCounts = s.rayCounts := rfl
@[simp] theorem State.modCmd_ports (s : State) (n : Nat) (f : Command → Command) : (s.modCmd n f).ports = s.ports := rfl
@[simp] theorem State.modCmd_links (s : State) (n : Nat) (f : Command → Command) : (s.modCmd n f).links = s.links := rfl
@[simp] theorem State.modCmd_inbound (s : State) (n : Nat) (f : Command → Command) : (s.modCmd n f).inbound = s.inbound := rfl
@[simp] theorem State.modCmd_slalia (s : State) (n : Nat) (f : Command → Command) : (s.modCmd n f).slalia = s.slalia := rfl
@[simp] theorem State.modCmd_trace (s : State) (n : Nat) (f : Command → Command) : (s.modCmd n f).trace = s.trace := rfl
@[simp] theorem State.modCmd_busy (s : State) (n : Nat) (f : Command → Command) : (s.modCmd n f).busy = s.busy := rfl
@[simp] theorem State.modCmd_stallCnt (s : State) (n : Nat) (f : Command → Command) : (s.modCmd n f).stallCnt = s.stallCnt := rfl
@[simp] theorem State.modCmd_latched (s : State) (n : Nat) (f : Command → Command) : (s.modCmd n f).latched = s.latched := rfl
@[simp] theorem State.modCmd_busyNext (s : State) (n : Nat) (f : Command → Command) : (s.modCmd n f).busyNext = s.busyNext := rfl
@[simp] theorem State.modCmd_stallNext (s : State) (n : Nat) (f : Command → Command) : (s.modCmd n f).stallNext = s.stallNext := rfl
@[simp] theorem State.modCmd_filterAt (s : State) (n : Nat) (f : Command → Command) : (s.modCmd n f).filterAt = s.filterAt := rfl
@[simp] theorem State.modCmd_points (s : State) (n : Nat) (f : Command → Command) : (s.modCmd n f).points = s.points := rfl
@[simp] theorem State.modCmd_levels (s : State) (n : Nat) (f : Command → Command) : (s.modCmd n f).levels = s.levels := rfl
@[simp] theorem State.modCmd_coolSince (s : State) (n : Nat) (f : Command → Command) : (s.modCmd n f).coolSince = s.coolSince := rfl
@[simp] theorem State.modCmd_coolantBad (s : State) (n : Nat) (f : Command → Command) : (s.modCmd n f).coolantBad = s.coolantBad := rfl
@[simp] theorem State.modCmd_sparing (s : State) (n : Nat) (f : Command → Command) : (s.modCmd n f).sparing = s.sparing := rfl
@[simp] theorem State.modCmd_damage (s : State) (n : Nat) (f : Command → Command) : (s.modCmd n f).damage = s.damage := rfl
@[simp] theorem State.modCmd_levelLogged (s : State) (n : Nat) (f : Command → Command) : (s.modCmd n f).levelLogged = s.levelLogged := rfl
@[simp] theorem State.modCmd_hostReplies (s : State) (n : Nat) (f : Command → Command) : (s.modCmd n f).hostReplies = s.hostReplies := rfl
@[simp] theorem State.modCmd_peerReplies (s : State) (n : Nat) (f : Command → Command) : (s.modCmd n f).peerReplies = s.peerReplies := rfl
@[simp] theorem State.modCmd_outside (s : State) (n : Nat) (f : Command → Command) : (s.modCmd n f).outside = s.outside := rfl
@[simp] theorem State.modCmd_homeWaits (s : State) (n : Nat) (f : Command → Command) : (s.modCmd n f).homeWaits = s.homeWaits := rfl
@[simp] theorem State.modCmd_kept (s : State) (n : Nat) (f : Command → Command) : (s.modCmd n f).kept = s.kept := rfl
@[simp] theorem State.modCmd_engWts (s : State) (n : Nat) (f : Command → Command) : (s.modCmd n f).engWts = s.engWts := rfl
@[simp] theorem State.modCmd_sceneWts (s : State) (n : Nat) (f : Command → Command) : (s.modCmd n f).sceneWts = s.sceneWts := rfl
@[simp] theorem State.modCmd_free (s : State) (n : Nat) (f : Command → Command) : (s.modCmd n f).free = s.free := rfl
@[simp] theorem State.modCmd_agenda (s : State) (n : Nat) (f : Command → Command) : (s.modCmd n f).agenda = s.agenda := rfl

@[simp] theorem State.modSaved_clock (s : State) (n : Nat) (f : SavedTeam → SavedTeam) : (s.modSaved n f).clock = s.clock := rfl
@[simp] theorem State.modSaved_stage (s : State) (n : Nat) (f : SavedTeam → SavedTeam) : (s.modSaved n f).stage = s.stage := rfl
@[simp] theorem State.modSaved_bootFail (s : State) (n : Nat) (f : SavedTeam → SavedTeam) : (s.modSaved n f).bootFail = s.bootFail := rfl
@[simp] theorem State.modSaved_fwver (s : State) (n : Nat) (f : SavedTeam → SavedTeam) : (s.modSaved n f).fwver = s.fwver := rfl
@[simp] theorem State.modSaved_boots (s : State) (n : Nat) (f : SavedTeam → SavedTeam) : (s.modSaved n f).boots = s.boots := rfl
@[simp] theorem State.modSaved_repairs (s : State) (n : Nat) (f : SavedTeam → SavedTeam) : (s.modSaved n f).repairs = s.repairs := rfl
@[simp] theorem State.modSaved_mem (s : State) (n : Nat) (f : SavedTeam → SavedTeam) : (s.modSaved n f).mem = s.mem := rfl
@[simp] theorem State.modSaved_hostMem (s : State) (n : Nat) (f : SavedTeam → SavedTeam) : (s.modSaved n f).hostMem = s.hostMem := rfl
@[simp] theorem State.modSaved_hostPending (s : State) (n : Nat) (f : SavedTeam → SavedTeam) : (s.modSaved n f).hostPending = s.hostPending := rfl
@[simp] theorem State.modSaved_past (s : State) (n : Nat) (f : SavedTeam → SavedTeam) : (s.modSaved n f).past = s.past := rfl
@[simp] theorem State.modSaved_codeLog (s : State) (n : Nat) (f : SavedTeam → SavedTeam) : (s.modSaved n f).codeLog = s.codeLog := rfl
@[simp] theorem State.modSaved_peers (s : State) (n : Nat) (f : SavedTeam → SavedTeam) : (s.modSaved n f).peers = s.peers := rfl
@[simp] theorem State.modSaved_hub (s : State) (n : Nat) (f : SavedTeam → SavedTeam) : (s.modSaved n f).hub = s.hub := rfl
@[simp] theorem State.modSaved_ctxRes (s : State) (n : Nat) (f : SavedTeam → SavedTeam) : (s.modSaved n f).ctxRes = s.ctxRes := rfl
@[simp] theorem State.modSaved_cur (s : State) (n : Nat) (f : SavedTeam → SavedTeam) : (s.modSaved n f).cur = s.cur := rfl
@[simp] theorem State.modSaved_grp (s : State) (n : Nat) (f : SavedTeam → SavedTeam) : (s.modSaved n f).grp = s.grp := rfl
@[simp] theorem State.modSaved_team (s : State) (n : Nat) (f : SavedTeam → SavedTeam) : (s.modSaved n f).team = s.team := rfl
@[simp] theorem State.modSaved_teams (s : State) (n : Nat) (f : SavedTeam → SavedTeam) : (s.modSaved n f).teams = s.teams := rfl
@[simp] theorem State.modSaved_clusters (s : State) (n : Nat) (f : SavedTeam → SavedTeam) : (s.modSaved n f).clusters = s.clusters := rfl
@[simp] theorem State.modSaved_launches (s : State) (n : Nat) (f : SavedTeam → SavedTeam) : (s.modSaved n f).launches = s.launches := rfl
@[simp] theorem State.modSaved_nextLaunchId (s : State) (n : Nat) (f : SavedTeam → SavedTeam) : (s.modSaved n f).nextLaunchId = s.nextLaunchId := rfl
@[simp] theorem State.modSaved_launchTurn (s : State) (n : Nat) (f : SavedTeam → SavedTeam) : (s.modSaved n f).launchTurn = s.launchTurn := rfl
@[simp] theorem State.modSaved_nextSeqNo (s : State) (n : Nat) (f : SavedTeam → SavedTeam) : (s.modSaved n f).nextSeqNo = s.nextSeqNo := rfl
@[simp] theorem State.modSaved_nextUid (s : State) (n : Nat) (f : SavedTeam → SavedTeam) : (s.modSaved n f).nextUid = s.nextUid := rfl
@[simp] theorem State.modSaved_saveCount (s : State) (n : Nat) (f : SavedTeam → SavedTeam) : (s.modSaved n f).saveCount = s.saveCount := rfl
@[simp] theorem State.modSaved_adm (s : State) (n : Nat) (f : SavedTeam → SavedTeam) : (s.modSaved n f).adm = s.adm := rfl
@[simp] theorem State.modSaved_cores (s : State) (n : Nat) (f : SavedTeam → SavedTeam) : (s.modSaved n f).cores = s.cores := rfl
@[simp] theorem State.modSaved_predictors (s : State) (n : Nat) (f : SavedTeam → SavedTeam) : (s.modSaved n f).predictors = s.predictors := rfl
@[simp] theorem State.modSaved_dies (s : State) (n : Nat) (f : SavedTeam → SavedTeam) : (s.modSaved n f).dies = s.dies := rfl
@[simp] theorem State.modSaved_injected (s : State) (n : Nat) (f : SavedTeam → SavedTeam) : (s.modSaved n f).injected = s.injected := rfl
@[simp] theorem State.modSaved_granted (s : State) (n : Nat) (f : SavedTeam → SavedTeam) : (s.modSaved n f).granted = s.granted := rfl
@[simp] theorem State.modSaved_recalls (s : State) (n : Nat) (f : SavedTeam → SavedTeam) : (s.modSaved n f).recalls = s.recalls := rfl
@[simp] theorem State.modSaved_blocks (s : State) (n : Nat) (f : SavedTeam → SavedTeam) : (s.modSaved n f).blocks = s.blocks := rfl
@[simp] theorem State.modSaved_served (s : State) (n : Nat) (f : SavedTeam → SavedTeam) : (s.modSaved n f).served = s.served := rfl
@[simp] theorem State.modSaved_energyAt (s : State) (n : Nat) (f : SavedTeam → SavedTeam) : (s.modSaved n f).energyAt = s.energyAt := rfl
@[simp] theorem State.modSaved_commands (s : State) (n : Nat) (f : SavedTeam → SavedTeam) : (s.modSaved n f).commands = s.commands := rfl
@[simp] theorem State.modSaved_nextCmd (s : State) (n : Nat) (f : SavedTeam → SavedTeam) : (s.modSaved n f).nextCmd = s.nextCmd := rfl
@[simp] theorem State.modSaved_rays (s : State) (n : Nat) (f : SavedTeam → SavedTeam) : (s.modSaved n f).rays = s.rays := rfl
@[simp] theorem State.modSaved_nextRay (s : State) (n : Nat) (f : SavedTeam → SavedTeam) : (s.modSaved n f).nextRay = s.nextRay := rfl
@[simp] theorem State.modSaved_rayCounts (s : State) (n : Nat) (f : SavedTeam → SavedTeam) : (s.modSaved n f).rayCounts = s.rayCounts := rfl
@[simp] theorem State.modSaved_ports (s : State) (n : Nat) (f : SavedTeam → SavedTeam) : (s.modSaved n f).ports = s.ports := rfl
@[simp] theorem State.modSaved_links (s : State) (n : Nat) (f : SavedTeam → SavedTeam) : (s.modSaved n f).links = s.links := rfl
@[simp] theorem State.modSaved_inbound (s : State) (n : Nat) (f : SavedTeam → SavedTeam) : (s.modSaved n f).inbound = s.inbound := rfl
@[simp] theorem State.modSaved_slalia (s : State) (n : Nat) (f : SavedTeam → SavedTeam) : (s.modSaved n f).slalia = s.slalia := rfl
@[simp] theorem State.modSaved_trace (s : State) (n : Nat) (f : SavedTeam → SavedTeam) : (s.modSaved n f).trace = s.trace := rfl
@[simp] theorem State.modSaved_busy (s : State) (n : Nat) (f : SavedTeam → SavedTeam) : (s.modSaved n f).busy = s.busy := rfl
@[simp] theorem State.modSaved_stallCnt (s : State) (n : Nat) (f : SavedTeam → SavedTeam) : (s.modSaved n f).stallCnt = s.stallCnt := rfl
@[simp] theorem State.modSaved_latched (s : State) (n : Nat) (f : SavedTeam → SavedTeam) : (s.modSaved n f).latched = s.latched := rfl
@[simp] theorem State.modSaved_busyNext (s : State) (n : Nat) (f : SavedTeam → SavedTeam) : (s.modSaved n f).busyNext = s.busyNext := rfl
@[simp] theorem State.modSaved_stallNext (s : State) (n : Nat) (f : SavedTeam → SavedTeam) : (s.modSaved n f).stallNext = s.stallNext := rfl
@[simp] theorem State.modSaved_filterAt (s : State) (n : Nat) (f : SavedTeam → SavedTeam) : (s.modSaved n f).filterAt = s.filterAt := rfl
@[simp] theorem State.modSaved_points (s : State) (n : Nat) (f : SavedTeam → SavedTeam) : (s.modSaved n f).points = s.points := rfl
@[simp] theorem State.modSaved_levels (s : State) (n : Nat) (f : SavedTeam → SavedTeam) : (s.modSaved n f).levels = s.levels := rfl
@[simp] theorem State.modSaved_coolSince (s : State) (n : Nat) (f : SavedTeam → SavedTeam) : (s.modSaved n f).coolSince = s.coolSince := rfl
@[simp] theorem State.modSaved_coolantBad (s : State) (n : Nat) (f : SavedTeam → SavedTeam) : (s.modSaved n f).coolantBad = s.coolantBad := rfl
@[simp] theorem State.modSaved_sparing (s : State) (n : Nat) (f : SavedTeam → SavedTeam) : (s.modSaved n f).sparing = s.sparing := rfl
@[simp] theorem State.modSaved_damage (s : State) (n : Nat) (f : SavedTeam → SavedTeam) : (s.modSaved n f).damage = s.damage := rfl
@[simp] theorem State.modSaved_levelLogged (s : State) (n : Nat) (f : SavedTeam → SavedTeam) : (s.modSaved n f).levelLogged = s.levelLogged := rfl
@[simp] theorem State.modSaved_hostReplies (s : State) (n : Nat) (f : SavedTeam → SavedTeam) : (s.modSaved n f).hostReplies = s.hostReplies := rfl
@[simp] theorem State.modSaved_peerReplies (s : State) (n : Nat) (f : SavedTeam → SavedTeam) : (s.modSaved n f).peerReplies = s.peerReplies := rfl
@[simp] theorem State.modSaved_outside (s : State) (n : Nat) (f : SavedTeam → SavedTeam) : (s.modSaved n f).outside = s.outside := rfl
@[simp] theorem State.modSaved_homeWaits (s : State) (n : Nat) (f : SavedTeam → SavedTeam) : (s.modSaved n f).homeWaits = s.homeWaits := rfl
@[simp] theorem State.modSaved_kept (s : State) (n : Nat) (f : SavedTeam → SavedTeam) : (s.modSaved n f).kept = s.kept := rfl
@[simp] theorem State.modSaved_engWts (s : State) (n : Nat) (f : SavedTeam → SavedTeam) : (s.modSaved n f).engWts = s.engWts := rfl
@[simp] theorem State.modSaved_sceneWts (s : State) (n : Nat) (f : SavedTeam → SavedTeam) : (s.modSaved n f).sceneWts = s.sceneWts := rfl
@[simp] theorem State.modSaved_free (s : State) (n : Nat) (f : SavedTeam → SavedTeam) : (s.modSaved n f).free = s.free := rfl
@[simp] theorem State.modSaved_agenda (s : State) (n : Nat) (f : SavedTeam → SavedTeam) : (s.modSaved n f).agenda = s.agenda := rfl

@[simp] theorem State.setRay_clock (s : State) (r : Ray) : (s.setRay r).clock = s.clock := rfl
@[simp] theorem State.setRay_stage (s : State) (r : Ray) : (s.setRay r).stage = s.stage := rfl
@[simp] theorem State.setRay_bootFail (s : State) (r : Ray) : (s.setRay r).bootFail = s.bootFail := rfl
@[simp] theorem State.setRay_fwver (s : State) (r : Ray) : (s.setRay r).fwver = s.fwver := rfl
@[simp] theorem State.setRay_boots (s : State) (r : Ray) : (s.setRay r).boots = s.boots := rfl
@[simp] theorem State.setRay_repairs (s : State) (r : Ray) : (s.setRay r).repairs = s.repairs := rfl
@[simp] theorem State.setRay_mem (s : State) (r : Ray) : (s.setRay r).mem = s.mem := rfl
@[simp] theorem State.setRay_hostMem (s : State) (r : Ray) : (s.setRay r).hostMem = s.hostMem := rfl
@[simp] theorem State.setRay_hostPending (s : State) (r : Ray) : (s.setRay r).hostPending = s.hostPending := rfl
@[simp] theorem State.setRay_past (s : State) (r : Ray) : (s.setRay r).past = s.past := rfl
@[simp] theorem State.setRay_codeLog (s : State) (r : Ray) : (s.setRay r).codeLog = s.codeLog := rfl
@[simp] theorem State.setRay_peers (s : State) (r : Ray) : (s.setRay r).peers = s.peers := rfl
@[simp] theorem State.setRay_hub (s : State) (r : Ray) : (s.setRay r).hub = s.hub := rfl
@[simp] theorem State.setRay_ctxRes (s : State) (r : Ray) : (s.setRay r).ctxRes = s.ctxRes := rfl
@[simp] theorem State.setRay_cur (s : State) (r : Ray) : (s.setRay r).cur = s.cur := rfl
@[simp] theorem State.setRay_grp (s : State) (r : Ray) : (s.setRay r).grp = s.grp := rfl
@[simp] theorem State.setRay_team (s : State) (r : Ray) : (s.setRay r).team = s.team := rfl
@[simp] theorem State.setRay_teams (s : State) (r : Ray) : (s.setRay r).teams = s.teams := rfl
@[simp] theorem State.setRay_saved (s : State) (r : Ray) : (s.setRay r).saved = s.saved := rfl
@[simp] theorem State.setRay_clusters (s : State) (r : Ray) : (s.setRay r).clusters = s.clusters := rfl
@[simp] theorem State.setRay_launches (s : State) (r : Ray) : (s.setRay r).launches = s.launches := rfl
@[simp] theorem State.setRay_nextLaunchId (s : State) (r : Ray) : (s.setRay r).nextLaunchId = s.nextLaunchId := rfl
@[simp] theorem State.setRay_launchTurn (s : State) (r : Ray) : (s.setRay r).launchTurn = s.launchTurn := rfl
@[simp] theorem State.setRay_nextSeqNo (s : State) (r : Ray) : (s.setRay r).nextSeqNo = s.nextSeqNo := rfl
@[simp] theorem State.setRay_nextUid (s : State) (r : Ray) : (s.setRay r).nextUid = s.nextUid := rfl
@[simp] theorem State.setRay_saveCount (s : State) (r : Ray) : (s.setRay r).saveCount = s.saveCount := rfl
@[simp] theorem State.setRay_adm (s : State) (r : Ray) : (s.setRay r).adm = s.adm := rfl
@[simp] theorem State.setRay_cores (s : State) (r : Ray) : (s.setRay r).cores = s.cores := rfl
@[simp] theorem State.setRay_predictors (s : State) (r : Ray) : (s.setRay r).predictors = s.predictors := rfl
@[simp] theorem State.setRay_dies (s : State) (r : Ray) : (s.setRay r).dies = s.dies := rfl
@[simp] theorem State.setRay_injected (s : State) (r : Ray) : (s.setRay r).injected = s.injected := rfl
@[simp] theorem State.setRay_granted (s : State) (r : Ray) : (s.setRay r).granted = s.granted := rfl
@[simp] theorem State.setRay_recalls (s : State) (r : Ray) : (s.setRay r).recalls = s.recalls := rfl
@[simp] theorem State.setRay_blocks (s : State) (r : Ray) : (s.setRay r).blocks = s.blocks := rfl
@[simp] theorem State.setRay_served (s : State) (r : Ray) : (s.setRay r).served = s.served := rfl
@[simp] theorem State.setRay_energyAt (s : State) (r : Ray) : (s.setRay r).energyAt = s.energyAt := rfl
@[simp] theorem State.setRay_commands (s : State) (r : Ray) : (s.setRay r).commands = s.commands := rfl
@[simp] theorem State.setRay_nextCmd (s : State) (r : Ray) : (s.setRay r).nextCmd = s.nextCmd := rfl
@[simp] theorem State.setRay_nextRay (s : State) (r : Ray) : (s.setRay r).nextRay = s.nextRay := rfl
@[simp] theorem State.setRay_rayCounts (s : State) (r : Ray) : (s.setRay r).rayCounts = s.rayCounts := rfl
@[simp] theorem State.setRay_ports (s : State) (r : Ray) : (s.setRay r).ports = s.ports := rfl
@[simp] theorem State.setRay_links (s : State) (r : Ray) : (s.setRay r).links = s.links := rfl
@[simp] theorem State.setRay_inbound (s : State) (r : Ray) : (s.setRay r).inbound = s.inbound := rfl
@[simp] theorem State.setRay_slalia (s : State) (r : Ray) : (s.setRay r).slalia = s.slalia := rfl
@[simp] theorem State.setRay_trace (s : State) (r : Ray) : (s.setRay r).trace = s.trace := rfl
@[simp] theorem State.setRay_busy (s : State) (r : Ray) : (s.setRay r).busy = s.busy := rfl
@[simp] theorem State.setRay_stallCnt (s : State) (r : Ray) : (s.setRay r).stallCnt = s.stallCnt := rfl
@[simp] theorem State.setRay_latched (s : State) (r : Ray) : (s.setRay r).latched = s.latched := rfl
@[simp] theorem State.setRay_busyNext (s : State) (r : Ray) : (s.setRay r).busyNext = s.busyNext := rfl
@[simp] theorem State.setRay_stallNext (s : State) (r : Ray) : (s.setRay r).stallNext = s.stallNext := rfl
@[simp] theorem State.setRay_filterAt (s : State) (r : Ray) : (s.setRay r).filterAt = s.filterAt := rfl
@[simp] theorem State.setRay_points (s : State) (r : Ray) : (s.setRay r).points = s.points := rfl
@[simp] theorem State.setRay_levels (s : State) (r : Ray) : (s.setRay r).levels = s.levels := rfl
@[simp] theorem State.setRay_coolSince (s : State) (r : Ray) : (s.setRay r).coolSince = s.coolSince := rfl
@[simp] theorem State.setRay_coolantBad (s : State) (r : Ray) : (s.setRay r).coolantBad = s.coolantBad := rfl
@[simp] theorem State.setRay_sparing (s : State) (r : Ray) : (s.setRay r).sparing = s.sparing := rfl
@[simp] theorem State.setRay_damage (s : State) (r : Ray) : (s.setRay r).damage = s.damage := rfl
@[simp] theorem State.setRay_levelLogged (s : State) (r : Ray) : (s.setRay r).levelLogged = s.levelLogged := rfl
@[simp] theorem State.setRay_hostReplies (s : State) (r : Ray) : (s.setRay r).hostReplies = s.hostReplies := rfl
@[simp] theorem State.setRay_peerReplies (s : State) (r : Ray) : (s.setRay r).peerReplies = s.peerReplies := rfl
@[simp] theorem State.setRay_outside (s : State) (r : Ray) : (s.setRay r).outside = s.outside := rfl
@[simp] theorem State.setRay_homeWaits (s : State) (r : Ray) : (s.setRay r).homeWaits = s.homeWaits := rfl
@[simp] theorem State.setRay_kept (s : State) (r : Ray) : (s.setRay r).kept = s.kept := rfl
@[simp] theorem State.setRay_engWts (s : State) (r : Ray) : (s.setRay r).engWts = s.engWts := rfl
@[simp] theorem State.setRay_sceneWts (s : State) (r : Ray) : (s.setRay r).sceneWts = s.sceneWts := rfl
@[simp] theorem State.setRay_free (s : State) (r : Ray) : (s.setRay r).free = s.free := rfl
@[simp] theorem State.setRay_agenda (s : State) (r : Ray) : (s.setRay r).agenda = s.agenda := rfl

@[simp] theorem State.modPipe_clock (s : State) (f : Pipe → Pipe) : (s.modPipe f).clock = s.clock := rfl
@[simp] theorem State.modPipe_stage (s : State) (f : Pipe → Pipe) : (s.modPipe f).stage = s.stage := rfl
@[simp] theorem State.modPipe_bootFail (s : State) (f : Pipe → Pipe) : (s.modPipe f).bootFail = s.bootFail := rfl
@[simp] theorem State.modPipe_fwver (s : State) (f : Pipe → Pipe) : (s.modPipe f).fwver = s.fwver := rfl
@[simp] theorem State.modPipe_boots (s : State) (f : Pipe → Pipe) : (s.modPipe f).boots = s.boots := rfl
@[simp] theorem State.modPipe_repairs (s : State) (f : Pipe → Pipe) : (s.modPipe f).repairs = s.repairs := rfl
@[simp] theorem State.modPipe_mem (s : State) (f : Pipe → Pipe) : (s.modPipe f).mem = s.mem := rfl
@[simp] theorem State.modPipe_hostMem (s : State) (f : Pipe → Pipe) : (s.modPipe f).hostMem = s.hostMem := rfl
@[simp] theorem State.modPipe_hostPending (s : State) (f : Pipe → Pipe) : (s.modPipe f).hostPending = s.hostPending := rfl
@[simp] theorem State.modPipe_past (s : State) (f : Pipe → Pipe) : (s.modPipe f).past = s.past := rfl
@[simp] theorem State.modPipe_codeLog (s : State) (f : Pipe → Pipe) : (s.modPipe f).codeLog = s.codeLog := rfl
@[simp] theorem State.modPipe_peers (s : State) (f : Pipe → Pipe) : (s.modPipe f).peers = s.peers := rfl
@[simp] theorem State.modPipe_hub (s : State) (f : Pipe → Pipe) : (s.modPipe f).hub = s.hub := rfl
@[simp] theorem State.modPipe_ctxRes (s : State) (f : Pipe → Pipe) : (s.modPipe f).ctxRes = s.ctxRes := rfl
@[simp] theorem State.modPipe_cur (s : State) (f : Pipe → Pipe) : (s.modPipe f).cur = s.cur := rfl
@[simp] theorem State.modPipe_grp (s : State) (f : Pipe → Pipe) : (s.modPipe f).grp = s.grp := rfl
@[simp] theorem State.modPipe_team (s : State) (f : Pipe → Pipe) : (s.modPipe f).team = s.team := rfl
@[simp] theorem State.modPipe_teams (s : State) (f : Pipe → Pipe) : (s.modPipe f).teams = s.teams := rfl
@[simp] theorem State.modPipe_saved (s : State) (f : Pipe → Pipe) : (s.modPipe f).saved = s.saved := rfl
@[simp] theorem State.modPipe_clusters (s : State) (f : Pipe → Pipe) : (s.modPipe f).clusters = s.clusters := rfl
@[simp] theorem State.modPipe_launches (s : State) (f : Pipe → Pipe) : (s.modPipe f).launches = s.launches := rfl
@[simp] theorem State.modPipe_nextLaunchId (s : State) (f : Pipe → Pipe) : (s.modPipe f).nextLaunchId = s.nextLaunchId := rfl
@[simp] theorem State.modPipe_launchTurn (s : State) (f : Pipe → Pipe) : (s.modPipe f).launchTurn = s.launchTurn := rfl
@[simp] theorem State.modPipe_nextSeqNo (s : State) (f : Pipe → Pipe) : (s.modPipe f).nextSeqNo = s.nextSeqNo := rfl
@[simp] theorem State.modPipe_nextUid (s : State) (f : Pipe → Pipe) : (s.modPipe f).nextUid = s.nextUid := rfl
@[simp] theorem State.modPipe_saveCount (s : State) (f : Pipe → Pipe) : (s.modPipe f).saveCount = s.saveCount := rfl
@[simp] theorem State.modPipe_adm (s : State) (f : Pipe → Pipe) : (s.modPipe f).adm = s.adm := rfl
@[simp] theorem State.modPipe_predictors (s : State) (f : Pipe → Pipe) : (s.modPipe f).predictors = s.predictors := rfl
@[simp] theorem State.modPipe_dies (s : State) (f : Pipe → Pipe) : (s.modPipe f).dies = s.dies := rfl
@[simp] theorem State.modPipe_injected (s : State) (f : Pipe → Pipe) : (s.modPipe f).injected = s.injected := rfl
@[simp] theorem State.modPipe_granted (s : State) (f : Pipe → Pipe) : (s.modPipe f).granted = s.granted := rfl
@[simp] theorem State.modPipe_recalls (s : State) (f : Pipe → Pipe) : (s.modPipe f).recalls = s.recalls := rfl
@[simp] theorem State.modPipe_blocks (s : State) (f : Pipe → Pipe) : (s.modPipe f).blocks = s.blocks := rfl
@[simp] theorem State.modPipe_served (s : State) (f : Pipe → Pipe) : (s.modPipe f).served = s.served := rfl
@[simp] theorem State.modPipe_energyAt (s : State) (f : Pipe → Pipe) : (s.modPipe f).energyAt = s.energyAt := rfl
@[simp] theorem State.modPipe_commands (s : State) (f : Pipe → Pipe) : (s.modPipe f).commands = s.commands := rfl
@[simp] theorem State.modPipe_nextCmd (s : State) (f : Pipe → Pipe) : (s.modPipe f).nextCmd = s.nextCmd := rfl
@[simp] theorem State.modPipe_rays (s : State) (f : Pipe → Pipe) : (s.modPipe f).rays = s.rays := rfl
@[simp] theorem State.modPipe_nextRay (s : State) (f : Pipe → Pipe) : (s.modPipe f).nextRay = s.nextRay := rfl
@[simp] theorem State.modPipe_rayCounts (s : State) (f : Pipe → Pipe) : (s.modPipe f).rayCounts = s.rayCounts := rfl
@[simp] theorem State.modPipe_ports (s : State) (f : Pipe → Pipe) : (s.modPipe f).ports = s.ports := rfl
@[simp] theorem State.modPipe_links (s : State) (f : Pipe → Pipe) : (s.modPipe f).links = s.links := rfl
@[simp] theorem State.modPipe_inbound (s : State) (f : Pipe → Pipe) : (s.modPipe f).inbound = s.inbound := rfl
@[simp] theorem State.modPipe_slalia (s : State) (f : Pipe → Pipe) : (s.modPipe f).slalia = s.slalia := rfl
@[simp] theorem State.modPipe_trace (s : State) (f : Pipe → Pipe) : (s.modPipe f).trace = s.trace := rfl
@[simp] theorem State.modPipe_busy (s : State) (f : Pipe → Pipe) : (s.modPipe f).busy = s.busy := rfl
@[simp] theorem State.modPipe_stallCnt (s : State) (f : Pipe → Pipe) : (s.modPipe f).stallCnt = s.stallCnt := rfl
@[simp] theorem State.modPipe_latched (s : State) (f : Pipe → Pipe) : (s.modPipe f).latched = s.latched := rfl
@[simp] theorem State.modPipe_busyNext (s : State) (f : Pipe → Pipe) : (s.modPipe f).busyNext = s.busyNext := rfl
@[simp] theorem State.modPipe_stallNext (s : State) (f : Pipe → Pipe) : (s.modPipe f).stallNext = s.stallNext := rfl
@[simp] theorem State.modPipe_filterAt (s : State) (f : Pipe → Pipe) : (s.modPipe f).filterAt = s.filterAt := rfl
@[simp] theorem State.modPipe_points (s : State) (f : Pipe → Pipe) : (s.modPipe f).points = s.points := rfl
@[simp] theorem State.modPipe_levels (s : State) (f : Pipe → Pipe) : (s.modPipe f).levels = s.levels := rfl
@[simp] theorem State.modPipe_coolSince (s : State) (f : Pipe → Pipe) : (s.modPipe f).coolSince = s.coolSince := rfl
@[simp] theorem State.modPipe_coolantBad (s : State) (f : Pipe → Pipe) : (s.modPipe f).coolantBad = s.coolantBad := rfl
@[simp] theorem State.modPipe_sparing (s : State) (f : Pipe → Pipe) : (s.modPipe f).sparing = s.sparing := rfl
@[simp] theorem State.modPipe_damage (s : State) (f : Pipe → Pipe) : (s.modPipe f).damage = s.damage := rfl
@[simp] theorem State.modPipe_levelLogged (s : State) (f : Pipe → Pipe) : (s.modPipe f).levelLogged = s.levelLogged := rfl
@[simp] theorem State.modPipe_hostReplies (s : State) (f : Pipe → Pipe) : (s.modPipe f).hostReplies = s.hostReplies := rfl
@[simp] theorem State.modPipe_peerReplies (s : State) (f : Pipe → Pipe) : (s.modPipe f).peerReplies = s.peerReplies := rfl
@[simp] theorem State.modPipe_outside (s : State) (f : Pipe → Pipe) : (s.modPipe f).outside = s.outside := rfl
@[simp] theorem State.modPipe_homeWaits (s : State) (f : Pipe → Pipe) : (s.modPipe f).homeWaits = s.homeWaits := rfl
@[simp] theorem State.modPipe_kept (s : State) (f : Pipe → Pipe) : (s.modPipe f).kept = s.kept := rfl
@[simp] theorem State.modPipe_engWts (s : State) (f : Pipe → Pipe) : (s.modPipe f).engWts = s.engWts := rfl
@[simp] theorem State.modPipe_sceneWts (s : State) (f : Pipe → Pipe) : (s.modPipe f).sceneWts = s.sceneWts := rfl
@[simp] theorem State.modPipe_free (s : State) (f : Pipe → Pipe) : (s.modPipe f).free = s.free := rfl
@[simp] theorem State.modPipe_agenda (s : State) (f : Pipe → Pipe) : (s.modPipe f).agenda = s.agenda := rfl

@[simp] theorem State.tick_stage (s : State) (n : Nat) : (s.tick n).stage = s.stage := rfl
@[simp] theorem State.tick_bootFail (s : State) (n : Nat) : (s.tick n).bootFail = s.bootFail := rfl
@[simp] theorem State.tick_fwver (s : State) (n : Nat) : (s.tick n).fwver = s.fwver := rfl
@[simp] theorem State.tick_boots (s : State) (n : Nat) : (s.tick n).boots = s.boots := rfl
@[simp] theorem State.tick_repairs (s : State) (n : Nat) : (s.tick n).repairs = s.repairs := rfl
@[simp] theorem State.tick_mem (s : State) (n : Nat) : (s.tick n).mem = s.mem := rfl
@[simp] theorem State.tick_hostMem (s : State) (n : Nat) : (s.tick n).hostMem = s.hostMem := rfl
@[simp] theorem State.tick_hostPending (s : State) (n : Nat) : (s.tick n).hostPending = s.hostPending := rfl
@[simp] theorem State.tick_past (s : State) (n : Nat) : (s.tick n).past = s.past := rfl
@[simp] theorem State.tick_codeLog (s : State) (n : Nat) : (s.tick n).codeLog = s.codeLog := rfl
@[simp] theorem State.tick_peers (s : State) (n : Nat) : (s.tick n).peers = s.peers := rfl
@[simp] theorem State.tick_hub (s : State) (n : Nat) : (s.tick n).hub = s.hub := rfl
@[simp] theorem State.tick_ctxRes (s : State) (n : Nat) : (s.tick n).ctxRes = s.ctxRes := rfl
@[simp] theorem State.tick_cur (s : State) (n : Nat) : (s.tick n).cur = s.cur := rfl
@[simp] theorem State.tick_saved (s : State) (n : Nat) : (s.tick n).saved = s.saved := rfl
@[simp] theorem State.tick_clusters (s : State) (n : Nat) : (s.tick n).clusters = s.clusters := rfl
@[simp] theorem State.tick_launches (s : State) (n : Nat) : (s.tick n).launches = s.launches := rfl
@[simp] theorem State.tick_nextLaunchId (s : State) (n : Nat) : (s.tick n).nextLaunchId = s.nextLaunchId := rfl
@[simp] theorem State.tick_launchTurn (s : State) (n : Nat) : (s.tick n).launchTurn = s.launchTurn := rfl
@[simp] theorem State.tick_nextSeqNo (s : State) (n : Nat) : (s.tick n).nextSeqNo = s.nextSeqNo := rfl
@[simp] theorem State.tick_nextUid (s : State) (n : Nat) : (s.tick n).nextUid = s.nextUid := rfl
@[simp] theorem State.tick_saveCount (s : State) (n : Nat) : (s.tick n).saveCount = s.saveCount := rfl
@[simp] theorem State.tick_adm (s : State) (n : Nat) : (s.tick n).adm = s.adm := rfl
@[simp] theorem State.tick_cores (s : State) (n : Nat) : (s.tick n).cores = s.cores := rfl
@[simp] theorem State.tick_predictors (s : State) (n : Nat) : (s.tick n).predictors = s.predictors := rfl
@[simp] theorem State.tick_dies (s : State) (n : Nat) : (s.tick n).dies = s.dies := rfl
@[simp] theorem State.tick_injected (s : State) (n : Nat) : (s.tick n).injected = s.injected := rfl
@[simp] theorem State.tick_granted (s : State) (n : Nat) : (s.tick n).granted = s.granted := rfl
@[simp] theorem State.tick_recalls (s : State) (n : Nat) : (s.tick n).recalls = s.recalls := rfl
@[simp] theorem State.tick_blocks (s : State) (n : Nat) : (s.tick n).blocks = s.blocks := rfl
@[simp] theorem State.tick_served (s : State) (n : Nat) : (s.tick n).served = s.served := rfl
@[simp] theorem State.tick_energyAt (s : State) (n : Nat) : (s.tick n).energyAt = s.energyAt := rfl
@[simp] theorem State.tick_commands (s : State) (n : Nat) : (s.tick n).commands = s.commands := rfl
@[simp] theorem State.tick_nextCmd (s : State) (n : Nat) : (s.tick n).nextCmd = s.nextCmd := rfl
@[simp] theorem State.tick_rays (s : State) (n : Nat) : (s.tick n).rays = s.rays := rfl
@[simp] theorem State.tick_nextRay (s : State) (n : Nat) : (s.tick n).nextRay = s.nextRay := rfl
@[simp] theorem State.tick_rayCounts (s : State) (n : Nat) : (s.tick n).rayCounts = s.rayCounts := rfl
@[simp] theorem State.tick_ports (s : State) (n : Nat) : (s.tick n).ports = s.ports := rfl
@[simp] theorem State.tick_links (s : State) (n : Nat) : (s.tick n).links = s.links := rfl
@[simp] theorem State.tick_inbound (s : State) (n : Nat) : (s.tick n).inbound = s.inbound := rfl
@[simp] theorem State.tick_slalia (s : State) (n : Nat) : (s.tick n).slalia = s.slalia := rfl
@[simp] theorem State.tick_trace (s : State) (n : Nat) : (s.tick n).trace = s.trace := rfl
@[simp] theorem State.tick_busy (s : State) (n : Nat) : (s.tick n).busy = s.busy := rfl
@[simp] theorem State.tick_latched (s : State) (n : Nat) : (s.tick n).latched = s.latched := rfl
@[simp] theorem State.tick_busyNext (s : State) (n : Nat) : (s.tick n).busyNext = s.busyNext := rfl
@[simp] theorem State.tick_filterAt (s : State) (n : Nat) : (s.tick n).filterAt = s.filterAt := rfl
@[simp] theorem State.tick_points (s : State) (n : Nat) : (s.tick n).points = s.points := rfl
@[simp] theorem State.tick_levels (s : State) (n : Nat) : (s.tick n).levels = s.levels := rfl
@[simp] theorem State.tick_coolSince (s : State) (n : Nat) : (s.tick n).coolSince = s.coolSince := rfl
@[simp] theorem State.tick_coolantBad (s : State) (n : Nat) : (s.tick n).coolantBad = s.coolantBad := rfl
@[simp] theorem State.tick_sparing (s : State) (n : Nat) : (s.tick n).sparing = s.sparing := rfl
@[simp] theorem State.tick_damage (s : State) (n : Nat) : (s.tick n).damage = s.damage := rfl
@[simp] theorem State.tick_levelLogged (s : State) (n : Nat) : (s.tick n).levelLogged = s.levelLogged := rfl
@[simp] theorem State.tick_hostReplies (s : State) (n : Nat) : (s.tick n).hostReplies = s.hostReplies := rfl
@[simp] theorem State.tick_peerReplies (s : State) (n : Nat) : (s.tick n).peerReplies = s.peerReplies := rfl
@[simp] theorem State.tick_outside (s : State) (n : Nat) : (s.tick n).outside = s.outside := rfl
@[simp] theorem State.tick_homeWaits (s : State) (n : Nat) : (s.tick n).homeWaits = s.homeWaits := rfl
@[simp] theorem State.tick_kept (s : State) (n : Nat) : (s.tick n).kept = s.kept := rfl
@[simp] theorem State.tick_engWts (s : State) (n : Nat) : (s.tick n).engWts = s.engWts := rfl
@[simp] theorem State.tick_sceneWts (s : State) (n : Nat) : (s.tick n).sceneWts = s.sceneWts := rfl
@[simp] theorem State.tick_free (s : State) (n : Nat) : (s.tick n).free = s.free := rfl
@[simp] theorem State.tick_agenda (s : State) (n : Nat) : (s.tick n).agenda = s.agenda := rfl

@[simp] theorem recount_clock (s : State) : (recount s).clock = s.clock := rfl
@[simp] theorem recount_stage (s : State) : (recount s).stage = s.stage := rfl
@[simp] theorem recount_bootFail (s : State) : (recount s).bootFail = s.bootFail := rfl
@[simp] theorem recount_fwver (s : State) : (recount s).fwver = s.fwver := rfl
@[simp] theorem recount_boots (s : State) : (recount s).boots = s.boots := rfl
@[simp] theorem recount_repairs (s : State) : (recount s).repairs = s.repairs := rfl
@[simp] theorem recount_mem (s : State) : (recount s).mem = s.mem := rfl
@[simp] theorem recount_hostMem (s : State) : (recount s).hostMem = s.hostMem := rfl
@[simp] theorem recount_hostPending (s : State) : (recount s).hostPending = s.hostPending := rfl
@[simp] theorem recount_past (s : State) : (recount s).past = s.past := rfl
@[simp] theorem recount_codeLog (s : State) : (recount s).codeLog = s.codeLog := rfl
@[simp] theorem recount_peers (s : State) : (recount s).peers = s.peers := rfl
@[simp] theorem recount_ctxRes (s : State) : (recount s).ctxRes = s.ctxRes := rfl
@[simp] theorem recount_cur (s : State) : (recount s).cur = s.cur := rfl
@[simp] theorem recount_grp (s : State) : (recount s).grp = s.grp := rfl
@[simp] theorem recount_team (s : State) : (recount s).team = s.team := rfl
@[simp] theorem recount_teams (s : State) : (recount s).teams = s.teams := rfl
@[simp] theorem recount_saved (s : State) : (recount s).saved = s.saved := rfl
@[simp] theorem recount_clusters (s : State) : (recount s).clusters = s.clusters := rfl
@[simp] theorem recount_launches (s : State) : (recount s).launches = s.launches := rfl
@[simp] theorem recount_nextLaunchId (s : State) : (recount s).nextLaunchId = s.nextLaunchId := rfl
@[simp] theorem recount_launchTurn (s : State) : (recount s).launchTurn = s.launchTurn := rfl
@[simp] theorem recount_nextSeqNo (s : State) : (recount s).nextSeqNo = s.nextSeqNo := rfl
@[simp] theorem recount_nextUid (s : State) : (recount s).nextUid = s.nextUid := rfl
@[simp] theorem recount_saveCount (s : State) : (recount s).saveCount = s.saveCount := rfl
@[simp] theorem recount_adm (s : State) : (recount s).adm = s.adm := rfl
@[simp] theorem recount_cores (s : State) : (recount s).cores = s.cores := rfl
@[simp] theorem recount_predictors (s : State) : (recount s).predictors = s.predictors := rfl
@[simp] theorem recount_dies (s : State) : (recount s).dies = s.dies := rfl
@[simp] theorem recount_injected (s : State) : (recount s).injected = s.injected := rfl
@[simp] theorem recount_granted (s : State) : (recount s).granted = s.granted := rfl
@[simp] theorem recount_recalls (s : State) : (recount s).recalls = s.recalls := rfl
@[simp] theorem recount_blocks (s : State) : (recount s).blocks = s.blocks := rfl
@[simp] theorem recount_served (s : State) : (recount s).served = s.served := rfl
@[simp] theorem recount_energyAt (s : State) : (recount s).energyAt = s.energyAt := rfl
@[simp] theorem recount_commands (s : State) : (recount s).commands = s.commands := rfl
@[simp] theorem recount_nextCmd (s : State) : (recount s).nextCmd = s.nextCmd := rfl
@[simp] theorem recount_rays (s : State) : (recount s).rays = s.rays := rfl
@[simp] theorem recount_nextRay (s : State) : (recount s).nextRay = s.nextRay := rfl
@[simp] theorem recount_rayCounts (s : State) : (recount s).rayCounts = s.rayCounts := rfl
@[simp] theorem recount_ports (s : State) : (recount s).ports = s.ports := rfl
@[simp] theorem recount_links (s : State) : (recount s).links = s.links := rfl
@[simp] theorem recount_inbound (s : State) : (recount s).inbound = s.inbound := rfl
@[simp] theorem recount_slalia (s : State) : (recount s).slalia = s.slalia := rfl
@[simp] theorem recount_trace (s : State) : (recount s).trace = s.trace := rfl
@[simp] theorem recount_busy (s : State) : (recount s).busy = s.busy := rfl
@[simp] theorem recount_stallCnt (s : State) : (recount s).stallCnt = s.stallCnt := rfl
@[simp] theorem recount_latched (s : State) : (recount s).latched = s.latched := rfl
@[simp] theorem recount_busyNext (s : State) : (recount s).busyNext = s.busyNext := rfl
@[simp] theorem recount_stallNext (s : State) : (recount s).stallNext = s.stallNext := rfl
@[simp] theorem recount_filterAt (s : State) : (recount s).filterAt = s.filterAt := rfl
@[simp] theorem recount_points (s : State) : (recount s).points = s.points := rfl
@[simp] theorem recount_levels (s : State) : (recount s).levels = s.levels := rfl
@[simp] theorem recount_coolSince (s : State) : (recount s).coolSince = s.coolSince := rfl
@[simp] theorem recount_coolantBad (s : State) : (recount s).coolantBad = s.coolantBad := rfl
@[simp] theorem recount_sparing (s : State) : (recount s).sparing = s.sparing := rfl
@[simp] theorem recount_damage (s : State) : (recount s).damage = s.damage := rfl
@[simp] theorem recount_levelLogged (s : State) : (recount s).levelLogged = s.levelLogged := rfl
@[simp] theorem recount_hostReplies (s : State) : (recount s).hostReplies = s.hostReplies := rfl
@[simp] theorem recount_peerReplies (s : State) : (recount s).peerReplies = s.peerReplies := rfl
@[simp] theorem recount_outside (s : State) : (recount s).outside = s.outside := rfl
@[simp] theorem recount_homeWaits (s : State) : (recount s).homeWaits = s.homeWaits := rfl
@[simp] theorem recount_kept (s : State) : (recount s).kept = s.kept := rfl
@[simp] theorem recount_engWts (s : State) : (recount s).engWts = s.engWts := rfl
@[simp] theorem recount_sceneWts (s : State) : (recount s).sceneWts = s.sceneWts := rfl
@[simp] theorem recount_free (s : State) : (recount s).free = s.free := rfl
@[simp] theorem recount_agenda (s : State) : (recount s).agenda = s.agenda := rfl

@[simp] theorem State.modGrp_grp (s : State) (f : Group → Group) : (s.modGrp f).grp = f s.grp := rfl
@[simp] theorem State.tick_clock (s : State) (n : Nat) : (s.tick n).clock = s.clock + n := rfl
@[simp] theorem State.tick_grp (s : State) (n : Nat) : (s.tick n).grp = tickGroup s n s.team s.grp := rfl

/-- Stall counts that rise over a list change nothing else of a group. -/
theorem Group.countOver_eq (cls : Nat → Option Nat) (l : List (Nat × Nat)) (g : Group) :
    ∃ st, g.countOver cls l = { g with stall := st } := by
  unfold Group.countOver
  induction l generalizing g with
  | nil => exact ⟨g.stall, rfl⟩
  | cons a r ih =>
    simp only [List.foldl_cons]
    cases cls a.1 with
    | none => exact ih g
    | some c =>
      obtain ⟨st, h⟩ := ih (g.countStall c a.2)
      exact ⟨st, by dsimp only; rw [h]; unfold Group.countStall; split <;> rfl⟩

/-- Clocks that pass change of a group its stall counts, what is still in flight or to be undone, and which returned values are available. -/
theorem tickGroup_eq (s : State) (n : Nat) (t : Team) (g : Group) :
    tickGroup s n t g = { g with stall := (tickGroup s n t g).stall, flight := (tickGroup s n t g).flight, undo := (tickGroup s n t g).undo,
                                 ret := (tickGroup s n t g).ret } := by
  have hp (g : Group) (k : Nat) : g.passTo k = { g with flight := (g.passTo k).flight, undo := (g.passTo k).undo, ret := (g.passTo k).ret } := rfl
  unfold tickGroup; dsimp only; rw [hp]
  split
  · rfl
  · obtain ⟨st, h⟩ := Group.countOver_eq (fun k => stallClass s k t g) (classSpans s n t.core g.quad) g
    rw [h]

@[simp] theorem Group.setV_gidx (g : Group) (n l : Nat) (x : Word) : (g.setV n l x).gidx = g.gidx := rfl
@[simp] theorem Group.setV_role (g : Group) (n l : Nat) (x : Word) : (g.setV n l x).role = g.role := rfl
@[simp] theorem Group.setV_nregs (g : Group) (n l : Nat) (x : Word) : (g.setV n l x).nregs = g.nregs := rfl
@[simp] theorem Group.setV_quad (g : Group) (n l : Nat) (x : Word) : (g.setV n l x).quad = g.quad := rfl
@[simp] theorem Group.setV_gslot (g : Group) (n l : Nat) (x : Word) : (g.setV n l x).gslot = g.gslot := rfl
@[simp] theorem Group.setV_live (g : Group) (n l : Nat) (x : Word) : (g.setV n l x).live = g.live := rfl
@[simp] theorem Group.setV_p (g : Group) (n l : Nat) (x : Word) : (g.setV n l x).p = g.p := rfl
@[simp] theorem Group.setV_x (g : Group) (n l : Nat) (x : Word) : (g.setV n l x).x = g.x := rfl
@[simp] theorem Group.setV_s (g : Group) (n l : Nat) (x : Word) : (g.setV n l x).s = g.s := rfl
@[simp] theorem Group.setV_c (g : Group) (n l : Nat) (x : Word) : (g.setV n l x).c = g.c := rfl
@[simp] theorem Group.setV_frontier (g : Group) (n l : Nat) (x : Word) : (g.setV n l x).frontier = g.frontier := rfl
@[simp] theorem Group.setV_j (g : Group) (n l : Nat) (x : Word) : (g.setV n l x).j = g.j := rfl
@[simp] theorem Group.setV_frames (g : Group) (n l : Nat) (x : Word) : (g.setV n l x).frames = g.frames := rfl
@[simp] theorem Group.setV_fwd (g : Group) (n l : Nat) (x : Word) : (g.setV n l x).fwd = g.fwd := rfl
@[simp] theorem Group.setV_ret (g : Group) (n l : Nat) (x : Word) : (g.setV n l x).ret = g.ret := rfl
@[simp] theorem Group.setV_commit (g : Group) (n l : Nat) (x : Word) : (g.setV n l x).commit = g.commit := rfl
@[simp] theorem Group.setV_owed (g : Group) (n l : Nat) (x : Word) : (g.setV n l x).owed = g.owed := rfl
@[simp] theorem Group.setV_pend (g : Group) (n l : Nat) (x : Word) : (g.setV n l x).pend = g.pend := rfl
@[simp] theorem Group.setV_popped (g : Group) (n l : Nat) (x : Word) : (g.setV n l x).popped = g.popped := rfl
@[simp] theorem Group.setV_held (g : Group) (n l : Nat) (x : Word) : (g.setV n l x).held = g.held := rfl
@[simp] theorem Group.setV_undo (g : Group) (n l : Nat) (x : Word) : (g.setV n l x).undo = g.undo := rfl
@[simp] theorem Group.setV_flight (g : Group) (n l : Nat) (x : Word) : (g.setV n l x).flight = g.flight := rfl
@[simp] theorem Group.setV_awaits (g : Group) (n l : Nat) (x : Word) : (g.setV n l x).awaits = g.awaits := rfl
@[simp] theorem Group.setV_ctl (g : Group) (n l : Nat) (x : Word) : (g.setV n l x).ctl = g.ctl := rfl
@[simp] theorem Group.setV_trail (g : Group) (n l : Nat) (x : Word) : (g.setV n l x).trail = g.trail := rfl
@[simp] theorem Group.setV_closed (g : Group) (n l : Nat) (x : Word) : (g.setV n l x).closed = g.closed := rfl
@[simp] theorem Group.setV_yielded (g : Group) (n l : Nat) (x : Word) : (g.setV n l x).yielded = g.yielded := rfl
@[simp] theorem Group.setV_nextSeq (g : Group) (n l : Nat) (x : Word) : (g.setV n l x).nextSeq = g.nextSeq := rfl
@[simp] theorem Group.setV_runNo (g : Group) (n l : Nat) (x : Word) : (g.setV n l x).runNo = g.runNo := rfl
@[simp] theorem Group.setV_runLen (g : Group) (n l : Nat) (x : Word) : (g.setV n l x).runLen = g.runLen := rfl
@[simp] theorem Group.setV_pipeRun (g : Group) (n l : Nat) (x : Word) : (g.setV n l x).pipeRun = g.pipeRun := rfl
@[simp] theorem Group.setV_helmClk (g : Group) (n l : Nat) (x : Word) : (g.setV n l x).helmClk = g.helmClk := rfl
@[simp] theorem Group.setV_parkClk (g : Group) (n l : Nat) (x : Word) : (g.setV n l x).parkClk = g.parkClk := rfl
@[simp] theorem Group.setV_age (g : Group) (n l : Nat) (x : Word) : (g.setV n l x).age = g.age := rfl
@[simp] theorem Group.setV_urgent (g : Group) (n l : Nat) (x : Word) : (g.setV n l x).urgent = g.urgent := rfl
@[simp] theorem Group.setV_wait (g : Group) (n l : Nat) (x : Word) : (g.setV n l x).wait = g.wait := rfl
@[simp] theorem Group.setV_homeGone (g : Group) (n l : Nat) (x : Word) : (g.setV n l x).homeGone = g.homeGone := rfl
@[simp] theorem Group.setV_fault (g : Group) (n l : Nat) (x : Word) : (g.setV n l x).fault = g.fault := rfl
@[simp] theorem Group.setV_pendFault (g : Group) (n l : Nat) (x : Word) : (g.setV n l x).pendFault = g.pendFault := rfl
@[simp] theorem Group.setV_gang (g : Group) (n l : Nat) (x : Word) : (g.setV n l x).gang = g.gang := rfl
@[simp] theorem Group.setV_promHi (g : Group) (n l : Nat) (x : Word) : (g.setV n l x).promHi = g.promHi := rfl
@[simp] theorem Group.setV_bars (g : Group) (n l : Nat) (x : Word) : (g.setV n l x).bars = g.bars := rfl
@[simp] theorem Group.setV_stall (g : Group) (n l : Nat) (x : Word) : (g.setV n l x).stall = g.stall := rfl
@[simp] theorem Group.setV_stallExtra (g : Group) (n l : Nat) (x : Word) : (g.setV n l x).stallExtra = g.stallExtra := rfl
@[simp] theorem Group.setV_units (g : Group) (n l : Nat) (x : Word) : (g.setV n l x).units = g.units := rfl
@[simp] theorem Group.setV_passBreak (g : Group) (n l : Nat) (x : Word) : (g.setV n l x).passBreak = g.passBreak := rfl
@[simp] theorem Group.setV_stepping (g : Group) (n l : Nat) (x : Word) : (g.setV n l x).stepping = g.stepping := rfl
@[simp] theorem Group.setV_passSeq (g : Group) (n l : Nat) (x : Word) : (g.setV n l x).passSeq = g.passSeq := rfl
@[simp] theorem Group.setV_strictAt (g : Group) (n l : Nat) (x : Word) : (g.setV n l x).strictAt = g.strictAt := rfl

@[simp] theorem Group.setS_gidx (g : Group) (n : Nat) (x : Word) : (g.setS n x).gidx = g.gidx := rfl
@[simp] theorem Group.setS_role (g : Group) (n : Nat) (x : Word) : (g.setS n x).role = g.role := rfl
@[simp] theorem Group.setS_nregs (g : Group) (n : Nat) (x : Word) : (g.setS n x).nregs = g.nregs := rfl
@[simp] theorem Group.setS_quad (g : Group) (n : Nat) (x : Word) : (g.setS n x).quad = g.quad := rfl
@[simp] theorem Group.setS_gslot (g : Group) (n : Nat) (x : Word) : (g.setS n x).gslot = g.gslot := rfl
@[simp] theorem Group.setS_live (g : Group) (n : Nat) (x : Word) : (g.setS n x).live = g.live := rfl
@[simp] theorem Group.setS_v (g : Group) (n : Nat) (x : Word) : (g.setS n x).v = g.v := rfl
@[simp] theorem Group.setS_p (g : Group) (n : Nat) (x : Word) : (g.setS n x).p = g.p := rfl
@[simp] theorem Group.setS_x (g : Group) (n : Nat) (x : Word) : (g.setS n x).x = g.x := rfl
@[simp] theorem Group.setS_c (g : Group) (n : Nat) (x : Word) : (g.setS n x).c = g.c := rfl
@[simp] theorem Group.setS_frontier (g : Group) (n : Nat) (x : Word) : (g.setS n x).frontier = g.frontier := rfl
@[simp] theorem Group.setS_j (g : Group) (n : Nat) (x : Word) : (g.setS n x).j = g.j := rfl
@[simp] theorem Group.setS_frames (g : Group) (n : Nat) (x : Word) : (g.setS n x).frames = g.frames := rfl
@[simp] theorem Group.setS_fwd (g : Group) (n : Nat) (x : Word) : (g.setS n x).fwd = g.fwd := rfl
@[simp] theorem Group.setS_ret (g : Group) (n : Nat) (x : Word) : (g.setS n x).ret = g.ret := rfl
@[simp] theorem Group.setS_commit (g : Group) (n : Nat) (x : Word) : (g.setS n x).commit = g.commit := rfl
@[simp] theorem Group.setS_owed (g : Group) (n : Nat) (x : Word) : (g.setS n x).owed = g.owed := rfl
@[simp] theorem Group.setS_pend (g : Group) (n : Nat) (x : Word) : (g.setS n x).pend = g.pend := rfl
@[simp] theorem Group.setS_popped (g : Group) (n : Nat) (x : Word) : (g.setS n x).popped = g.popped := rfl
@[simp] theorem Group.setS_held (g : Group) (n : Nat) (x : Word) : (g.setS n x).held = g.held := rfl
@[simp] theorem Group.setS_undo (g : Group) (n : Nat) (x : Word) : (g.setS n x).undo = g.undo := rfl
@[simp] theorem Group.setS_flight (g : Group) (n : Nat) (x : Word) : (g.setS n x).flight = g.flight := rfl
@[simp] theorem Group.setS_awaits (g : Group) (n : Nat) (x : Word) : (g.setS n x).awaits = g.awaits := rfl
@[simp] theorem Group.setS_ctl (g : Group) (n : Nat) (x : Word) : (g.setS n x).ctl = g.ctl := rfl
@[simp] theorem Group.setS_trail (g : Group) (n : Nat) (x : Word) : (g.setS n x).trail = g.trail := rfl
@[simp] theorem Group.setS_closed (g : Group) (n : Nat) (x : Word) : (g.setS n x).closed = g.closed := rfl
@[simp] theorem Group.setS_yielded (g : Group) (n : Nat) (x : Word) : (g.setS n x).yielded = g.yielded := rfl
@[simp] theorem Group.setS_nextSeq (g : Group) (n : Nat) (x : Word) : (g.setS n x).nextSeq = g.nextSeq := rfl
@[simp] theorem Group.setS_runNo (g : Group) (n : Nat) (x : Word) : (g.setS n x).runNo = g.runNo := rfl
@[simp] theorem Group.setS_runLen (g : Group) (n : Nat) (x : Word) : (g.setS n x).runLen = g.runLen := rfl
@[simp] theorem Group.setS_pipeRun (g : Group) (n : Nat) (x : Word) : (g.setS n x).pipeRun = g.pipeRun := rfl
@[simp] theorem Group.setS_helmClk (g : Group) (n : Nat) (x : Word) : (g.setS n x).helmClk = g.helmClk := rfl
@[simp] theorem Group.setS_parkClk (g : Group) (n : Nat) (x : Word) : (g.setS n x).parkClk = g.parkClk := rfl
@[simp] theorem Group.setS_age (g : Group) (n : Nat) (x : Word) : (g.setS n x).age = g.age := rfl
@[simp] theorem Group.setS_urgent (g : Group) (n : Nat) (x : Word) : (g.setS n x).urgent = g.urgent := rfl
@[simp] theorem Group.setS_wait (g : Group) (n : Nat) (x : Word) : (g.setS n x).wait = g.wait := rfl
@[simp] theorem Group.setS_homeGone (g : Group) (n : Nat) (x : Word) : (g.setS n x).homeGone = g.homeGone := rfl
@[simp] theorem Group.setS_fault (g : Group) (n : Nat) (x : Word) : (g.setS n x).fault = g.fault := rfl
@[simp] theorem Group.setS_pendFault (g : Group) (n : Nat) (x : Word) : (g.setS n x).pendFault = g.pendFault := rfl
@[simp] theorem Group.setS_gang (g : Group) (n : Nat) (x : Word) : (g.setS n x).gang = g.gang := rfl
@[simp] theorem Group.setS_promHi (g : Group) (n : Nat) (x : Word) : (g.setS n x).promHi = g.promHi := rfl
@[simp] theorem Group.setS_bars (g : Group) (n : Nat) (x : Word) : (g.setS n x).bars = g.bars := rfl
@[simp] theorem Group.setS_stall (g : Group) (n : Nat) (x : Word) : (g.setS n x).stall = g.stall := rfl
@[simp] theorem Group.setS_stallExtra (g : Group) (n : Nat) (x : Word) : (g.setS n x).stallExtra = g.stallExtra := rfl
@[simp] theorem Group.setS_units (g : Group) (n : Nat) (x : Word) : (g.setS n x).units = g.units := rfl
@[simp] theorem Group.setS_passBreak (g : Group) (n : Nat) (x : Word) : (g.setS n x).passBreak = g.passBreak := rfl
@[simp] theorem Group.setS_stepping (g : Group) (n : Nat) (x : Word) : (g.setS n x).stepping = g.stepping := rfl
@[simp] theorem Group.setS_passSeq (g : Group) (n : Nat) (x : Word) : (g.setS n x).passSeq = g.passSeq := rfl
@[simp] theorem Group.setS_strictAt (g : Group) (n : Nat) (x : Word) : (g.setS n x).strictAt = g.strictAt := rfl

@[simp] theorem Group.addPend_gidx (g : Group) (w : PendWrite) : (g.addPend w).gidx = g.gidx := rfl
@[simp] theorem Group.addPend_role (g : Group) (w : PendWrite) : (g.addPend w).role = g.role := rfl
@[simp] theorem Group.addPend_nregs (g : Group) (w : PendWrite) : (g.addPend w).nregs = g.nregs := rfl
@[simp] theorem Group.addPend_quad (g : Group) (w : PendWrite) : (g.addPend w).quad = g.quad := rfl
@[simp] theorem Group.addPend_gslot (g : Group) (w : PendWrite) : (g.addPend w).gslot = g.gslot := rfl
@[simp] theorem Group.addPend_live (g : Group) (w : PendWrite) : (g.addPend w).live = g.live := rfl
@[simp] theorem Group.addPend_v (g : Group) (w : PendWrite) : (g.addPend w).v = g.v := rfl
@[simp] theorem Group.addPend_p (g : Group) (w : PendWrite) : (g.addPend w).p = g.p := rfl
@[simp] theorem Group.addPend_x (g : Group) (w : PendWrite) : (g.addPend w).x = g.x := rfl
@[simp] theorem Group.addPend_s (g : Group) (w : PendWrite) : (g.addPend w).s = g.s := rfl
@[simp] theorem Group.addPend_c (g : Group) (w : PendWrite) : (g.addPend w).c = g.c := rfl
@[simp] theorem Group.addPend_frontier (g : Group) (w : PendWrite) : (g.addPend w).frontier = g.frontier := rfl
@[simp] theorem Group.addPend_j (g : Group) (w : PendWrite) : (g.addPend w).j = g.j := rfl
@[simp] theorem Group.addPend_frames (g : Group) (w : PendWrite) : (g.addPend w).frames = g.frames := rfl
@[simp] theorem Group.addPend_fwd (g : Group) (w : PendWrite) : (g.addPend w).fwd = g.fwd := rfl
@[simp] theorem Group.addPend_ret (g : Group) (w : PendWrite) : (g.addPend w).ret = g.ret := rfl
@[simp] theorem Group.addPend_commit (g : Group) (w : PendWrite) : (g.addPend w).commit = g.commit := rfl
@[simp] theorem Group.addPend_owed (g : Group) (w : PendWrite) : (g.addPend w).owed = g.owed := rfl
@[simp] theorem Group.addPend_popped (g : Group) (w : PendWrite) : (g.addPend w).popped = g.popped := rfl
@[simp] theorem Group.addPend_held (g : Group) (w : PendWrite) : (g.addPend w).held = g.held := rfl
@[simp] theorem Group.addPend_undo (g : Group) (w : PendWrite) : (g.addPend w).undo = g.undo := rfl
@[simp] theorem Group.addPend_flight (g : Group) (w : PendWrite) : (g.addPend w).flight = g.flight := rfl
@[simp] theorem Group.addPend_awaits (g : Group) (w : PendWrite) : (g.addPend w).awaits = g.awaits := rfl
@[simp] theorem Group.addPend_ctl (g : Group) (w : PendWrite) : (g.addPend w).ctl = g.ctl := rfl
@[simp] theorem Group.addPend_trail (g : Group) (w : PendWrite) : (g.addPend w).trail = g.trail := rfl
@[simp] theorem Group.addPend_closed (g : Group) (w : PendWrite) : (g.addPend w).closed = g.closed := rfl
@[simp] theorem Group.addPend_yielded (g : Group) (w : PendWrite) : (g.addPend w).yielded = g.yielded := rfl
@[simp] theorem Group.addPend_nextSeq (g : Group) (w : PendWrite) : (g.addPend w).nextSeq = g.nextSeq := rfl
@[simp] theorem Group.addPend_runNo (g : Group) (w : PendWrite) : (g.addPend w).runNo = g.runNo := rfl
@[simp] theorem Group.addPend_runLen (g : Group) (w : PendWrite) : (g.addPend w).runLen = g.runLen := rfl
@[simp] theorem Group.addPend_pipeRun (g : Group) (w : PendWrite) : (g.addPend w).pipeRun = g.pipeRun := rfl
@[simp] theorem Group.addPend_helmClk (g : Group) (w : PendWrite) : (g.addPend w).helmClk = g.helmClk := rfl
@[simp] theorem Group.addPend_parkClk (g : Group) (w : PendWrite) : (g.addPend w).parkClk = g.parkClk := rfl
@[simp] theorem Group.addPend_age (g : Group) (w : PendWrite) : (g.addPend w).age = g.age := rfl
@[simp] theorem Group.addPend_urgent (g : Group) (w : PendWrite) : (g.addPend w).urgent = g.urgent := rfl
@[simp] theorem Group.addPend_wait (g : Group) (w : PendWrite) : (g.addPend w).wait = g.wait := rfl
@[simp] theorem Group.addPend_homeGone (g : Group) (w : PendWrite) : (g.addPend w).homeGone = g.homeGone := rfl
@[simp] theorem Group.addPend_fault (g : Group) (w : PendWrite) : (g.addPend w).fault = g.fault := rfl
@[simp] theorem Group.addPend_pendFault (g : Group) (w : PendWrite) : (g.addPend w).pendFault = g.pendFault := rfl
@[simp] theorem Group.addPend_gang (g : Group) (w : PendWrite) : (g.addPend w).gang = g.gang := rfl
@[simp] theorem Group.addPend_promHi (g : Group) (w : PendWrite) : (g.addPend w).promHi = g.promHi := rfl
@[simp] theorem Group.addPend_bars (g : Group) (w : PendWrite) : (g.addPend w).bars = g.bars := rfl
@[simp] theorem Group.addPend_stall (g : Group) (w : PendWrite) : (g.addPend w).stall = g.stall := rfl
@[simp] theorem Group.addPend_stallExtra (g : Group) (w : PendWrite) : (g.addPend w).stallExtra = g.stallExtra := rfl
@[simp] theorem Group.addPend_units (g : Group) (w : PendWrite) : (g.addPend w).units = g.units := rfl
@[simp] theorem Group.addPend_passBreak (g : Group) (w : PendWrite) : (g.addPend w).passBreak = g.passBreak := rfl
@[simp] theorem Group.addPend_stepping (g : Group) (w : PendWrite) : (g.addPend w).stepping = g.stepping := rfl
@[simp] theorem Group.addPend_passSeq (g : Group) (w : PendWrite) : (g.addPend w).passSeq = g.passSeq := rfl
@[simp] theorem Group.addPend_strictAt (g : Group) (w : PendWrite) : (g.addPend w).strictAt = g.strictAt := rfl

@[simp] theorem Group.setFlow_gidx (g : Group) (f : Flow) : (g.setFlow f).gidx = g.gidx := rfl
@[simp] theorem Group.setFlow_role (g : Group) (f : Flow) : (g.setFlow f).role = g.role := rfl
@[simp] theorem Group.setFlow_nregs (g : Group) (f : Flow) : (g.setFlow f).nregs = g.nregs := rfl
@[simp] theorem Group.setFlow_quad (g : Group) (f : Flow) : (g.setFlow f).quad = g.quad := rfl
@[simp] theorem Group.setFlow_gslot (g : Group) (f : Flow) : (g.setFlow f).gslot = g.gslot := rfl
@[simp] theorem Group.setFlow_live (g : Group) (f : Flow) : (g.setFlow f).live = g.live := rfl
@[simp] theorem Group.setFlow_v (g : Group) (f : Flow) : (g.setFlow f).v = g.v := rfl
@[simp] theorem Group.setFlow_p (g : Group) (f : Flow) : (g.setFlow f).p = g.p := rfl
@[simp] theorem Group.setFlow_x (g : Group) (f : Flow) : (g.setFlow f).x = g.x := rfl
@[simp] theorem Group.setFlow_s (g : Group) (f : Flow) : (g.setFlow f).s = g.s := rfl
@[simp] theorem Group.setFlow_c (g : Group) (f : Flow) : (g.setFlow f).c = g.c := rfl
@[simp] theorem Group.setFlow_fwd (g : Group) (f : Flow) : (g.setFlow f).fwd = g.fwd := rfl
@[simp] theorem Group.setFlow_ret (g : Group) (f : Flow) : (g.setFlow f).ret = g.ret := rfl
@[simp] theorem Group.setFlow_commit (g : Group) (f : Flow) : (g.setFlow f).commit = g.commit := rfl
@[simp] theorem Group.setFlow_owed (g : Group) (f : Flow) : (g.setFlow f).owed = g.owed := rfl
@[simp] theorem Group.setFlow_pend (g : Group) (f : Flow) : (g.setFlow f).pend = g.pend := rfl
@[simp] theorem Group.setFlow_popped (g : Group) (f : Flow) : (g.setFlow f).popped = g.popped := rfl
@[simp] theorem Group.setFlow_held (g : Group) (f : Flow) : (g.setFlow f).held = g.held := rfl
@[simp] theorem Group.setFlow_undo (g : Group) (f : Flow) : (g.setFlow f).undo = g.undo := rfl
@[simp] theorem Group.setFlow_flight (g : Group) (f : Flow) : (g.setFlow f).flight = g.flight := rfl
@[simp] theorem Group.setFlow_awaits (g : Group) (f : Flow) : (g.setFlow f).awaits = g.awaits := rfl
@[simp] theorem Group.setFlow_ctl (g : Group) (f : Flow) : (g.setFlow f).ctl = g.ctl := rfl
@[simp] theorem Group.setFlow_trail (g : Group) (f : Flow) : (g.setFlow f).trail = g.trail := rfl
@[simp] theorem Group.setFlow_closed (g : Group) (f : Flow) : (g.setFlow f).closed = g.closed := rfl
@[simp] theorem Group.setFlow_yielded (g : Group) (f : Flow) : (g.setFlow f).yielded = g.yielded := rfl
@[simp] theorem Group.setFlow_nextSeq (g : Group) (f : Flow) : (g.setFlow f).nextSeq = g.nextSeq := rfl
@[simp] theorem Group.setFlow_runNo (g : Group) (f : Flow) : (g.setFlow f).runNo = g.runNo := rfl
@[simp] theorem Group.setFlow_runLen (g : Group) (f : Flow) : (g.setFlow f).runLen = g.runLen := rfl
@[simp] theorem Group.setFlow_pipeRun (g : Group) (f : Flow) : (g.setFlow f).pipeRun = g.pipeRun := rfl
@[simp] theorem Group.setFlow_helmClk (g : Group) (f : Flow) : (g.setFlow f).helmClk = g.helmClk := rfl
@[simp] theorem Group.setFlow_parkClk (g : Group) (f : Flow) : (g.setFlow f).parkClk = g.parkClk := rfl
@[simp] theorem Group.setFlow_age (g : Group) (f : Flow) : (g.setFlow f).age = g.age := rfl
@[simp] theorem Group.setFlow_urgent (g : Group) (f : Flow) : (g.setFlow f).urgent = g.urgent := rfl
@[simp] theorem Group.setFlow_wait (g : Group) (f : Flow) : (g.setFlow f).wait = g.wait := rfl
@[simp] theorem Group.setFlow_homeGone (g : Group) (f : Flow) : (g.setFlow f).homeGone = g.homeGone := rfl
@[simp] theorem Group.setFlow_fault (g : Group) (f : Flow) : (g.setFlow f).fault = g.fault := rfl
@[simp] theorem Group.setFlow_pendFault (g : Group) (f : Flow) : (g.setFlow f).pendFault = g.pendFault := rfl
@[simp] theorem Group.setFlow_gang (g : Group) (f : Flow) : (g.setFlow f).gang = g.gang := rfl
@[simp] theorem Group.setFlow_promHi (g : Group) (f : Flow) : (g.setFlow f).promHi = g.promHi := rfl
@[simp] theorem Group.setFlow_bars (g : Group) (f : Flow) : (g.setFlow f).bars = g.bars := rfl
@[simp] theorem Group.setFlow_stall (g : Group) (f : Flow) : (g.setFlow f).stall = g.stall := rfl
@[simp] theorem Group.setFlow_stallExtra (g : Group) (f : Flow) : (g.setFlow f).stallExtra = g.stallExtra := rfl
@[simp] theorem Group.setFlow_units (g : Group) (f : Flow) : (g.setFlow f).units = g.units := rfl
@[simp] theorem Group.setFlow_passBreak (g : Group) (f : Flow) : (g.setFlow f).passBreak = g.passBreak := rfl
@[simp] theorem Group.setFlow_stepping (g : Group) (f : Flow) : (g.setFlow f).stepping = g.stepping := rfl
@[simp] theorem Group.setFlow_passSeq (g : Group) (f : Flow) : (g.setFlow f).passSeq = g.passSeq := rfl
@[simp] theorem Group.setFlow_strictAt (g : Group) (f : Flow) : (g.setFlow f).strictAt = g.strictAt := rfl

@[simp] theorem Group.trimUndo_gidx (g : Group) : g.trimUndo.gidx = g.gidx := rfl
@[simp] theorem Group.trimUndo_role (g : Group) : g.trimUndo.role = g.role := rfl
@[simp] theorem Group.trimUndo_nregs (g : Group) : g.trimUndo.nregs = g.nregs := rfl
@[simp] theorem Group.trimUndo_quad (g : Group) : g.trimUndo.quad = g.quad := rfl
@[simp] theorem Group.trimUndo_gslot (g : Group) : g.trimUndo.gslot = g.gslot := rfl
@[simp] theorem Group.trimUndo_live (g : Group) : g.trimUndo.live = g.live := rfl
@[simp] theorem Group.trimUndo_v (g : Group) : g.trimUndo.v = g.v := rfl
@[simp] theorem Group.trimUndo_p (g : Group) : g.trimUndo.p = g.p := rfl
@[simp] theorem Group.trimUndo_x (g : Group) : g.trimUndo.x = g.x := rfl
@[simp] theorem Group.trimUndo_s (g : Group) : g.trimUndo.s = g.s := rfl
@[simp] theorem Group.trimUndo_c (g : Group) : g.trimUndo.c = g.c := rfl
@[simp] theorem Group.trimUndo_frontier (g : Group) : g.trimUndo.frontier = g.frontier := rfl
@[simp] theorem Group.trimUndo_j (g : Group) : g.trimUndo.j = g.j := rfl
@[simp] theorem Group.trimUndo_frames (g : Group) : g.trimUndo.frames = g.frames := rfl
@[simp] theorem Group.trimUndo_fwd (g : Group) : g.trimUndo.fwd = g.fwd := rfl
@[simp] theorem Group.trimUndo_ret (g : Group) : g.trimUndo.ret = g.ret := rfl
@[simp] theorem Group.trimUndo_commit (g : Group) : g.trimUndo.commit = g.commit := rfl
@[simp] theorem Group.trimUndo_owed (g : Group) : g.trimUndo.owed = g.owed := rfl
@[simp] theorem Group.trimUndo_pend (g : Group) : g.trimUndo.pend = g.pend := rfl
@[simp] theorem Group.trimUndo_popped (g : Group) : g.trimUndo.popped = g.popped := rfl
@[simp] theorem Group.trimUndo_held (g : Group) : g.trimUndo.held = g.held := rfl
@[simp] theorem Group.trimUndo_flight (g : Group) : g.trimUndo.flight = g.flight := rfl
@[simp] theorem Group.trimUndo_awaits (g : Group) : g.trimUndo.awaits = g.awaits := rfl
@[simp] theorem Group.trimUndo_ctl (g : Group) : g.trimUndo.ctl = g.ctl := rfl
@[simp] theorem Group.trimUndo_trail (g : Group) : g.trimUndo.trail = g.trail := rfl
@[simp] theorem Group.trimUndo_closed (g : Group) : g.trimUndo.closed = g.closed := rfl
@[simp] theorem Group.trimUndo_yielded (g : Group) : g.trimUndo.yielded = g.yielded := rfl
@[simp] theorem Group.trimUndo_nextSeq (g : Group) : g.trimUndo.nextSeq = g.nextSeq := rfl
@[simp] theorem Group.trimUndo_runNo (g : Group) : g.trimUndo.runNo = g.runNo := rfl
@[simp] theorem Group.trimUndo_runLen (g : Group) : g.trimUndo.runLen = g.runLen := rfl
@[simp] theorem Group.trimUndo_pipeRun (g : Group) : g.trimUndo.pipeRun = g.pipeRun := rfl
@[simp] theorem Group.trimUndo_helmClk (g : Group) : g.trimUndo.helmClk = g.helmClk := rfl
@[simp] theorem Group.trimUndo_parkClk (g : Group) : g.trimUndo.parkClk = g.parkClk := rfl
@[simp] theorem Group.trimUndo_age (g : Group) : g.trimUndo.age = g.age := rfl
@[simp] theorem Group.trimUndo_urgent (g : Group) : g.trimUndo.urgent = g.urgent := rfl
@[simp] theorem Group.trimUndo_wait (g : Group) : g.trimUndo.wait = g.wait := rfl
@[simp] theorem Group.trimUndo_homeGone (g : Group) : g.trimUndo.homeGone = g.homeGone := rfl
@[simp] theorem Group.trimUndo_fault (g : Group) : g.trimUndo.fault = g.fault := rfl
@[simp] theorem Group.trimUndo_pendFault (g : Group) : g.trimUndo.pendFault = g.pendFault := rfl
@[simp] theorem Group.trimUndo_gang (g : Group) : g.trimUndo.gang = g.gang := rfl
@[simp] theorem Group.trimUndo_promHi (g : Group) : g.trimUndo.promHi = g.promHi := rfl
@[simp] theorem Group.trimUndo_bars (g : Group) : g.trimUndo.bars = g.bars := rfl
@[simp] theorem Group.trimUndo_stall (g : Group) : g.trimUndo.stall = g.stall := rfl
@[simp] theorem Group.trimUndo_stallExtra (g : Group) : g.trimUndo.stallExtra = g.stallExtra := rfl
@[simp] theorem Group.trimUndo_units (g : Group) : g.trimUndo.units = g.units := rfl
@[simp] theorem Group.trimUndo_passBreak (g : Group) : g.trimUndo.passBreak = g.passBreak := rfl
@[simp] theorem Group.trimUndo_stepping (g : Group) : g.trimUndo.stepping = g.stepping := rfl
@[simp] theorem Group.trimUndo_passSeq (g : Group) : g.trimUndo.passSeq = g.passSeq := rfl
@[simp] theorem Group.trimUndo_strictAt (g : Group) : g.trimUndo.strictAt = g.strictAt := rfl

end Sys2Proof.Machine
end

