-- ==== Sys2Proof/Laws/Uniform.lean ====
section
/-!
SUPPORT. What the operations that uniform words share can do: a register write through the commit buffer, a move of the lanes.
-/
namespace Sys2Proof.Machine

@[simp] theorem memoriesKept_refl (s : State) : memoriesKept s s := ⟨fun _ => rfl, fun _ => rfl, fun _ _ => rfl⟩

theorem memoriesKept_of_eq {s t : State} (h1 : t.mem = s.mem) (h2 : t.hostMem = s.hostMem) (h3 : t.peers = s.peers) : memoriesKept s t := by
  refine ⟨fun a => ?_, fun a => ?_, fun m a => ?_⟩
  · rw [h1]
  · rw [h2]
  · rw [h3]

/-- With older words only in the buffer, nothing outstanding means an empty buffer. -/
theorem commit_nil_of_quiet {s : State} (ho : ∀ e ∈ s.grp.commit, e.cur.seq < s.cur.seq) (hq : quiet s = true) : s.grp.commit = [] := by
  unfold quiet olderOutstanding at hq
  cases hc : s.grp.commit with
  | nil => rfl
  | cons e r =>
    have := ho e (by simp [hc])
    simp [hc, this] at hq

theorem look_foldl_setS (sw : List (Nat × Word)) : ∀ (g : Group) (n : Nat),
    (∀ w ∈ sw, ∀ x ∈ sw, w.1 = x.1 → w = x) →
    look (sw.foldl (fun g w => g.setS w.1 w.2) g).s n 0 = ((sw.find? fun w => w.1 = n).map fun w => w.2).getD (look g.s n 0) := by
  induction sw with
  | nil => intro g n _; rfl
  | cons w r ih =>
    intro g n hu
    have hr : ∀ x ∈ r, ∀ y ∈ r, x.1 = y.1 → x = y := fun x hx y hy => hu x (by simp [hx]) y (by simp [hy])
    rw [List.foldl_cons, ih _ _ hr]
    by_cases h : w.1 = n
    · simp only [List.find?, h, decide_true, Option.map_some, Option.getD_some]
      cases hf : r.find? fun x => decide (x.1 = n) with
      | none => simp [Group.setS]
      | some y =>
        have hy := List.mem_of_find?_eq_some hf
        have he : y.1 = n := by simpa using List.find?_some hf
        have := hu w (by simp) y (by simp [hy]) (by rw [h, he])
        simp [this]
    · simp only [List.find?, h, decide_false]
      rw [Group.setS, look_put_ne h]

theorem setC_bit (g : Group) (k n : Nat) (b : Bool) (hk : k < 8) (hn : n < 7) :
    (g.setC k b).c.getLsbD n = if k = n then b else g.c.getLsbD n := by
  unfold Group.setC
  split
  · subst k; rw [if_neg (by omega)]
  · have hb : ∀ k < 8, ∀ i < 8, (BitVec.ofNat 8 (2 ^ k)).getLsbD i = decide (k = i) := by decide
    have h := hb k hk n (by omega)
    cases b
    · simp only [Bool.false_eq_true, if_false, BitVec.getLsbD_and, BitVec.getLsbD_not, h]
      by_cases e : k = n <;> simp [e, show n < 8 by omega]
    · simp only [if_true, BitVec.getLsbD_or, h]
      by_cases e : k = n <;> simp [e]

theorem setC_s (g : Group) (k : Nat) (b : Bool) : (g.setC k b).s = g.s := by unfold Group.setC; split <;> rfl

theorem foldl_setC_s (cw : List (Nat × Bool)) : ∀ g : Group, (cw.foldl (fun g w => g.setC w.1 w.2) g).s = g.s := by
  induction cw with
  | nil => intro g; rfl
  | cons w r ih => intro g; rw [List.foldl_cons, ih, setC_s]

theorem foldl_setS_c (sw : List (Nat × Word)) : ∀ g : Group, (sw.foldl (fun g w => g.setS w.1 w.2) g).c = g.c := by
  induction sw with
  | nil => intro g; rfl
  | cons w r ih => intro g; rw [List.foldl_cons, ih]; rfl

/-- Register writes touch s and c alone. -/
theorem writeRegs_frame (g : Group) (sw : List (Nat × Word)) (cw : List (Nat × Bool)) :
    g.writeRegs sw cw = { g with s := (g.writeRegs sw cw).s, c := (g.writeRegs sw cw).c } := by
  have h1 : ∀ (sw : List (Nat × Word)) (g : Group), ∃ x, sw.foldl (fun g w => g.setS w.1 w.2) g = { g with s := x } := by
    intro sw
    induction sw with
    | nil => intro g; exact ⟨g.s, rfl⟩
    | cons w r ih => intro g; obtain ⟨x, hx⟩ := ih (g.setS w.1 w.2); exact ⟨x, by rw [List.foldl_cons, hx]; rfl⟩
  have h2 : ∀ (cw : List (Nat × Bool)) (g : Group), ∃ x, cw.foldl (fun g w => g.setC w.1 w.2) g = { g with c := x } := by
    intro cw
    induction cw with
    | nil => intro g; exact ⟨g.c, rfl⟩
    | cons w r ih =>
      intro g; obtain ⟨x, hx⟩ := ih (g.setC w.1 w.2)
      refine ⟨x, ?_⟩; rw [List.foldl_cons, hx]; unfold Group.setC; split <;> rfl
  obtain ⟨x, hx⟩ := h1 sw g
  obtain ⟨y, hy⟩ := h2 cw { g with s := x }
  unfold Group.writeRegs; rw [hx, hy]

theorem look_foldl_setC (cw : List (Nat × Bool)) (n : Nat) (hn : n < 7) : ∀ (g : Group),
    (∀ w ∈ cw, w.1 < 8) → (∀ w ∈ cw, ∀ x ∈ cw, w.1 = x.1 → w = x) →
    (cw.foldl (fun g w => g.setC w.1 w.2) g).c.getLsbD n = ((cw.find? fun w => w.1 = n).map fun w => w.2).getD (g.c.getLsbD n) := by
  induction cw with
  | nil => intro g _ _; rfl
  | cons w r ih =>
    intro g hb hu
    have hr : ∀ x ∈ r, ∀ y ∈ r, x.1 = y.1 → x = y := fun x hx y hy => hu x (by simp [hx]) y (by simp [hy])
    rw [List.foldl_cons, ih _ (fun x hx => hb x (by simp [hx])) hr]
    by_cases h : w.1 = n
    · simp only [List.find?, h, decide_true, Option.map_some, Option.getD_some]
      cases hf : r.find? fun x => decide (x.1 = n) with
      | none => simp [setC_bit g n n w.2 (by omega) hn]
      | some y =>
        have hy := List.mem_of_find?_eq_some hf
        have he : y.1 = n := by simpa using List.find?_some hf
        have := hu w (by simp) y (by simp [hy]) (by rw [h, he])
        simp [this]
    · simp only [List.find?, h, decide_false]
      rw [setC_bit g w.1 n w.2 (hb w (by simp)) hn, if_neg h]

/-- What moving on by one uniform word does to the group. -/
theorem countWord_eq (g : Group) (c : Cur) (clk : Nat) (close : Bool) :
    g.countWord c clk close = { g with nextSeq := g.nextSeq + 1, trail := (g.countWord c clk close).trail, passBreak := none,
                                       passSeq := (if g.passBreak.isSome then some c.seq else g.passSeq), runNo := (g.countWord c clk close).runNo, runLen := (g.countWord c clk close).runLen,
                                       closed := (g.countWord c clk close).closed } := by
  unfold Group.countWord; dsimp only; split <;> rfl

theorem advanceTo_grp (s : State) (pc : DWord) (close : Bool) (hl : s.grp.live ≠ 0) :
    (advanceTo s pc close).grp =
      { s.grp with frontier := moveLanes s.grp.frontier s.cur pc, wait := .ready, nextSeq := s.grp.nextSeq + 1,
                   runNo := (advanceTo s pc close).grp.runNo, runLen := (advanceTo s pc close).grp.runLen,
                   trail := (advanceTo s pc close).grp.trail, closed := (advanceTo s pc close).grp.closed, passBreak := none,
                   passSeq := (if s.grp.passBreak.isSome then some s.cur.seq else s.grp.passSeq), ret := (advanceTo s pc close).grp.ret,
                   flight := (advanceTo s pc close).grp.flight, undo := (advanceTo s pc close).grp.undo,
                   stall := (advanceTo s pc close).grp.stall } := by
  unfold advanceTo; rw [if_neg hl, State.tick_grp, tickGroup_eq, State.modGrp_grp, countWord_eq]

theorem advanceTo_state (s : State) (pc : DWord) (close : Bool) :
    advanceTo s pc close = { s with clock := s.clock + 1, grp := (advanceTo s pc close).grp, team := (advanceTo s pc close).team,
                                    teams := (advanceTo s pc close).teams, stallCnt := (advanceTo s pc close).stallCnt,
                                    stallNext := (advanceTo s pc close).stallNext } := by
  unfold advanceTo; split <;> rfl

theorem advanceTo_team (s : State) (pc : DWord) (close : Bool) : { (advanceTo s pc close).team with groups := [] } = { s.team with groups := [] } := by
  unfold advanceTo; split <;> rfl

/-- Clocks that pass leave the return queue's entries, and make them available no earlier. -/
theorem tickGroup_ret (s : State) (n : Nat) (t : Team) (g : Group) :
    ((tickGroup s n t g).ret.map fun e => (e.seq, e.value)) = g.ret.map fun e => (e.seq, e.value) := by
  have hp (g : Group) (k : Nat) : ((g.passTo k).ret.map fun e => (e.seq, e.value)) = g.ret.map fun e => (e.seq, e.value) := by
    show ((g.ret.map fun e : RetEntry => { e with ready := max e.ready (g.passClock e.seq) }).map fun e => (e.seq, e.value)) = _
    rw [List.map_map]; rfl
  unfold tickGroup; dsimp only; rw [hp]
  split
  · rfl
  · obtain ⟨st, h⟩ := Group.countOver_eq (fun k => stallClass s k t g) (classSpans s n t.core g.quad) g
    rw [h]

theorem advanceTo_ret (s : State) (pc : DWord) (close : Bool) (hl : s.grp.live ≠ 0) : sameReturns s (advanceTo s pc close) := by
  unfold sameReturns advanceTo; rw [if_neg hl, State.tick_grp, tickGroup_ret, State.modGrp_grp, countWord_eq]

/-- One uniform word has moved on from a state that differs in s, c and the buffer alone. -/
theorem advanceTo_frame (s u : State) (pc : DWord) (close : Bool) (hl : s.grp.live ≠ 0)
    (hu : u = { s with grp := { s.grp with s := u.grp.s, c := u.grp.c, commit := u.grp.commit } }) :
    uniformFrame s (advanceTo u pc close) ∧ (advanceTo u pc close).grp.frontier = moveLanes s.grp.frontier s.cur pc ∧
      (advanceTo u pc close).grp.nextSeq = s.grp.nextSeq + 1 ∧ (advanceTo u pc close).grp.s = u.grp.s ∧
      (advanceTo u pc close).grp.c = u.grp.c ∧ (advanceTo u pc close).grp.commit = u.grp.commit := by
  have hl' : u.grp.live ≠ 0 := by rw [hu]; exact hl
  have hg := advanceTo_grp u pc close hl'
  have hs := advanceTo_state u pc close
  have ht := advanceTo_team u pc close
  have hr := advanceTo_ret u pc close hl'
  generalize advanceTo u pc close = t at *
  have hgu : u.grp = { s.grp with s := u.grp.s, c := u.grp.c, commit := u.grp.commit } := by rw [hu]
  refine ⟨⟨memoriesKept_of_eq ?_ ?_ ?_, ?_, ?_, ?_, ?_⟩, ?_, ?_, ?_, ?_, ?_⟩
  · rw [hs, hu]
  · rw [hs, hu]
  · rw [hs, hu]
  · unfold sameReturns at *; rw [hr, hu]
  · rw [hg, show u.cur = s.cur by rw [hu]]; rw [hgu]
  · rw [ht, hu]
  · rw [hs]; rw [hu]
  · rw [hg]; simp only; rw [hu]
  · rw [hg]; simp only; rw [hu]
  · rw [hg]
  · rw [hg]
  · rw [hg]

theorem writeRegs_owed (sw : List (Nat × Word)) (cw : List (Nat × Bool)) (g : Group) (o : List (Nat × List (Nat × Word))) :
    Group.writeRegs { g with owed := o } sw cw = { g.writeRegs sw cw with owed := o } := by
  have h1 : ∀ (sw : List (Nat × Word)) (g : Group),
      sw.foldl (fun g w => g.setS w.1 w.2) { g with owed := o } = { sw.foldl (fun g w => g.setS w.1 w.2) g with owed := o } := by
    intro sw
    induction sw with
    | nil => intro g; rfl
    | cons w r ih => intro g; exact ih (g.setS w.1 w.2)
  have h2 : ∀ (cw : List (Nat × Bool)) (g : Group),
      cw.foldl (fun g w => g.setC w.1 w.2) { g with owed := o } = { cw.foldl (fun g w => g.setC w.1 w.2) g with owed := o } := by
    intro cw
    induction cw with
    | nil => intro g; rfl
    | cons w r ih =>
      intro g
      have e : Group.setC { g with owed := o } w.1 w.2 = { g.setC w.1 w.2 with owed := o } := by unfold Group.setC; split <;> rfl
      rw [List.foldl_cons, e]; exact ih (g.setC w.1 w.2)
  unfold Group.writeRegs; rw [h1, h2]

/-- Registers written at retirement: the results owed to them are owed no longer, nothing else differs from the plain write. -/
theorem retireRegs_eq (g : Group) (sw : List (Nat × Word)) (cw : List (Nat × Bool)) :
    g.retireRegs sw cw = Group.writeRegs { g with owed := (g.disown sw).owed } sw cw := by
  have ho : (g.writeRegs sw cw).owed = g.owed := by rw [writeRegs_frame]
  rw [writeRegs_owed]; unfold Group.retireRegs Group.disown; rw [ho]
  split <;> simp only [← ho]

/-- The values a group's registers have after a write at once, with nothing left in the buffer. -/
theorem advance_regs (s u : State) (sw : List (Nat × Word)) (cw : List (Nat × Bool)) (hnil : s.grp.commit = [])
    (hs : ∀ w ∈ sw, ∀ x ∈ sw, w.1 = x.1 → w = x) (hb : ∀ w ∈ cw, w.1 < 8) (hcu : ∀ w ∈ cw, ∀ x ∈ cw, w.1 = x.1 → w = x)
    (h4 : u.grp.s = (s.grp.writeRegs sw cw).s) (h5 : u.grp.c = (s.grp.writeRegs sw cw).c) (h6 : u.grp.commit = (s.grp.writeRegs sw cw).commit) :
    (∀ n, u.grp.sreg n = ((sw.find? fun w => w.1 = n).map fun w => w.2).getD (s.grp.sreg n)) ∧
    (∀ n, u.grp.creg n = if n = 7 then true else ((cw.find? fun w => w.1 = n).map fun w => w.2).getD (s.grp.creg n)) := by
  have e : u.grp.commit = [] := by rw [h6, writeRegs_frame]; exact hnil
  refine ⟨fun n => ?_, fun n => ?_⟩
  · unfold Group.sreg; rw [h4, e, hnil, List.foldl_nil, List.foldl_nil, Group.writeRegs, foldl_setC_s]
    exact look_foldl_setS sw s.grp n hs
  · unfold Group.creg; rw [h5, e, hnil, List.foldl_nil, List.foldl_nil, Group.writeRegs]
    split
    · rfl
    · by_cases hlt : n < 7
      · rw [look_foldl_setC cw n hlt _ hb hcu, foldl_setS_c]
      · have : (cw.find? fun w => decide (w.1 = n)) = none := by
          rw [List.find?_eq_none]; intro w hw'; have := hb w hw'; simp; omega
        rw [this]; simp only [Option.map_none, Option.getD_none]
        rw [BitVec.getLsbD_of_ge _ _ (by omega), BitVec.getLsbD_of_ge _ _ (by omega)]

/-- A register write through the commit buffer, and the lanes move to `pc`: whichever way it goes, the helm sees the new values. -/
theorem commitOr_regs (s : State) (sw : List (Nat × Word)) (cw : List (Nat × Bool)) (pc : DWord) (close : Bool)
    (after : State → State) (ha : ∀ u, u.cur = s.cur → after u = advanceTo u pc close) (hl : s.grp.live ≠ 0) (ho : ∀ e ∈ s.grp.commit, e.cur.seq < s.cur.seq) (hc : s.grp.commit.length < 24)
    (hs : ∀ w ∈ sw, ∀ x ∈ sw, w.1 = x.1 → w = x) (hb : ∀ w ∈ cw, w.1 < 8) (hcu : ∀ w ∈ cw, ∀ x ∈ cw, w.1 = x.1 → w = x) :
    uniformWrote s (commitOr s (.regs sw cw) (fun s => .done (s.modGrp fun g => g.retireRegs sw cw)) after) pc sw cw := by
  unfold commitOr
  split
  · rename_i hq
    have hnil := commit_nil_of_quiet ho hq
    dsimp only
    rw [ha (s.modGrp fun g => g.retireRegs sw cw) rfl]
    let p : State := { s with grp := { s.grp with owed := (s.grp.disown sw).owed } }
    have hu : s.modGrp (fun g => g.retireRegs sw cw) = p.modGrp fun g => g.writeRegs sw cw := by
      exact congrArg (fun g => { s with grp := g }) (retireRegs_eq s.grp sw cw)
    rw [hu]
    have hw := writeRegs_frame p.grp sw cw
    obtain ⟨h1, h2, h3, h4, h5, h6⟩ := advanceTo_frame p (p.modGrp fun g => g.writeRegs sw cw) pc close hl (by
      have hc' := congrArg Group.commit hw
      refine congrArg (fun g => { p with grp := g }) (a₂ := { p.grp with s := (p.grp.writeRegs sw cw).s, c := (p.grp.writeRegs sw cw).c, commit := (p.grp.writeRegs sw cw).commit }) ?_
      simp only [hc']; exact hw)
    obtain ⟨g1, g2⟩ := advance_regs p _ sw cw hnil hs hb hcu h4 h5 h6
    have hown : (advanceTo (p.modGrp fun g => g.writeRegs sw cw) pc close).grp.owed = (s.grp.disown sw).owed := by
      have := congrArg Group.owed h1.2.2.1; exact this
    exact ⟨g1, g2, h2, h3, .inr hown, by rw [hown]; exact h1⟩
  · rw [if_neg (by omega), ha (pushCommit s _) rfl, pushCommit]
    have hf := advanceTo_frame s (s.modGrp fun g => { g with commit := g.commit ++ [{ cur := s.cur, effect := .regs sw cw }] }) pc close hl rfl
    obtain ⟨h1, h2, h3, h4, h5, h6⟩ := hf
    have hown : (advanceTo (s.modGrp fun g => { g with commit := g.commit ++ [{ cur := s.cur, effect := .regs sw cw }] }) pc close).grp.owed = s.grp.owed := by
      have := congrArg Group.owed h1.2.2.1; exact this
    refine ⟨fun n => ?_, fun n => ?_, h2, h3, .inl hown, by rw [hown]; exact h1⟩
    · unfold Group.sreg; rw [h6, h4]; simp only [State.modGrp_grp, List.foldl_append, List.foldl_cons, List.foldl_nil]
    · unfold Group.creg; rw [h6, h5]
      by_cases h7 : n = 7
      · simp only [h7, if_true]
      · simp only [h7, if_false, State.modGrp_grp, List.foldl_append, List.foldl_cons, List.foldl_nil]

/-- `uniformWrite` from a ready state. -/
theorem uniformWrite_wrote (s : State) (rs : List Nat) (sw : List (Nat × Word)) (cw : List (Nat × Bool)) (h : uniformReady rs s)
    (hs : ∀ w ∈ sw, ∀ x ∈ sw, w.1 = x.1 → w = x) (hb : ∀ w ∈ cw, w.1 < 8) (hcu : ∀ w ∈ cw, ∀ x ∈ cw, w.1 = x.1 → w = x) :
    uniformWrote s (uniformWrite s sw cw) (s.cur.pc + 4) sw cw :=
  commitOr_regs s sw cw _ false _ (fun u hu => by rw [advance, hu]) h.1 h.2.1 h.2.2.1 hs hb hcu

/-- A ready word is not stopped in front of its registers. -/
theorem uniform_ready (s : State) (rs : List Nat) (f : State) (h : uniformReady rs s) : uniform s rs f = .next f := by
  unfold uniform
  have : rs.any (regPending s.grp) = false := by
    rw [List.any_eq_false]; intro n hn; simp [h.2.2.2 n hn]
  rw [this]; rfl

end Sys2Proof.Machine
end

