-- ==== Sys2Proof/Laws/Lane.lean ====
section
/-!
SUPPORT. What issuing a lane word can do, and where its results land.
-/
namespace Sys2Proof.Machine

/-- The parts of a group that issue changes. -/
def issueGrp (g h : Group) : Group :=
  { g with fwd := h.fwd, pipeRun := h.pipeRun, parkClk := h.parkClk, flight := h.flight, undo := h.undo, ret := h.ret, stall := h.stall, units := h.units }

theorem landAll_nil (g : Group) (h : g.pend = []) : g.landAll = g := by
  cases g; cases h; rfl

theorem landTo_nil (g : Group) (n : Nat) (h : g.pend = []) : g.landTo n = g := by
  cases g; cases h; rfl

theorem issueGroup_eq (i : LaneInfo) (seq t b : Nat) (g : Group) (h : g.pend = []) :
    issueGroup i seq t b g = issueGrp g (issueGroup i seq t b g) := by
  unfold issueGroup; rw [landTo_nil _ _ h]; rfl

theorem openRun_grp (s : State) (run : Nat) (h : s.grp.pend = []) : (openRun s run).grp = issueGrp s.grp (openRun s run).grp := by
  unfold openRun; split
  · rw [State.modGrp_grp, landAll_nil _ h]; rfl
  · rfl

/-- Opening a run, the clocks that pass and the word's leaving the queue. -/
theorem dequeue_grp (s : State) (run n : Nat) (h : s.grp.pend = []) :
    (dequeue ((openRun s run).tick n)).grp = issueGrp s.grp (dequeue ((openRun s run).tick n)).grp := by
  unfold dequeue; dsimp only; rw [State.modGrp_grp, State.tick_grp, tickGroup_eq, openRun_grp s run h]; rfl

theorem openRun_state (s : State) (run : Nat) : openRun s run = { s with grp := (openRun s run).grp } := by
  unfold openRun; split <;> rfl

/-- What the pipe's bookkeeping of returns changes: the write slots of pipes, and the returns of groups whose results are on their way. -/
def pipesOnly (s t : State) : Prop :=
  t = { s with team := t.team, teams := t.teams, cores := t.cores } ∧ { t.team with groups := [] } = { s.team with groups := [] } ∧
  ∀ c, { t.core c with pipes := [] } = { s.core c with pipes := [] }

theorem pipesOnly.refl (s : State) : pipesOnly s s := ⟨rfl, rfl, fun _ => rfl⟩

theorem pipesOnly.trans {s t u : State} (h : pipesOnly s t) (k : pipesOnly t u) : pipesOnly s u := by
  refine ⟨?_, k.2.1.trans h.2.1, fun c => (k.2.2 c).trans (h.2.2 c)⟩
  have h1 := h.1; have k1 := k.1
  rw [k1]; generalize u.team = a, u.teams = b, u.cores = c; rw [h1]

theorem modPipe_core (s : State) (f : Pipe → Pipe) (c : Nat) :
    { (s.modPipe f).core c with pipes := [] } = { s.core c with pipes := [] } := by
  unfold State.modPipe State.modCore State.core
  dsimp only
  rw [look_change]
  by_cases h : s.team.core = c
  · rw [if_pos h, h]
  · rw [if_neg h]

theorem modPipe_only (s : State) (f : Pipe → Pipe) : pipesOnly s (s.modPipe f) := ⟨rfl, rfl, modPipe_core s f⟩

theorem modGroups_only (s : State) (uid : Nat) (f : Group → Group) (h : f s.grp = s.grp) : pipesOnly s (s.modGroups uid f) := by
  have e : (if s.team.uid = uid then { s with grp := f s.grp } else s) = s := by
    split
    · rw [h]
    · rfl
  unfold State.modGroups; rw [e]; unfold State.modTeam; dsimp only
  split <;> exact ⟨rfl, rfl, fun _ => rfl⟩

theorem moveReturn_only (s : State) (uid gidx : Nat) (w : PendWrite) (d : Nat) (h : s.grp.pend = []) : pipesOnly s (moveReturn s uid gidx w d) :=
  modGroups_only s uid _ (by unfold Group.reslot; rw [h]; simp)

theorem pipesOnly.pend {s t : State} (h : pipesOnly s t) (hp : s.grp.pend = []) : t.grp.pend = [] := by rw [h.1]; exact hp

theorem pushOne_only (s : State) (x : Nat × Nat × PendWrite) (h : s.grp.pend = []) : pipesOnly s (pushOne s x) := by
  unfold pushOne
  dsimp only
  refine pipesOnly.trans ?_ (modPipe_only _ _)
  split
  · exact modPipe_only _ _
  · exact pipesOnly.trans (modPipe_only _ _) (moveReturn_only _ _ _ _ _ h)

theorem pushBack_only (s : State) (h : s.grp.pend = []) : pipesOnly s (pushBack s) := by
  unfold pushBack
  split
  · exact pipesOnly.refl s
  · have h0 := modPipe_only s fun p => { p with returns := p.returns.filter fun r => decide (s.clock ≤ r.1) }
    refine pipesOnly.trans h0 ?_
    have hp := h0.pend h
    generalize waitingReturns s s.team.core s.grp.quad = l
    generalize (s.modPipe fun p => { p with returns := p.returns.filter fun r => decide (s.clock ≤ r.1) }) = u at hp ⊢
    clear h0 h
    induction l generalizing u with
    | nil => exact pipesOnly.refl u
    | cons x r ih => exact pipesOnly.trans (pushOne_only u x hp) (ih _ ((pushOne_only u x hp).pend hp))

/-- What issue does to the state: the group, the pipe and the counts, after the clocks up to issue. -/
theorem issueLane_def (s : State) (i : LaneInfo) :
    ∃ (n b t k : Nat) (busy stalls busy' stalls' : Sparse Nat), (issueLane s i).1 =
      { pushBack (((dequeue ((openRun s (runOf s)).tick n)).modPipe (issuePipe i s.team.uid k (runOf s) t)).modGrp
          (issueGroup i s.cur.seq t b)) with busy := busy, stallCnt := stalls, busyNext := busy', stallNext := stalls' } := by
  have hc : (openRun s (runOf s)).cur = s.cur := by rw [openRun_state]
  have ht : (openRun s (runOf s)).team = s.team := by rw [openRun_state]
  unfold issueLane State.countStalls State.countBusy
  dsimp only
  rw [← hc, ← ht]
  exact ⟨_, _, _, _, _, _, _, _, rfl⟩

/-- The group before what the pipe then does about returns. -/
theorem issued_grp (s : State) (i : LaneInfo) (n b t k seq uid : Nat) (h : s.grp.pend = []) :
    let u := ((dequeue ((openRun s (runOf s)).tick n)).modPipe (issuePipe i uid k (runOf s) t)).modGrp (issueGroup i seq t b)
    u.grp = issueGrp s.grp u.grp := by
  have hd := dequeue_grp s (runOf s) n h
  dsimp only [State.modGrp_grp, State.modPipe_grp]
  generalize (dequeue ((openRun s (runOf s)).tick n)).grp = g at *
  rw [issueGroup_eq _ _ _ _ _ (by rw [hd]; exact h)]
  rw [hd]; rfl

theorem issueLane_grp (s : State) (i : LaneInfo) (h : s.grp.pend = []) :
    (issueLane s i).1.grp = issueGrp s.grp (issueLane s i).1.grp := by
  obtain ⟨n, b, t, k, x, y, x', y', e⟩ := issueLane_def s i
  have hd := issued_grp s i n b t k s.cur.seq s.team.uid h
  dsimp only at hd
  rw [e]; dsimp only
  generalize ((dequeue ((openRun s (runOf s)).tick n)).modPipe (issuePipe i s.team.uid k (runOf s) t)).modGrp (issueGroup i s.cur.seq t b) = u at *
  have hb := (pushBack_only u (by rw [hd]; exact h)).1
  rw [hb]; exact hd

theorem issueLane_state (s : State) (i : LaneInfo) (h : s.grp.pend = []) :
    (issueLane s i).1 = { s with clock := (issueLane s i).1.clock, grp := (issueLane s i).1.grp, team := (issueLane s i).1.team,
                                 teams := (issueLane s i).1.teams, cores := (issueLane s i).1.cores, busy := (issueLane s i).1.busy,
                                 stallCnt := (issueLane s i).1.stallCnt, busyNext := (issueLane s i).1.busyNext,
                                 stallNext := (issueLane s i).1.stallNext } := by
  obtain ⟨n, b, t, k, x, y, x', y', e⟩ := issueLane_def s i
  have hd := issued_grp s i n b t k s.cur.seq s.team.uid h
  dsimp only at hd
  have hb := pushBack_only _ (show (((dequeue ((openRun s (runOf s)).tick n)).modPipe (issuePipe i s.team.uid k (runOf s) t)).modGrp
    (issueGroup i s.cur.seq t b)).grp.pend = [] by rw [hd]; exact h)
  rw [e, hb.1, openRun_state]; rfl

/-- The team and the cores before what the pipe then does about returns. -/
theorem issued_only (s : State) (i : LaneInfo) (n t k uid : Nat) :
    pipesOnly { s with team := (dequeue ((openRun s (runOf s)).tick n)).team }
      { s with team := (dequeue ((openRun s (runOf s)).tick n)).team, cores := ((dequeue ((openRun s (runOf s)).tick n)).modPipe (issuePipe i uid k (runOf s) t)).cores } := by
  refine ⟨rfl, rfl, fun c => ?_⟩
  have hm := modPipe_core (dequeue ((openRun s (runOf s)).tick n)) (issuePipe i uid k (runOf s) t) c
  have hk : (dequeue ((openRun s (runOf s)).tick n)).core c = s.core c := by rw [openRun_state]; rfl
  rw [hk] at hm
  exact hm

theorem issueLane_only (s : State) (i : LaneInfo) (h : s.grp.pend = []) :
    { (issueLane s i).1.team with groups := [] } = { s.team with groups := [] } ∧
    ∀ c, { (issueLane s i).1.core c with pipes := [] } = { s.core c with pipes := [] } := by
  obtain ⟨n, b, t, k, x, y, x', y', e⟩ := issueLane_def s i
  have hd := issued_grp s i n b t k s.cur.seq s.team.uid h
  have hc := (issued_only s i n t k s.team.uid).2.2
  have ht : { (dequeue ((openRun s (runOf s)).tick n)).team with groups := [] } = { s.team with groups := [] } := by rw [openRun_state]; rfl
  dsimp only at hd
  have h1 : (((dequeue ((openRun s (runOf s)).tick n)).modPipe (issuePipe i s.team.uid k (runOf s) t)).modGrp (issueGroup i s.cur.seq t b)).team =
      (dequeue ((openRun s (runOf s)).tick n)).team := rfl
  have h2 : (((dequeue ((openRun s (runOf s)).tick n)).modPipe (issuePipe i s.team.uid k (runOf s) t)).modGrp (issueGroup i s.cur.seq t b)).cores =
      ((dequeue ((openRun s (runOf s)).tick n)).modPipe (issuePipe i s.team.uid k (runOf s) t)).cores := rfl
  rw [e]
  generalize ((dequeue ((openRun s (runOf s)).tick n)).modPipe (issuePipe i s.team.uid k (runOf s) t)).modGrp (issueGroup i s.cur.seq t b) = u at *
  have hb := pushBack_only u (by rw [hd]; exact h)
  rw [← h1] at ht
  rw [← h2] at hc
  generalize pushBack u = v at *
  refine ⟨hb.2.1.trans ht, fun c => (hb.2.2 c).trans ?_⟩
  exact hc c

theorem issueGroup_ret (i : LaneInfo) (seq t b : Nat) (g : Group) (h : g.pend = []) : (issueGroup i seq t b g).ret = g.ret := by
  unfold issueGroup; rw [landTo_nil _ _ h]

theorem issueLane_ret (s : State) (i : LaneInfo) (h : s.grp.pend = []) : sameReturns s (issueLane s i).1 := by
  obtain ⟨n, b, t, k, x, y, x', y', e⟩ := issueLane_def s i
  have hd := issued_grp s i n b t k s.cur.seq s.team.uid h
  dsimp only at hd
  have hb := pushBack_only _ (show (((dequeue ((openRun s (runOf s)).tick n)).modPipe (issuePipe i s.team.uid k (runOf s) t)).modGrp
    (issueGroup i s.cur.seq t b)).grp.pend = [] by rw [hd]; exact h)
  have hp : (dequeue ((openRun s (runOf s)).tick n)).grp.pend = [] := by rw [dequeue_grp s _ n h]; exact h
  have ho : (openRun s (runOf s)).grp.ret = s.grp.ret := by rw [openRun_grp s _ h]; unfold openRun; split <;> first | rfl | (rw [State.modGrp_grp, landAll_nil _ h]; rfl)
  unfold sameReturns
  rw [e]; dsimp only
  rw [hb.1]; dsimp only [State.modGrp_grp, State.modPipe_grp]
  rw [issueGroup_ret _ _ _ _ _ hp]
  show (((openRun s (runOf s)).tick n).grp.ret.map _) = _
  rw [State.tick_grp, tickGroup_ret, ho]

/-- What issue leaves as it is, under a group `g` and a counter of free values put in afterwards. -/
theorem issueLane_frame (s : State) (i : LaneInfo) (h : s.grp.pend = []) (ws : List PendWrite) (n : Nat) :
    laneFrame s { (issueLane s i).1 with grp := { (issueLane s i).1.grp with pend := ws }, free := n } := by
  have h1 := issueLane_state s i h
  have h2 := issueLane_grp s i h
  have h3 := issueLane_only s i h
  have h5 := issueLane_ret s i h
  generalize (issueLane s i).1 = t at *
  refine ⟨memoriesKept_of_eq ?_ ?_ ?_, h5, ?_, h3.1, h3.2, ?_⟩
  · rw [h1]
  · rw [h1]
  · rw [h1]
  · dsimp only; rw [h2]; rfl
  · exact congrArg (fun x : State => { x with grp := { t.grp with pend := ws }, free := n }) h1

/-! ### Landing -/

theorem landCell_v (g : Group) (sp : RegSpace) (key : Nat) (x : Word) (k : Nat) :
    look (g.landCell sp key x).v k 0 = if sp = .v ∧ key = k then x else look g.v k 0 := by
  unfold Group.landCell
  cases sp with
  | v => simp [look_put]
  | p => simp [Group.setP]; split <;> rfl
  | x f => simp

theorem landCells_v (sp : RegSpace) (cells : List (Nat × Word)) (k : Nat) (P : Word → Prop) : ∀ g : Group,
    (∀ c ∈ cells, sp = .v → c.1 = k → P c.2) → (P (look g.v k 0) ∨ ∃ c ∈ cells, sp = .v ∧ c.1 = k) →
    P (look (cells.foldl (fun g c => g.landCell sp c.1 c.2) g).v k 0) := by
  induction cells with
  | nil => intro g _ h; simpa using h
  | cons c r ih =>
    intro g hc h
    rw [List.foldl_cons]
    refine ih _ (fun x hx => hc x (by simp [hx])) ?_
    rw [landCell_v]
    by_cases e : sp = .v ∧ c.1 = k
    · rw [if_pos e]; exact Or.inl (hc c (by simp) e.1 e.2)
    · rw [if_neg e]
      rcases h with h | ⟨x, hx, h1, h2⟩
      · exact Or.inl h
      · rcases List.mem_cons.1 hx with rfl | hx
        · exact absurd ⟨h1, h2⟩ e
        · exact Or.inr ⟨x, hx, h1, h2⟩

theorem land_v (g : Group) (w : PendWrite) (k : Nat) (P : Word → Prop)
    (hc : ∀ c ∈ w.cells, w.space = .v → c.1 = k → P c.2) (h : P (look g.v k 0) ∨ ∃ c ∈ w.cells, w.space = .v ∧ c.1 = k) :
    P (look (g.land w).v k 0) := landCells_v w.space w.cells k P g hc h

theorem lands_v (ws : List PendWrite) (k : Nat) (P : Word → Prop) : ∀ g : Group,
    (∀ w ∈ ws, ∀ c ∈ w.cells, w.space = .v → c.1 = k → P c.2) →
    (P (look g.v k 0) ∨ ∃ w ∈ ws, ∃ c ∈ w.cells, w.space = .v ∧ c.1 = k) → P (look (ws.foldl Group.land g).v k 0) := by
  induction ws with
  | nil => intro g _ h; simpa using h
  | cons w r ih =>
    intro g hc h
    rw [List.foldl_cons]
    by_cases hr : ∃ w ∈ r, ∃ c ∈ w.cells, w.space = .v ∧ c.1 = k
    · exact ih _ (fun x hx => hc x (by simp [hx])) (Or.inr hr)
    · refine ih _ (fun x hx => hc x (by simp [hx])) (Or.inl (land_v g w k P (hc w (by simp)) ?_))
      rcases h with h | ⟨x, hx, c, hcx, h1⟩
      · exact Or.inl h
      · rcases List.mem_cons.1 hx with rfl | hx
        · exact Or.inr ⟨c, hcx, h1⟩
        · exact absurd ⟨x, hx, c, hcx, h1⟩ hr

theorem setP_bit (g : Group) (q l n k : Nat) (b : Bool) (hk : k < 32) (hl : l < 32) :
    (g.setP q l b).ptrue n k = if n = q ∧ l = k ∧ n ≠ 7 then b else g.ptrue n k := by
  have hbit : ∀ l < 32, ∀ k < 32, (BitVec.ofNat 32 (2 ^ l)).getLsbD k = decide (l = k) := by decide
  have h := hbit l hl k hk
  unfold Group.ptrue Group.pmask Group.setP
  by_cases hn : n = 7
  · simp only [hn, if_true, ne_eq, not_true_eq_false, and_false, if_false]
  · rw [if_neg hn, if_neg hn]
    by_cases hq : q = 7
    · rw [if_pos hq, if_neg (by omega)]
    · rw [if_neg hq]; dsimp only; rw [look_change]
      by_cases e : q = n
      · subst e; rw [if_pos rfl]
        cases b
        · simp only [Bool.false_eq_true, if_false, BitVec.getLsbD_and, BitVec.getLsbD_not, h]
          by_cases e : l = k <;> simp [e, hn, hk]
        · simp only [if_true, BitVec.getLsbD_or, h]
          by_cases e : l = k <;> simp [e, hn]
      · rw [if_neg e, if_neg (by omega)]

theorem landCell_p (g : Group) (sp : RegSpace) (key : Nat) (x : Word) (n k : Nat) (hk : k < 32) :
    (g.landCell sp key x).ptrue n k = if sp = .p ∧ key = 32 * n + k ∧ n ≠ 7 then x.getLsbD 0 else g.ptrue n k := by
  unfold Group.landCell
  cases sp with
  | v => simp [Group.ptrue, Group.pmask]
  | x f => simp [Group.ptrue, Group.pmask]
  | p =>
    dsimp only
    rw [setP_bit g _ _ n k _ hk (by omega)]
    by_cases e : n = key / 32 ∧ key % 32 = k ∧ n ≠ 7
    · rw [if_pos e, if_pos ⟨rfl, by omega, e.2.2⟩]
    · rw [if_neg e, if_neg]; rintro ⟨-, h2, h3⟩; exact e ⟨by omega, by omega, h3⟩

theorem landCells_p (sp : RegSpace) (cells : List (Nat × Word)) (n k : Nat) (hk : k < 32) (P : Bool → Prop) : ∀ g : Group,
    (∀ c ∈ cells, sp = .p → c.1 = 32 * n + k → n ≠ 7 → P (c.2.getLsbD 0)) →
    (P (g.ptrue n k) ∨ ∃ c ∈ cells, sp = .p ∧ c.1 = 32 * n + k ∧ n ≠ 7) →
    P ((cells.foldl (fun g c => g.landCell sp c.1 c.2) g).ptrue n k) := by
  induction cells with
  | nil => intro g _ h; simpa using h
  | cons c r ih =>
    intro g hc h
    rw [List.foldl_cons]
    refine ih _ (fun x hx => hc x (by simp [hx])) ?_
    rw [landCell_p _ _ _ _ _ _ hk]
    by_cases e : sp = .p ∧ c.1 = 32 * n + k ∧ n ≠ 7
    · rw [if_pos e]; exact Or.inl (hc c (by simp) e.1 e.2.1 e.2.2)
    · rw [if_neg e]
      rcases h with h | ⟨x, hx, h1⟩
      · exact Or.inl h
      · rcases List.mem_cons.1 hx with rfl | hx
        · exact absurd h1 e
        · exact Or.inr ⟨x, hx, h1⟩

theorem lands_p (ws : List PendWrite) (n k : Nat) (hk : k < 32) (P : Bool → Prop) : ∀ g : Group,
    (∀ w ∈ ws, ∀ c ∈ w.cells, w.space = .p → c.1 = 32 * n + k → n ≠ 7 → P (c.2.getLsbD 0)) →
    (P (g.ptrue n k) ∨ ∃ w ∈ ws, ∃ c ∈ w.cells, w.space = .p ∧ c.1 = 32 * n + k ∧ n ≠ 7) →
    P ((ws.foldl Group.land g).ptrue n k) := by
  induction ws with
  | nil => intro g _ h; simpa using h
  | cons w r ih =>
    intro g hc h
    rw [List.foldl_cons]
    have hw : ∀ g : Group, (∀ c ∈ w.cells, w.space = .p → c.1 = 32 * n + k → n ≠ 7 → P (c.2.getLsbD 0)) →
        (P (g.ptrue n k) ∨ ∃ c ∈ w.cells, w.space = .p ∧ c.1 = 32 * n + k ∧ n ≠ 7) → P ((g.land w).ptrue n k) :=
      landCells_p w.space w.cells n k hk P
    by_cases hr : ∃ w ∈ r, ∃ c ∈ w.cells, w.space = .p ∧ c.1 = 32 * n + k ∧ n ≠ 7
    · exact ih _ (fun x hx => hc x (by simp [hx])) (Or.inr hr)
    · refine ih _ (fun x hx => hc x (by simp [hx])) (Or.inl (hw g (hc w (by simp)) ?_))
      rcases h with h | ⟨x, hx, c, hcx, h1⟩
      · exact Or.inl h
      · rcases List.mem_cons.1 hx with rfl | hx
        · exact Or.inr ⟨c, hcx, h1⟩
        · exact absurd ⟨x, hx, c, hcx, h1⟩ hr

theorem mem_insertBy {α : Type} (key : α → Nat) (x y : α) (l : List α) : y ∈ insertBy key x l ↔ y = x ∨ y ∈ l := by
  induction l with
  | nil => simp [insertBy]
  | cons z r ih =>
    unfold insertBy
    by_cases h : key x < key z
    · rw [if_pos h]; simp
    · rw [if_neg h]; simp only [List.mem_cons, ih]; grind

theorem foldl_addPend (ws : List PendWrite) : ∀ g : Group, ∃ l, ws.foldl Group.addPend g = { g with pend := l } ∧
    ∀ w, w ∈ l ↔ w ∈ ws ∨ w ∈ g.pend := by
  induction ws with
  | nil => intro g; exact ⟨g.pend, rfl, fun w => by simp⟩
  | cons x r ih =>
    intro g
    obtain ⟨l, h1, h2⟩ := ih (g.addPend x)
    refine ⟨l, by rw [List.foldl_cons, h1]; rfl, fun w => ?_⟩
    rw [h2, Group.addPend]; dsimp only; rw [mem_insertBy]; simp only [List.mem_cons]; grind

theorem mem_lanesOf (m : Word) (l : Nat) : l ∈ lanesOf m ↔ l < 32 ∧ m.getLsbD l = true := by simp [lanesOf]

/-- What a fixed-latency word writes, by register and lane. -/
theorem outWrites_cells (i : LaneInfo) (seq t : Nat) (m : Word) (f : Nat → LaneOut) (w : PendWrite) :
    w ∈ outWrites i seq t (lanesOf m) f →
    (w.space = .v ∧ ∃ k < i.width, w.cells = (lanesOf m).map fun l => (32 * (i.dest + k) + l, (f l).v.getD k 0)) ∨
    (w.space = .p ∧ w.cells = (lanesOf m).filterMap fun l => (f l).p.map fun p => (32 * p.1 + l, if p.2 then (1 : Word) else 0)) := by
  intro h
  unfold outWrites at h
  rcases List.mem_append.1 h with h | h
  · obtain ⟨k, hk, rfl⟩ := List.mem_map.1 h
    exact Or.inl ⟨rfl, k, by simpa using hk, rfl⟩
  · dsimp only at h
    split at h
    · simp at h
    · rw [List.mem_singleton] at h; subst h; exact Or.inr ⟨rfl, rfl⟩

/-- A fixed-latency word from a ready state: where its results land, and what it leaves as it is. -/
theorem laneFixed_wrote (i : LaneInfo) (s : State) (f : Rd → (Nat → Bool) → Nat → LaneOut) (pn : Nat)
    (hc : laneCheck s i = none) (hp : s.grp.pend = [])
    (out : Nat → LaneOut) (ho : ∀ l, l < 32 → f (fun _ n l => s.grp.vreg n l) (fun l => if pn = 7 then true else (look s.grp.p pn 0).getLsbD l) l = out l)
    (pred : Option (Nat × (Nat → Bool)))
    (hpred : ∀ l, l < 32 → s.cur.mask.getLsbD l → (out l).p = pred.map fun q => (q.1, q.2 l)) :
    lanesWrote s (laneFixed i s f pn) i.dest i.width (fun l => (out l).v) pred := by
  have hg := issueLane_grp s i hp
  have hS := issueLane_state s i hp
  have hfr := issueLane_frame s i hp
  unfold laneFixed
  rw [hc]
  dsimp only
  generalize hu : (issueLane s i).1 = u at *
  generalize (issueLane s i).2 = clk at *
  have hup : u.grp.pend = [] := by rw [hg]; exact hp
  have huv : u.grp.v = s.grp.v := by rw [hg]; rfl
  have hupp : u.grp.p = s.grp.p := by rw [hg]; rfl
  have hcur : u.cur = s.cur := by rw [hS]
  have hrd : (fun k n l => readV u.grp (clk + 1 + k) u.free n l) = fun _ n l => s.grp.vreg n l := by
    funext k n l; unfold readV; rw [hup, List.foldl_nil, huv]; rfl
  have hrp : (fun l => readP u.grp (clk + 1) pn l) = fun l => if pn = 7 then true else (look s.grp.p pn 0).getLsbD l := by
    funext l; unfold readP; rw [hup, List.foldl_nil, hupp]
  have hout : (f (rdOf u clk) fun l => readP u.grp (clk + 1) pn l) = f (fun _ n l => s.grp.vreg n l) (fun l => if pn = 7 then true else (look s.grp.p pn 0).getLsbD l) := by
    rw [hrp]; congr 1
  rw [hout, show u.cur.seq = s.cur.seq by rw [hcur], show u.cur.mask = s.cur.mask by rw [hcur]]
  generalize f (fun _ n l => s.grp.vreg n l) (fun l => if pn = 7 then true else (look s.grp.p pn 0).getLsbD l) = F at *
  obtain ⟨ws, h1, h2⟩ := foldl_addPend (outWrites i s.cur.seq clk (lanesOf s.cur.mask) F) u.grp
  rw [h1]
  rw [hup] at h2
  refine ⟨fun n l hl => ?_, fun n l hl => ?_, hfr ws _⟩
  · have hlook : ∀ (P : Word → Prop), (∀ w ∈ ws, ∀ c ∈ w.cells, w.space = .v → c.1 = 32 * n + l → P c.2) →
        (P (s.grp.vreg n l) ∨ ∃ w ∈ ws, ∃ c ∈ w.cells, w.space = .v ∧ c.1 = 32 * n + l) →
        P (Group.vreg ({ u.grp with pend := ws } : Group).landAll n l) := by
      intro P a b
      have := lands_v ws (32 * n + l) P { u.grp with pend := ws } a (by simpa only [huv, Group.vreg] using b)
      exact this
    apply hlook (fun x => x = _)
    · intro w hw c hcw hsp hk
      rcases outWrites_cells _ _ _ _ _ _ (by simpa using (h2 w).1 hw) with ⟨-, k, hkw, hcells⟩ | ⟨hsp', -⟩
      · rw [hcells] at hcw
        obtain ⟨l', hl', rfl⟩ := List.mem_map.1 hcw
        rw [mem_lanesOf] at hl'
        dsimp only at hk ⊢
        obtain rfl : l' = l := by omega
        obtain rfl : n = i.dest + k := by omega
        rw [if_pos ⟨hl'.2, by omega, by omega⟩, ho l' hl]
        congr 1; omega
      · rw [hsp] at hsp'; cases hsp'
    · dsimp only
      by_cases hm : s.cur.mask.getLsbD l = true
      · by_cases hn : i.dest ≤ n ∧ n < i.dest + i.width
        · refine Or.inr ⟨{ seq := s.cur.seq, due := some (clk + i.lat + (n - i.dest)), space := .v,
                           cells := (lanesOf s.cur.mask).map fun l => (32 * (i.dest + (n - i.dest)) + l, (F l).v.getD (n - i.dest) 0) },
                         (h2 _).2 (Or.inl ?_), (32 * (i.dest + (n - i.dest)) + l, (F l).v.getD (n - i.dest) 0), ?_, rfl, ?_⟩
          · unfold outWrites; apply List.mem_append_left
            exact List.mem_map.2 ⟨n - i.dest, by simp; omega, rfl⟩
          · exact List.mem_map.2 ⟨l, (mem_lanesOf _ _).2 ⟨hl, hm⟩, rfl⟩
          · dsimp only; omega
        · rw [if_neg (fun h => hn h.2)]; exact Or.inl rfl
      · rw [if_neg (fun h => hm h.1)]; exact Or.inl rfl
  · have hlook : ∀ (P : Bool → Prop), (∀ w ∈ ws, ∀ c ∈ w.cells, w.space = .p → c.1 = 32 * n + l → n ≠ 7 → P (c.2.getLsbD 0)) →
        (P (s.grp.ptrue n l) ∨ ∃ w ∈ ws, ∃ c ∈ w.cells, w.space = .p ∧ c.1 = 32 * n + l ∧ n ≠ 7) →
        P (Group.ptrue ({ u.grp with pend := ws } : Group).landAll n l) := by
      intro P a b
      have := lands_p ws n l hl P { u.grp with pend := ws } a (by simpa only [hupp, Group.ptrue, Group.pmask] using b)
      exact this
    apply hlook (fun x => x = _)
    · intro w hw c hcw hsp hk hn7
      rcases outWrites_cells _ _ _ _ _ _ (by simpa using (h2 w).1 hw) with ⟨hsp', -⟩ | ⟨-, hcells⟩
      · rw [hsp] at hsp'; cases hsp'
      · rw [hcells] at hcw
        obtain ⟨l', hl', e⟩ := List.mem_filterMap.1 hcw
        rw [mem_lanesOf] at hl'
        have hpl := hpred l' hl'.1 hl'.2
        rw [ho l' hl'.1] at e
        rw [hpl] at e
        cases pred with
        | none => simp at e
        | some q =>
          simp only [Option.map_some, Option.some.injEq] at e
          subst e
          dsimp only at hk ⊢
          obtain rfl : l' = l := by omega
          obtain rfl : n = q.1 := by omega
          refine Eq.trans ?_ (if_pos ⟨hl'.2, rfl, hn7⟩).symm; cases q.2 l' <;> simp
    · cases pred with
      | none => exact Or.inl rfl
      | some q =>
        dsimp only
        by_cases hm : s.cur.mask.getLsbD l = true ∧ n = q.1 ∧ n ≠ 7
        · rw [if_pos hm]
          have hmem : l ∈ lanesOf s.cur.mask := (mem_lanesOf _ _).2 ⟨hl, hm.1⟩
          have hcell : (32 * q.1 + l, if q.2 l then (1 : Word) else 0) ∈
              (lanesOf s.cur.mask).filterMap fun l => (F l).p.map fun p => (32 * p.1 + l, if p.2 then (1 : Word) else 0) :=
            List.mem_filterMap.2 ⟨l, hmem, by rw [ho l hl, hpred l hl hm.1]; rfl⟩
          refine Or.inr ⟨{ seq := s.cur.seq, due := some (clk + i.lat), space := .p,
                           cells := (lanesOf s.cur.mask).filterMap fun l => (F l).p.map fun p => (32 * p.1 + l, if p.2 then (1 : Word) else 0) },
                         (h2 _).2 (Or.inl ?_), _, hcell, rfl, ?_, hm.2.2⟩
          · unfold outWrites; apply List.mem_append_right; dsimp only
            rw [if_neg (by intro hh; rw [List.isEmpty_iff] at hh; rw [hh] at hcell; simp at hcell)]
            simp
          · dsimp only; omega
        · rw [if_neg hm]; exact Or.inl rfl

end Sys2Proof.Machine
end

