-- ==== Sys2Proof/Laws/PerInstr.lean ====
section
/-!
SUPPORT. One lemma per instruction: exactly the words have an encoding, the operations of 95 have none.
-/

/-- Only a word has an encoding. -/
def Sys2Proof.Laws.Encoding.Statement (i : Sys2Proof.Instr) : Prop := (Sys2Proof.encode i).isSome = i.isWord

theorem Sys2Proof.Laws.Encoding.iadd : ∀ a0 a1 a2 a3 a4 a5, Statement (.iadd a0 a1 a2 a3 a4 a5) := fun _ _ _ _ _ _ => rfl
theorem Sys2Proof.Laws.Encoding.isub : ∀ a0 a1 a2 a3 a4 a5, Statement (.isub a0 a1 a2 a3 a4 a5) := fun _ _ _ _ _ _ => rfl
theorem Sys2Proof.Laws.Encoding.imul : ∀ a0 a1 a2 a3 a4 a5, Statement (.imul a0 a1 a2 a3 a4 a5) := fun _ _ _ _ _ _ => rfl
theorem Sys2Proof.Laws.Encoding.imad : ∀ a0 a1 a2 a3 a4, Statement (.imad a0 a1 a2 a3 a4) := fun _ _ _ _ _ => rfl
theorem Sys2Proof.Laws.Encoding.imnmx : ∀ a0 a1 a2 a3 a4 a5, Statement (.imnmx a0 a1 a2 a3 a4 a5) := fun _ _ _ _ _ _ => rfl
theorem Sys2Proof.Laws.Encoding.logic : ∀ a0 a1 a2 a3 a4 a5, Statement (.logic a0 a1 a2 a3 a4 a5) := fun _ _ _ _ _ _ => rfl
theorem Sys2Proof.Laws.Encoding.shift : ∀ a0 a1 a2 a3 a4 a5, Statement (.shift a0 a1 a2 a3 a4 a5) := fun _ _ _ _ _ _ => rfl
theorem Sys2Proof.Laws.Encoding.bfe : ∀ a0 a1 a2 a3 a4 a5, Statement (.bfe a0 a1 a2 a3 a4 a5) := fun _ _ _ _ _ _ => rfl
theorem Sys2Proof.Laws.Encoding.bfi : ∀ a0 a1 a2 a3 a4, Statement (.bfi a0 a1 a2 a3 a4) := fun _ _ _ _ _ => rfl
theorem Sys2Proof.Laws.Encoding.bitc : ∀ a0 a1 a2 a3 a4, Statement (.bitc a0 a1 a2 a3 a4) := fun _ _ _ _ _ => rfl
theorem Sys2Proof.Laws.Encoding.isetp : ∀ a0 a1 a2 a3 a4 a5 a6, Statement (.isetp a0 a1 a2 a3 a4 a5 a6) := fun _ _ _ _ _ _ _ => rfl
theorem Sys2Proof.Laws.Encoding.iaddi : ∀ a0 a1 a2 a3, Statement (.iaddi a0 a1 a2 a3) := fun _ _ _ _ => rfl
theorem Sys2Proof.Laws.Encoding.andi : ∀ a0 a1 a2 a3, Statement (.andi a0 a1 a2 a3) := fun _ _ _ _ => rfl
theorem Sys2Proof.Laws.Encoding.ori : ∀ a0 a1 a2 a3, Statement (.ori a0 a1 a2 a3) := fun _ _ _ _ => rfl
theorem Sys2Proof.Laws.Encoding.xori : ∀ a0 a1 a2 a3, Statement (.xori a0 a1 a2 a3) := fun _ _ _ _ => rfl
theorem Sys2Proof.Laws.Encoding.shifti : ∀ a0 a1 a2 a3 a4, Statement (.shifti a0 a1 a2 a3 a4) := fun _ _ _ _ _ => rfl
theorem Sys2Proof.Laws.Encoding.dp4 : ∀ a0 a1 a2 a3 a4, Statement (.dp4 a0 a1 a2 a3 a4) := fun _ _ _ _ _ => rfl
theorem Sys2Proof.Laws.Encoding.sad : ∀ a0 a1 a2 a3 a4, Statement (.sad a0 a1 a2 a3 a4) := fun _ _ _ _ _ => rfl
theorem Sys2Proof.Laws.Encoding.iadd64 : ∀ a0 a1 a2 a3 a4 a5, Statement (.iadd64 a0 a1 a2 a3 a4 a5) := fun _ _ _ _ _ _ => rfl
theorem Sys2Proof.Laws.Encoding.fadd : ∀ a0 a1 a2 a3 a4 a5, Statement (.fadd a0 a1 a2 a3 a4 a5) := fun _ _ _ _ _ _ => rfl
theorem Sys2Proof.Laws.Encoding.fsub : ∀ a0 a1 a2 a3 a4 a5, Statement (.fsub a0 a1 a2 a3 a4 a5) := fun _ _ _ _ _ _ => rfl
theorem Sys2Proof.Laws.Encoding.fmul : ∀ a0 a1 a2 a3 a4 a5, Statement (.fmul a0 a1 a2 a3 a4 a5) := fun _ _ _ _ _ _ => rfl
theorem Sys2Proof.Laws.Encoding.ffma : ∀ a0 a1 a2 a3 a4, Statement (.ffma a0 a1 a2 a3 a4) := fun _ _ _ _ _ => rfl
theorem Sys2Proof.Laws.Encoding.hfma2 : ∀ a0 a1 a2 a3 a4, Statement (.hfma2 a0 a1 a2 a3 a4) := fun _ _ _ _ _ => rfl
theorem Sys2Proof.Laws.Encoding.dfma : ∀ a0 a1 a2 a3 a4, Statement (.dfma a0 a1 a2 a3 a4) := fun _ _ _ _ _ => rfl
theorem Sys2Proof.Laws.Encoding.bfma2 : ∀ a0 a1 a2 a3 a4, Statement (.bfma2 a0 a1 a2 a3 a4) := fun _ _ _ _ _ => rfl
theorem Sys2Proof.Laws.Encoding.fmnmx : ∀ a0 a1 a2 a3 a4 a5, Statement (.fmnmx a0 a1 a2 a3 a4 a5) := fun _ _ _ _ _ _ => rfl
theorem Sys2Proof.Laws.Encoding.fsetp : ∀ a0 a1 a2 a3 a4 a5 a6, Statement (.fsetp a0 a1 a2 a3 a4 a5 a6) := fun _ _ _ _ _ _ _ => rfl
theorem Sys2Proof.Laws.Encoding.sfu : ∀ a0 a1 a2 a3 a4, Statement (.sfu a0 a1 a2 a3 a4) := fun _ _ _ _ _ => rfl
theorem Sys2Proof.Laws.Encoding.fround : ∀ a0 a1 a2 a3 a4, Statement (.fround a0 a1 a2 a3 a4) := fun _ _ _ _ _ => rfl
theorem Sys2Proof.Laws.Encoding.cvt : ∀ a0 a1 a2 a3 a4 a5 a6, Statement (.cvt a0 a1 a2 a3 a4 a5 a6) := fun _ _ _ _ _ _ _ => rfl
theorem Sys2Proof.Laws.Encoding.fdot2 : ∀ a0 a1 a2 a3 a4, Statement (.fdot2 a0 a1 a2 a3 a4) := fun _ _ _ _ _ => rfl
theorem Sys2Proof.Laws.Encoding.fclamp : ∀ a0 a1 a2 a3 a4, Statement (.fclamp a0 a1 a2 a3 a4) := fun _ _ _ _ _ => rfl
theorem Sys2Proof.Laws.Encoding.mov : ∀ a0 a1 a2 a3 a4, Statement (.mov a0 a1 a2 a3 a4) := fun _ _ _ _ _ => rfl
theorem Sys2Proof.Laws.Encoding.movi : ∀ a0 a1 a2, Statement (.movi a0 a1 a2) := fun _ _ _ => rfl
theorem Sys2Proof.Laws.Encoding.movhi : ∀ a0 a1 a2, Statement (.movhi a0 a1 a2) := fun _ _ _ => rfl
theorem Sys2Proof.Laws.Encoding.sel : ∀ a0 a1 a2 a3 a4, Statement (.sel a0 a1 a2 a3 a4) := fun _ _ _ _ _ => rfl
theorem Sys2Proof.Laws.Encoding.xlane : ∀ a0 a1 a2 a3 a4 a5, Statement (.xlane a0 a1 a2 a3 a4 a5) := fun _ _ _ _ _ _ => rfl
theorem Sys2Proof.Laws.Encoding.vote : ∀ a0 a1 a2 a3 a4, Statement (.vote a0 a1 a2 a3 a4) := fun _ _ _ _ _ => rfl
theorem Sys2Proof.Laws.Encoding.redux : ∀ a0 a1 a2 a3, Statement (.redux a0 a1 a2 a3) := fun _ _ _ _ => rfl
theorem Sys2Proof.Laws.Encoding.qpop : ∀ a0 a1 a2, Statement (.qpop a0 a1 a2) := fun _ _ _ => rfl
theorem Sys2Proof.Laws.Encoding.qpush : ∀ a0 a1 a2, Statement (.qpush a0 a1 a2) := fun _ _ _ => rfl
theorem Sys2Proof.Laws.Encoding.ldx : ∀ a0 a1 a2 a3, Statement (.ldx a0 a1 a2 a3) := fun _ _ _ _ => rfl
theorem Sys2Proof.Laws.Encoding.stx : ∀ a0 a1 a2 a3, Statement (.stx a0 a1 a2 a3) := fun _ _ _ _ => rfl
theorem Sys2Proof.Laws.Encoding.xset : ∀ a0 a1 a2 a3 a4, Statement (.xset a0 a1 a2 a3 a4) := fun _ _ _ _ _ => rfl
theorem Sys2Proof.Laws.Encoding.rdid : ∀ a0 a1 a2 a3, Statement (.rdid a0 a1 a2 a3) := fun _ _ _ _ => rfl
theorem Sys2Proof.Laws.Encoding.ld : ∀ a0 a1 a2 a3 a4, Statement (.ld a0 a1 a2 a3 a4) := fun _ _ _ _ _ => rfl
theorem Sys2Proof.Laws.Encoding.st : ∀ a0 a1 a2 a3 a4, Statement (.st a0 a1 a2 a3 a4) := fun _ _ _ _ _ => rfl
theorem Sys2Proof.Laws.Encoding.atom : ∀ a0 a1 a2 a3 a4 a5, Statement (.atom a0 a1 a2 a3 a4 a5) := fun _ _ _ _ _ _ => rfl
theorem Sys2Proof.Laws.Encoding.cas : ∀ a0 a1 a2 a3 a4, Statement (.cas a0 a1 a2 a3 a4) := fun _ _ _ _ _ => rfl
theorem Sys2Proof.Laws.Encoding.red : ∀ a0 a1 a2 a3 a4, Statement (.red a0 a1 a2 a3 a4) := fun _ _ _ _ _ => rfl
theorem Sys2Proof.Laws.Encoding.lds : ∀ a0 a1 a2 a3 a4, Statement (.lds a0 a1 a2 a3 a4) := fun _ _ _ _ _ => rfl
theorem Sys2Proof.Laws.Encoding.sts : ∀ a0 a1 a2 a3 a4, Statement (.sts a0 a1 a2 a3 a4) := fun _ _ _ _ _ => rfl
theorem Sys2Proof.Laws.Encoding.atoms : ∀ a0 a1 a2 a3 a4 a5, Statement (.atoms a0 a1 a2 a3 a4 a5) := fun _ _ _ _ _ _ => rfl
theorem Sys2Proof.Laws.Encoding.pref : ∀ a0 a1 a2 a3, Statement (.pref a0 a1 a2 a3) := fun _ _ _ _ => rfl
theorem Sys2Proof.Laws.Encoding.ldlod : ∀ a0 a1 a2 a3 a4, Statement (.ldlod a0 a1 a2 a3 a4) := fun _ _ _ _ _ => rfl
theorem Sys2Proof.Laws.Encoding.sample : ∀ a0 a1 a2 a3 a4, Statement (.sample a0 a1 a2 a3 a4) := fun _ _ _ _ _ => rfl
theorem Sys2Proof.Laws.Encoding.bdiv : ∀ a0 a1 a2 a3 a4, Statement (.bdiv a0 a1 a2 a3 a4) := fun _ _ _ _ _ => rfl
theorem Sys2Proof.Laws.Encoding.join : ∀ a0 a1, Statement (.join a0 a1) := fun _ _ => rfl
theorem Sys2Proof.Laws.Encoding.strike : ∀ a0 a1 a2, Statement (.strike a0 a1 a2) := fun _ _ _ => rfl
theorem Sys2Proof.Laws.Encoding.lexit : ∀ a0 a1, Statement (.lexit a0 a1) := fun _ _ => rfl
theorem Sys2Proof.Laws.Encoding.callr : ∀ a0 a1 a2 a3 a4, Statement (.callr a0 a1 a2 a3 a4) := fun _ _ _ _ _ => rfl
theorem Sys2Proof.Laws.Encoding.lret : ∀ a0, Statement (.lret a0) := fun _ => rfl
theorem Sys2Proof.Laws.Encoding.sadd : ∀ a0 a1 a2 a3 a4, Statement (.sadd a0 a1 a2 a3 a4) := fun _ _ _ _ _ => rfl
theorem Sys2Proof.Laws.Encoding.ssub : ∀ a0 a1 a2 a3 a4, Statement (.ssub a0 a1 a2 a3 a4) := fun _ _ _ _ _ => rfl
theorem Sys2Proof.Laws.Encoding.smul : ∀ a0 a1 a2 a3 a4, Statement (.smul a0 a1 a2 a3 a4) := fun _ _ _ _ _ => rfl
theorem Sys2Proof.Laws.Encoding.slogic : ∀ a0 a1 a2 a3 a4, Statement (.slogic a0 a1 a2 a3 a4) := fun _ _ _ _ _ => rfl
theorem Sys2Proof.Laws.Encoding.sshift : ∀ a0 a1 a2 a3 a4, Statement (.sshift a0 a1 a2 a3 a4) := fun _ _ _ _ _ => rfl
theorem Sys2Proof.Laws.Encoding.smnmx : ∀ a0 a1 a2 a3 a4, Statement (.smnmx a0 a1 a2 a3 a4) := fun _ _ _ _ _ => rfl
theorem Sys2Proof.Laws.Encoding.sbitc : ∀ a0 a1 a2 a3, Statement (.sbitc a0 a1 a2 a3) := fun _ _ _ _ => rfl
theorem Sys2Proof.Laws.Encoding.scmp : ∀ a0 a1 a2 a3 a4 a5, Statement (.scmp a0 a1 a2 a3 a4 a5) := fun _ _ _ _ _ _ => rfl
theorem Sys2Proof.Laws.Encoding.saddi : ∀ a0 a1 a2 a3, Statement (.saddi a0 a1 a2 a3) := fun _ _ _ _ => rfl
theorem Sys2Proof.Laws.Encoding.sandi : ∀ a0 a1 a2 a3, Statement (.sandi a0 a1 a2 a3) := fun _ _ _ _ => rfl
theorem Sys2Proof.Laws.Encoding.sori : ∀ a0 a1 a2 a3, Statement (.sori a0 a1 a2 a3) := fun _ _ _ _ => rfl
theorem Sys2Proof.Laws.Encoding.sxori : ∀ a0 a1 a2 a3, Statement (.sxori a0 a1 a2 a3) := fun _ _ _ _ => rfl
theorem Sys2Proof.Laws.Encoding.sshifti : ∀ a0 a1 a2 a3 a4, Statement (.sshifti a0 a1 a2 a3 a4) := fun _ _ _ _ _ => rfl
theorem Sys2Proof.Laws.Encoding.smovi : ∀ a0 a1 a2, Statement (.smovi a0 a1 a2) := fun _ _ _ => rfl
theorem Sys2Proof.Laws.Encoding.smovhi : ∀ a0 a1 a2, Statement (.smovhi a0 a1 a2) := fun _ _ _ => rfl
theorem Sys2Proof.Laws.Encoding.sld : ∀ a0 a1 a2 a3 a4, Statement (.sld a0 a1 a2 a3 a4) := fun _ _ _ _ _ => rfl
theorem Sys2Proof.Laws.Encoding.sst : ∀ a0 a1 a2 a3 a4, Statement (.sst a0 a1 a2 a3 a4) := fun _ _ _ _ _ => rfl
theorem Sys2Proof.Laws.Encoding.satom : ∀ a0 a1 a2 a3 a4, Statement (.satom a0 a1 a2 a3 a4) := fun _ _ _ _ _ => rfl
theorem Sys2Proof.Laws.Encoding.ssel : ∀ a0 a1 a2 a3 a4, Statement (.ssel a0 a1 a2 a3 a4) := fun _ _ _ _ _ => rfl
theorem Sys2Proof.Laws.Encoding.sbfe : ∀ a0 a1 a2 a3 a4, Statement (.sbfe a0 a1 a2 a3 a4) := fun _ _ _ _ _ => rfl
theorem Sys2Proof.Laws.Encoding.spush : ∀ a0 a1, Statement (.spush a0 a1) := fun _ _ => rfl
theorem Sys2Proof.Laws.Encoding.spop : ∀ a0 a1, Statement (.spop a0 a1) := fun _ _ => rfl
theorem Sys2Proof.Laws.Encoding.rdsys : ∀ a0 a1 a2, Statement (.rdsys a0 a1 a2) := fun _ _ _ => rfl
theorem Sys2Proof.Laws.Encoding.wrsys : ∀ a0 a1 a2, Statement (.wrsys a0 a1 a2) := fun _ _ _ => rfl
theorem Sys2Proof.Laws.Encoding.rdcnt : ∀ a0 a1 a2, Statement (.rdcnt a0 a1 a2) := fun _ _ _ => rfl
theorem Sys2Proof.Laws.Encoding.bra : ∀ a0 a1 a2, Statement (.bra a0 a1 a2) := fun _ _ _ => rfl
theorem Sys2Proof.Laws.Encoding.call : ∀ a0 a1 a2, Statement (.call a0 a1 a2) := fun _ _ _ => rfl
theorem Sys2Proof.Laws.Encoding.jmpr : ∀ a0 a1 a2, Statement (.jmpr a0 a1 a2) := fun _ _ _ => rfl
theorem Sys2Proof.Laws.Encoding.jmprL : ∀ a0 a1 a2, Statement (.jmprL a0 a1 a2) := fun _ _ _ => rfl
theorem Sys2Proof.Laws.Encoding.ret : ∀ a0 a1 a2, Statement (.ret a0 a1 a2) := fun _ _ _ => rfl
theorem Sys2Proof.Laws.Encoding.loop : ∀ a0 a1 a2, Statement (.loop a0 a1 a2) := fun _ _ _ => rfl
theorem Sys2Proof.Laws.Encoding.exit : ∀ a0 a1, Statement (.exit a0 a1) := fun _ _ => rfl
theorem Sys2Proof.Laws.Encoding.spawn : ∀ a0 a1 a2 a3, Statement (.spawn a0 a1 a2 a3) := fun _ _ _ _ => rfl
theorem Sys2Proof.Laws.Encoding.yield : ∀ a0, Statement (.yield a0) := fun _ => rfl
theorem Sys2Proof.Laws.Encoding.nop : ∀ a0, Statement (.nop a0) := fun _ => rfl
theorem Sys2Proof.Laws.Encoding.trap : ∀ a0 a1, Statement (.trap a0 a1) := fun _ _ => rfl
theorem Sys2Proof.Laws.Encoding.brk : ∀ a0 a1, Statement (.brk a0 a1) := fun _ _ => rfl
theorem Sys2Proof.Laws.Encoding.tbarMark : ∀ a0 a1, Statement (.tbarMark a0 a1) := fun _ _ => rfl
theorem Sys2Proof.Laws.Encoding.tbarHold : ∀ a0 a1, Statement (.tbarHold a0 a1) := fun _ _ => rfl
theorem Sys2Proof.Laws.Encoding.tbarMeet : ∀ a0 a1, Statement (.tbarMeet a0 a1) := fun _ _ => rfl
theorem Sys2Proof.Laws.Encoding.tbarEnrol : ∀ a0 a1, Statement (.tbarEnrol a0 a1) := fun _ _ => rfl
theorem Sys2Proof.Laws.Encoding.cbarMark : ∀ a0 a1, Statement (.cbarMark a0 a1) := fun _ _ => rfl
theorem Sys2Proof.Laws.Encoding.cbarHold : ∀ a0 a1, Statement (.cbarHold a0 a1) := fun _ _ => rfl
theorem Sys2Proof.Laws.Encoding.cbarMeet : ∀ a0 a1, Statement (.cbarMeet a0 a1) := fun _ _ => rfl
theorem Sys2Proof.Laws.Encoding.fence : ∀ a0 a1, Statement (.fence a0 a1) := fun _ _ => rfl
theorem Sys2Proof.Laws.Encoding.xfence : ∀ a0 a1 a2 a3, Statement (.xfence a0 a1 a2 a3) := fun _ _ _ _ => rfl
theorem Sys2Proof.Laws.Encoding.publish : ∀ a0 a1, Statement (.publish a0 a1) := fun _ _ => rfl
theorem Sys2Proof.Laws.Encoding.evpop : ∀ a0 a1 a2, Statement (.evpop a0 a1 a2) := fun _ _ _ => rfl
theorem Sys2Proof.Laws.Encoding.evwait : ∀ a0, Statement (.evwait a0) := fun _ => rfl
theorem Sys2Proof.Laws.Encoding.ringwait : ∀ a0 a1 a2 a3, Statement (.ringwait a0 a1 a2 a3) := fun _ _ _ _ => rfl
theorem Sys2Proof.Laws.Encoding.ringpost : ∀ a0 a1 a2 a3, Statement (.ringpost a0 a1 a2 a3) := fun _ _ _ _ => rfl
theorem Sys2Proof.Laws.Encoding.gang : ∀ a0 a1, Statement (.gang a0 a1) := fun _ _ => rfl
theorem Sys2Proof.Laws.Encoding.obres : ∀ a0 a1 a2 a3, Statement (.obres a0 a1 a2 a3) := fun _ _ _ _ => rfl
theorem Sys2Proof.Laws.Encoding.obrel : ∀ a0 a1, Statement (.obrel a0 a1) := fun _ _ => rfl
theorem Sys2Proof.Laws.Encoding.mma : ∀ a0 a1 a2 a3 a4 a5, Statement (.mma a0 a1 a2 a3 a4 a5) := fun _ _ _ _ _ _ => rfl
theorem Sys2Proof.Laws.Encoding.mchain : ∀ a0 a1 a2 a3 a4 a5, Statement (.mchain a0 a1 a2 a3 a4 a5) := fun _ _ _ _ _ _ => rfl
theorem Sys2Proof.Laws.Encoding.mclr : ∀ a0 a1 a2 a3, Statement (.mclr a0 a1 a2 a3) := fun _ _ _ _ => rfl
theorem Sys2Proof.Laws.Encoding.mld : ∀ a0 a1 a2 a3 a4 a5 a6, Statement (.mld a0 a1 a2 a3 a4 a5 a6) := fun _ _ _ _ _ _ _ => rfl
theorem Sys2Proof.Laws.Encoding.mst : ∀ a0 a1 a2 a3 a4 a5 a6, Statement (.mst a0 a1 a2 a3 a4 a5 a6) := fun _ _ _ _ _ _ _ => rfl
theorem Sys2Proof.Laws.Encoding.mdrain : ∀ a0 a1 a2 a3 a4 a5, Statement (.mdrain a0 a1 a2 a3 a4 a5) := fun _ _ _ _ _ _ => rfl
theorem Sys2Proof.Laws.Encoding.mbound : ∀ a0 a1 a2 a3 a4, Statement (.mbound a0 a1 a2 a3 a4) := fun _ _ _ _ _ => rfl
theorem Sys2Proof.Laws.Encoding.mwait : ∀ a0 a1, Statement (.mwait a0 a1) := fun _ _ => rfl
theorem Sys2Proof.Laws.Encoding.copyG2s : ∀ a0 a1 a2 a3 a4, Statement (.copyG2s a0 a1 a2 a3 a4) := fun _ _ _ _ _ => rfl
theorem Sys2Proof.Laws.Encoding.copyS2g : ∀ a0 a1 a2 a3 a4, Statement (.copyS2g a0 a1 a2 a3 a4) := fun _ _ _ _ _ => rfl
theorem Sys2Proof.Laws.Encoding.copyG2ob : ∀ a0 a1 a2 a3 a4, Statement (.copyG2ob a0 a1 a2 a3 a4) := fun _ _ _ _ _ => rfl
theorem Sys2Proof.Laws.Encoding.copyS2ob : ∀ a0 a1 a2 a3 a4, Statement (.copyS2ob a0 a1 a2 a3 a4) := fun _ _ _ _ _ => rfl
theorem Sys2Proof.Laws.Encoding.copyG2st : ∀ a0 a1 a2 a3 a4, Statement (.copyG2st a0 a1 a2 a3 a4) := fun _ _ _ _ _ => rfl
theorem Sys2Proof.Laws.Encoding.copyS2gt : ∀ a0 a1 a2 a3 a4, Statement (.copyS2gt a0 a1 a2 a3 a4) := fun _ _ _ _ _ => rfl
theorem Sys2Proof.Laws.Encoding.copyG2obt : ∀ a0 a1 a2 a3 a4, Statement (.copyG2obt a0 a1 a2 a3 a4) := fun _ _ _ _ _ => rfl
theorem Sys2Proof.Laws.Encoding.copyK16 : ∀ a0 a1 a2 a3 a4, Statement (.copyK16 a0 a1 a2 a3 a4) := fun _ _ _ _ _ => rfl
theorem Sys2Proof.Laws.Encoding.copyG2g : ∀ a0 a1 a2 a3 a4, Statement (.copyG2g a0 a1 a2 a3 a4) := fun _ _ _ _ _ => rfl
theorem Sys2Proof.Laws.Encoding.gathB32 : ∀ a0 a1 a2 a3 a4, Statement (.gathB32 a0 a1 a2 a3 a4) := fun _ _ _ _ _ => rfl
theorem Sys2Proof.Laws.Encoding.gathB64 : ∀ a0 a1 a2 a3 a4, Statement (.gathB64 a0 a1 a2 a3 a4) := fun _ _ _ _ _ => rfl
theorem Sys2Proof.Laws.Encoding.gathB128 : ∀ a0 a1 a2 a3 a4, Statement (.gathB128 a0 a1 a2 a3 a4) := fun _ _ _ _ _ => rfl
theorem Sys2Proof.Laws.Encoding.travCast : ∀ a0 a1 a2 a3 a4, Statement (.travCast a0 a1 a2 a3 a4) := fun _ _ _ _ _ => rfl
theorem Sys2Proof.Laws.Encoding.travOccl : ∀ a0 a1 a2 a3 a4, Statement (.travOccl a0 a1 a2 a3 a4) := fun _ _ _ _ _ => rfl
theorem Sys2Proof.Laws.Encoding.travShadow : ∀ a0 a1 a2 a3 a4, Statement (.travShadow a0 a1 a2 a3 a4) := fun _ _ _ _ _ => rfl
theorem Sys2Proof.Laws.Encoding.travResume : ∀ a0 a1 a2 a3 a4, Statement (.travResume a0 a1 a2 a3 a4) := fun _ _ _ _ _ => rfl
theorem Sys2Proof.Laws.Encoding.travQuery : ∀ a0 a1 a2 a3 a4, Statement (.travQuery a0 a1 a2 a3 a4) := fun _ _ _ _ _ => rfl
theorem Sys2Proof.Laws.Encoding.buildMorton : ∀ a0 a1 a2 a3 a4, Statement (.buildMorton a0 a1 a2 a3 a4) := fun _ _ _ _ _ => rfl
theorem Sys2Proof.Laws.Encoding.buildSort : ∀ a0 a1 a2 a3 a4, Statement (.buildSort a0 a1 a2 a3 a4) := fun _ _ _ _ _ => rfl
theorem Sys2Proof.Laws.Encoding.buildEmit : ∀ a0 a1 a2 a3 a4, Statement (.buildEmit a0 a1 a2 a3 a4) := fun _ _ _ _ _ => rfl
theorem Sys2Proof.Laws.Encoding.buildRefit : ∀ a0 a1 a2 a3 a4, Statement (.buildRefit a0 a1 a2 a3 a4) := fun _ _ _ _ _ => rfl
theorem Sys2Proof.Laws.Encoding.buildUpdate : ∀ a0 a1 a2 a3 a4, Statement (.buildUpdate a0 a1 a2 a3 a4) := fun _ _ _ _ _ => rfl
theorem Sys2Proof.Laws.Encoding.buildGenpub : ∀ a0 a1 a2 a3 a4, Statement (.buildGenpub a0 a1 a2 a3 a4) := fun _ _ _ _ _ => rfl
theorem Sys2Proof.Laws.Encoding.buildGenret : ∀ a0 a1 a2 a3 a4, Statement (.buildGenret a0 a1 a2 a3 a4) := fun _ _ _ _ _ => rfl
theorem Sys2Proof.Laws.Encoding.buildCompact : ∀ a0 a1 a2 a3 a4, Statement (.buildCompact a0 a1 a2 a3 a4) := fun _ _ _ _ _ => rfl
theorem Sys2Proof.Laws.Encoding.strmIsect : ∀ a0 a1 a2 a3 a4, Statement (.strmIsect a0 a1 a2 a3 a4) := fun _ _ _ _ _ => rfl
theorem Sys2Proof.Laws.Encoding.strmCisect : ∀ a0 a1 a2 a3 a4, Statement (.strmCisect a0 a1 a2 a3 a4) := fun _ _ _ _ _ => rfl
theorem Sys2Proof.Laws.Encoding.strmMerge : ∀ a0 a1 a2 a3 a4, Statement (.strmMerge a0 a1 a2 a3 a4) := fun _ _ _ _ _ => rfl
theorem Sys2Proof.Laws.Encoding.strmDiff : ∀ a0 a1 a2 a3 a4, Statement (.strmDiff a0 a1 a2 a3 a4) := fun _ _ _ _ _ => rfl
theorem Sys2Proof.Laws.Encoding.collAllred : ∀ a0 a1 a2 a3 a4, Statement (.collAllred a0 a1 a2 a3 a4) := fun _ _ _ _ _ => rfl
theorem Sys2Proof.Laws.Encoding.collRedscat : ∀ a0 a1 a2 a3 a4, Statement (.collRedscat a0 a1 a2 a3 a4) := fun _ _ _ _ _ => rfl
theorem Sys2Proof.Laws.Encoding.collAllgath : ∀ a0 a1 a2 a3 a4, Statement (.collAllgath a0 a1 a2 a3 a4) := fun _ _ _ _ _ => rfl
theorem Sys2Proof.Laws.Encoding.collBcast : ∀ a0 a1 a2 a3 a4, Statement (.collBcast a0 a1 a2 a3 a4) := fun _ _ _ _ _ => rfl
theorem Sys2Proof.Laws.Encoding.lodBind : ∀ a0 a1 a2 a3 a4, Statement (.lodBind a0 a1 a2 a3 a4) := fun _ _ _ _ _ => rfl
theorem Sys2Proof.Laws.Encoding.lodMrlset : ∀ a0 a1 a2 a3 a4, Statement (.lodMrlset a0 a1 a2 a3 a4) := fun _ _ _ _ _ => rfl
theorem Sys2Proof.Laws.Encoding.lodMrlrd : ∀ a0 a1 a2 a3 a4, Statement (.lodMrlrd a0 a1 a2 a3 a4) := fun _ _ _ _ _ => rfl
theorem Sys2Proof.Laws.Encoding.lodFbpop : ∀ a0 a1 a2 a3 a4, Statement (.lodFbpop a0 a1 a2 a3 a4) := fun _ _ _ _ _ => rfl
theorem Sys2Proof.Laws.Encoding.lodFbstat : ∀ a0 a1 a2 a3 a4, Statement (.lodFbstat a0 a1 a2 a3 a4) := fun _ _ _ _ _ => rfl
theorem Sys2Proof.Laws.Encoding.tlbinv : ∀ a0 a1 a2 a3 a4, Statement (.tlbinv a0 a1 a2 a3 a4) := fun _ _ _ _ _ => rfl
theorem Sys2Proof.Laws.Encoding.harvest : ∀ a0 a1 a2 a3 a4, Statement (.harvest a0 a1 a2 a3 a4) := fun _ _ _ _ _ => rfl
theorem Sys2Proof.Laws.Encoding.rmapinv : ∀ a0 a1 a2 a3 a4, Statement (.rmapinv a0 a1 a2 a3 a4) := fun _ _ _ _ _ => rfl
theorem Sys2Proof.Laws.Encoding.profload : ∀ a0 a1 a2 a3 a4, Statement (.profload a0 a1 a2 a3 a4) := fun _ _ _ _ _ => rfl
theorem Sys2Proof.Laws.Encoding.ctxsave : ∀ a0 a1 a2 a3 a4, Statement (.ctxsave a0 a1 a2 a3 a4) := fun _ _ _ _ _ => rfl
theorem Sys2Proof.Laws.Encoding.ctxrestore : ∀ a0 a1 a2 a3 a4, Statement (.ctxrestore a0 a1 a2 a3 a4) := fun _ _ _ _ _ => rfl
theorem Sys2Proof.Laws.Encoding.ensetAllowance : ∀ a0 a1 a2 a3 a4, Statement (.ensetAllowance a0 a1 a2 a3 a4) := fun _ _ _ _ _ => rfl
theorem Sys2Proof.Laws.Encoding.ensetClearContext : ∀ a0 a1 a2 a3 a4, Statement (.ensetClearContext a0 a1 a2 a3 a4) := fun _ _ _ _ _ => rfl
theorem Sys2Proof.Laws.Encoding.trcctl : ∀ a0 a1 a2 a3 a4, Statement (.trcctl a0 a1 a2 a3 a4) := fun _ _ _ _ _ => rfl
theorem Sys2Proof.Laws.Encoding.dump : ∀ a0 a1 a2 a3 a4, Statement (.dump a0 a1 a2 a3 a4) := fun _ _ _ _ _ => rfl
theorem Sys2Proof.Laws.Encoding.linkctlPark : ∀ a0 a1 a2 a3 a4, Statement (.linkctlPark a0 a1 a2 a3 a4) := fun _ _ _ _ _ => rfl
theorem Sys2Proof.Laws.Encoding.linkctlWake : ∀ a0 a1 a2 a3 a4, Statement (.linkctlWake a0 a1 a2 a3 a4) := fun _ _ _ _ _ => rfl
theorem Sys2Proof.Laws.Encoding.linkctlSetWakeDepth : ∀ a0 a1 a2 a3 a4, Statement (.linkctlSetWakeDepth a0 a1 a2 a3 a4) := fun _ _ _ _ _ => rfl
theorem Sys2Proof.Laws.Encoding.linkctlReadStatus : ∀ a0 a1 a2 a3 a4, Statement (.linkctlReadStatus a0 a1 a2 a3 a4) := fun _ _ _ _ _ => rfl
theorem Sys2Proof.Laws.Encoding.launch : ∀ a0 a1 a2 a3 a4, Statement (.launch a0 a1 a2 a3 a4) := fun _ _ _ _ _ => rfl
theorem Sys2Proof.Laws.Encoding.fresumeWrite : ∀ a0, Statement (.fresumeWrite a0) := fun _ => rfl
theorem Sys2Proof.Laws.Encoding.registerWrite : ∀ a0 a1 a2 a3, Statement (.registerWrite a0 a1 a2 a3) := fun _ _ _ _ => rfl
theorem Sys2Proof.Laws.Encoding.lqheadWrite : ∀ a0 a1, Statement (.lqheadWrite a0 a1) := fun _ _ => rfl
theorem Sys2Proof.Laws.Encoding.debugResume : ∀ a0 a1, Statement (.debugResume a0 a1) := fun _ _ => rfl
theorem Sys2Proof.Laws.Encoding.pctlDrainWrite : ∀ a0 a1, Statement (.pctlDrainWrite a0 a1) := fun _ _ => rfl
theorem Sys2Proof.Laws.Encoding.pctlReset : ∀ a0, Statement (.pctlReset a0) := fun _ => rfl
theorem Sys2Proof.Laws.Encoding.hostBar2Read : ∀ a0 a1, Statement (.hostBar2Read a0 a1) := fun _ _ => rfl
theorem Sys2Proof.Laws.Encoding.hostBar2Write : ∀ a0 a1 a2, Statement (.hostBar2Write a0 a1 a2) := fun _ _ _ => rfl
theorem Sys2Proof.Laws.Encoding.moduleReset : ∀ a0 a1, Statement (.moduleReset a0 a1) := fun _ _ => rfl
theorem Sys2Proof.Laws.Encoding.helmLaneFetch : Statement .helmLaneFetch := rfl
theorem Sys2Proof.Laws.Encoding.breakpointStop : ∀ a0, Statement (.breakpointStop a0) := fun _ => rfl
theorem Sys2Proof.Laws.Encoding.runArbitration : ∀ a0 a1, Statement (.runArbitration a0 a1) := fun _ _ => rfl
theorem Sys2Proof.Laws.Encoding.ageUrgent : ∀ a0 a1, Statement (.ageUrgent a0 a1) := fun _ _ => rfl
theorem Sys2Proof.Laws.Encoding.resultWriteback : Statement .resultWriteback := rfl
theorem Sys2Proof.Laws.Encoding.loadReturn : Statement .loadReturn := rfl
theorem Sys2Proof.Laws.Encoding.runParkEnd : Statement .runParkEnd := rfl
theorem Sys2Proof.Laws.Encoding.yieldExpiry : Statement .yieldExpiry := rfl
theorem Sys2Proof.Laws.Encoding.commitRetire : Statement .commitRetire := rfl
theorem Sys2Proof.Laws.Encoding.matrixWordStart : ∀ a0, Statement (.matrixWordStart a0) := fun _ => rfl
theorem Sys2Proof.Laws.Encoding.matrixWordComplete : ∀ a0, Statement (.matrixWordComplete a0) := fun _ => rfl
theorem Sys2Proof.Laws.Encoding.promotionReplayEnd : ∀ a0, Statement (.promotionReplayEnd a0) := fun _ => rfl
theorem Sys2Proof.Laws.Encoding.commandAccept : Statement .commandAccept := rfl
theorem Sys2Proof.Laws.Encoding.commandStart : ∀ a0, Statement (.commandStart a0) := fun _ => rfl
theorem Sys2Proof.Laws.Encoding.recordPlace : ∀ a0, Statement (.recordPlace a0) := fun _ => rfl
theorem Sys2Proof.Laws.Encoding.enginePageRetry : ∀ a0, Statement (.enginePageRetry a0) := fun _ => rfl
theorem Sys2Proof.Laws.Encoding.faultTake : Statement .faultTake := rfl
theorem Sys2Proof.Laws.Encoding.pageRequest : Statement .pageRequest := rfl
theorem Sys2Proof.Laws.Encoding.teamSave : ∀ a0 a1, Statement (.teamSave a0 a1) := fun _ _ => rfl
theorem Sys2Proof.Laws.Encoding.pageRestoreWalk : ∀ a0, Statement (.pageRestoreWalk a0) := fun _ => rfl
theorem Sys2Proof.Laws.Encoding.teamRestore : ∀ a0 a1, Statement (.teamRestore a0 a1) := fun _ _ => rfl
theorem Sys2Proof.Laws.Encoding.barrierReleaseReady : Statement .barrierReleaseReady := rfl
theorem Sys2Proof.Laws.Encoding.fenceComplete : Statement .fenceComplete := rfl
theorem Sys2Proof.Laws.Encoding.xfenceComplete : Statement .xfenceComplete := rfl
theorem Sys2Proof.Laws.Encoding.publishComplete : Statement .publishComplete := rfl
theorem Sys2Proof.Laws.Encoding.launchAccept : ∀ a0, Statement (.launchAccept a0) := fun _ => rfl
theorem Sys2Proof.Laws.Encoding.launchWaitPoll : ∀ a0, Statement (.launchWaitPoll a0) := fun _ => rfl
theorem Sys2Proof.Laws.Encoding.teamPlace : ∀ a0, Statement (.teamPlace a0) := fun _ => rfl
theorem Sys2Proof.Laws.Encoding.launchFinish : ∀ a0, Statement (.launchFinish a0) := fun _ => rfl
theorem Sys2Proof.Laws.Encoding.admissionWindow : Statement .admissionWindow := rfl
theorem Sys2Proof.Laws.Encoding.nodeTailPoll : ∀ a0, Statement (.nodeTailPoll a0) := fun _ => rfl
theorem Sys2Proof.Laws.Encoding.batchFire : ∀ a0, Statement (.batchFire a0) := fun _ => rfl
theorem Sys2Proof.Laws.Encoding.tagWaitTimeout : ∀ a0, Statement (.tagWaitTimeout a0) := fun _ => rfl
theorem Sys2Proof.Laws.Encoding.pendingBitFlush : ∀ a0 a1, Statement (.pendingBitFlush a0 a1) := fun _ _ => rfl
theorem Sys2Proof.Laws.Encoding.ctimeAdvance : ∀ a0, Statement (.ctimeAdvance a0) := fun _ => rfl
theorem Sys2Proof.Laws.Encoding.residencyEntryExpire : ∀ a0 a1, Statement (.residencyEntryExpire a0 a1) := fun _ _ => rfl
theorem Sys2Proof.Laws.Encoding.tempoTick : Statement .tempoTick := rfl
theorem Sys2Proof.Laws.Encoding.feedbackFilterClear : Statement .feedbackFilterClear := rfl
theorem Sys2Proof.Laws.Encoding.energyBoundary : ∀ a0, Statement (.energyBoundary a0) := fun _ => rfl
theorem Sys2Proof.Laws.Encoding.sliceRequestEnter : ∀ a0 a1, Statement (.sliceRequestEnter a0 a1) := fun _ _ => rfl
theorem Sys2Proof.Laws.Encoding.dirRead : ∀ a0 a1, Statement (.dirRead a0 a1) := fun _ _ => rfl
theorem Sys2Proof.Laws.Encoding.dirOwnership : ∀ a0 a1, Statement (.dirOwnership a0 a1) := fun _ _ => rfl
theorem Sys2Proof.Laws.Encoding.dirHomeWrite : ∀ a0, Statement (.dirHomeWrite a0) := fun _ => rfl
theorem Sys2Proof.Laws.Encoding.dirHomeRead : ∀ a0, Statement (.dirHomeRead a0) := fun _ => rfl
theorem Sys2Proof.Laws.Encoding.rdcEvict : ∀ a0 a1, Statement (.rdcEvict a0 a1) := fun _ _ => rfl
theorem Sys2Proof.Laws.Encoding.filterVictim : ∀ a0, Statement (.filterVictim a0) := fun _ => rfl
theorem Sys2Proof.Laws.Encoding.leaseRecall : ∀ a0 a1, Statement (.leaseRecall a0 a1) := fun _ _ => rfl
theorem Sys2Proof.Laws.Encoding.peerInboundAccess : ∀ a0 a1 a2 a3 a4, Statement (.peerInboundAccess a0 a1 a2 a3 a4) := fun _ _ _ _ _ => rfl
theorem Sys2Proof.Laws.Encoding.peerReply : ∀ a0, Statement (.peerReply a0) := fun _ => rfl
theorem Sys2Proof.Laws.Encoding.peerTimeout : ∀ a0, Statement (.peerTimeout a0) := fun _ => rfl
theorem Sys2Proof.Laws.Encoding.rayNodeRead : ∀ a0, Statement (.rayNodeRead a0) := fun _ => rfl
theorem Sys2Proof.Laws.Encoding.rayEnd : ∀ a0, Statement (.rayEnd a0) := fun _ => rfl
theorem Sys2Proof.Laws.Encoding.rootRewrite : ∀ a0 a1, Statement (.rootRewrite a0 a1) := fun _ _ => rfl
theorem Sys2Proof.Laws.Encoding.compactReclaim : ∀ a0, Statement (.compactReclaim a0) := fun _ => rfl
theorem Sys2Proof.Laws.Encoding.drainDeadline : ∀ a0, Statement (.drainDeadline a0) := fun _ => rfl
theorem Sys2Proof.Laws.Encoding.selfWakeCompare : ∀ a0, Statement (.selfWakeCompare a0) := fun _ => rfl
theorem Sys2Proof.Laws.Encoding.wakeComplete : ∀ a0, Statement (.wakeComplete a0) := fun _ => rfl
theorem Sys2Proof.Laws.Encoding.wavelengthFail : ∀ a0 a1, Statement (.wavelengthFail a0 a1) := fun _ _ => rfl
theorem Sys2Proof.Laws.Encoding.flitCrcError : ∀ a0, Statement (.flitCrcError a0) := fun _ => rfl
theorem Sys2Proof.Laws.Encoding.linkRetrain : ∀ a0, Statement (.linkRetrain a0) := fun _ => rfl
theorem Sys2Proof.Laws.Encoding.retrainComplete : ∀ a0 a1, Statement (.retrainComplete a0 a1) := fun _ _ => rfl
theorem Sys2Proof.Laws.Encoding.dieReset : ∀ a0, Statement (.dieReset a0) := fun _ => rfl
theorem Sys2Proof.Laws.Encoding.dieReturn : ∀ a0 a1, Statement (.dieReturn a0 a1) := fun _ _ => rfl
theorem Sys2Proof.Laws.Encoding.homeDieWaitExpire : Statement .homeDieWaitExpire := rfl
theorem Sys2Proof.Laws.Encoding.spareApply : ∀ a0 a1 a2 a3, Statement (.spareApply a0 a1 a2 a3) := fun _ _ _ _ => rfl
theorem Sys2Proof.Laws.Encoding.slaliaRetrain : ∀ a0, Statement (.slaliaRetrain a0) := fun _ => rfl
theorem Sys2Proof.Laws.Encoding.slaliaLost : Statement .slaliaLost := rfl
theorem Sys2Proof.Laws.Encoding.thermalSample : ∀ a0 a1 a2, Statement (.thermalSample a0 a1 a2) := fun _ _ _ => rfl
theorem Sys2Proof.Laws.Encoding.thermalLevelReturn : ∀ a0, Statement (.thermalLevelReturn a0) := fun _ => rfl
theorem Sys2Proof.Laws.Encoding.softError : ∀ a0 a1 a2, Statement (.softError a0 a1 a2) := fun _ _ _ => rfl
theorem Sys2Proof.Laws.Encoding.patrolScrub : ∀ a0 a1, Statement (.patrolScrub a0 a1) := fun _ _ => rfl
theorem Sys2Proof.Laws.Encoding.storePerformed : Statement .storePerformed := rfl
theorem Sys2Proof.Laws.Encoding.sldResultReturn : Statement .sldResultReturn := rfl
end

