-- ==== Sys2Proof/Tests/Slice0.lean ====
section
/-!
SUPPORT. Small tests: ill-formed terms that the checks refuse, words of the manual's worked encodings, results of its worked examples, and
for each statement with hypotheses states that meet them. Expected values are the manual's tables and examples; the test's comment names
them.
-/
namespace Sys2Proof.Tests
open Sys2Proof.Machine Sys2Proof.Stated

/-! ### Ill-formed terms (R145, R131, R137, R138) -/

theorem test_wf_refuses_lane_integer : ∀ i ∈ [Instr.iadd 0 0 0 0 3 0, .isub 0 0 0 0 7 0, .imul 0 1 0 0 3 0, .imul 0 0 0 0 5 0, .imnmx 0 0 0 0 4 0,
    .logic 0 0 0 0 6 0, .shift 0 0 0 0 6 0, .shift 0 0 1 0 5 0, .bfe 0 0 0 0 2 0, .bitc 0 0 0 5 0, .bitc 0 0 0 0 2, .isetp 0 6 0 0 0 0 0,
    .isetp 0 0 0 0 0 0 3, .shifti 0 0 0 5 0, .iadd64 0 1 0 0 0 0, .iadd64 0 0 1 0 0 0, .iadd64 0 0 0 1 0 0], i.wf = false := by decide

theorem test_wf_refuses_lane_float : ∀ i ∈ [Instr.fadd 0 1 0 0 12 0, .fsub 0 0 1 0 12 0, .fmul 0 0 0 1 12 0, .dfma 0 1 0 0 0, .fmnmx 0 1 0 0 12 0,
    .fsetp 0 0 0 0 0 1 0, .fsetp 0 0 0 1 0 3 0, .fsetp 0 0 0 0 0 0 3, .sfu 0 0 0 8 0, .sfu 0 0 0 0 2, .fround 0 1 0 12 0, .fround 0 0 0 0 2,
    .cvt 0 0 0 14 0 0 0, .cvt 0 0 0 0 0 14 0, .cvt 0 0 1 3 0 0 0, .cvt 0 1 0 0 0 8 0, .cvt 0 0 0 0 0 0 2], i.wf = false := by decide

theorem test_wf_refuses_lane_moves : ∀ i ∈ [Instr.mov 0 0 0 3 0, .mov 0 0 0 0 2, .mov 0 0 8 1 0, .mov 0 0 0 1 1, .mov 0 8 0 2 0, .mov 0 0 0 2 2,
    .vote 0 0 0 4 0, .vote 0 0 0 0 1, .redux 0 0 8 0, .redux 0 0 0 2, .qpop 0 0 1, .qpush 0 0 2, .xset 0 0 0 4 0, .xset 0 0 0 0 2, .rdid 0 0 9 0,
    .rdid 0 0 0 1], i.wf = false := by decide

theorem test_wf_refuses_lane_memory : ∀ i ∈ [Instr.ld 0 0 0 8 0, .ld 0 1 0 5 0, .ld 0 2 0 6 0, .ld 0 4 0 7 0, .ld 0 0 1 0 0, .st 0 0 0 1 0, .st 0 0 0 3 0,
    .st 0 0 0 8 0, .st 0 0 1 4 0, .atom 0 0 0 0 10 0, .atom 0 0 1 0 0 0, .cas 0 0 1 0 0, .red 0 0 0 8 0, .red 0 1 0 0 0, .red 0 0 0 0 3, .lds 0 0 0 8 0,
    .lds 0 1 0 5 0, .sts 0 0 0 1 0, .atoms 0 0 0 0 10 0, .pref 0 0 2 0, .pref 0 1 0 0, .ldlod 0 0 0 0 4, .sample 0 0 0 0 4], i.wf = false := by decide

theorem test_wf_refuses_uniform : ∀ i ∈ [Instr.sadd 0 0 0 0 3, .sadd 0 0 0 0 16, .ssub 0 0 0 0 7, .smul 0 0 0 0 3, .slogic 0 0 0 0 6, .sshift 0 0 0 0 5,
    .smnmx 0 0 0 0 4, .sbitc 0 0 0 5, .scmp 0 6 0 0 0 0, .sshifti 0 0 0 5 0, .sld 0 0 1 0 0, .sld 0 1 0 1 0, .sst 0 1 0 1 0, .satom 0 0 0 0 10,
    .satom 0 0 1 0 0, .sbfe 0 0 0 0 2, .rdcnt 0 1 0, .rdcnt 0 0 4, .rdcnt 0 0 0x800, .jmpr 0 1 0, .jmprL 0 1 0, .ret 0 1 0, .spawn 0 0 1 0, .fence 0 5,
    .xfence 0 0 0 5, .publish 0 1, .evpop 0 2 0, .obres 0 0 1 0, .obres 0 0 0 1], i.wf = false := by decide

theorem test_wf_refuses_matrix_and_commands : ∀ i ∈ [Instr.mld 0 0 0 3 0 0 0, .mld 0 0 0 0 1 0 0, .mst 0 0 0 5 0 0 0, .mst 0 0 0 0 1 0 0, .mdrain 0 0 3 0 0 0,
    .copyG2s 0 8 0 0 0, .gathB32 0 8 0 0 0, .travCast 0 8 0 0 0, .buildEmit 0 8 0 0 0, .strmMerge 0 8 0 0 0, .collBcast 0 8 0 0 0, .lodBind 0 8 0 0 0,
    .tlbinv 0 8 0 0 0], i.wf = false := by decide

theorem test_wf_refuses_operations : ∀ i ∈ [Instr.registerWrite 0 2 0 true, .registerWrite 4 8 0 true, .hostBar2Read 2 4, .hostBar2Read 0x200000000 8,
    .hostBar2Write 0 1 0, .moduleReset (7, []) 0, .moduleReset (0, [(10, 13)]) 0, .runArbitration 768 0, .runArbitration 0 4, .ageUrgent 768 0, .teamSave 768 0, .teamSave 0 16,
    .teamRestore 0 768, .pendingBitFlush 768 0, .ctimeAdvance 768, .residencyEntryExpire 768 0, .energyBoundary [(1024, 0)], .sliceRequestEnter 8 0,
    .sliceRequestEnter 0 16, .dirRead 0 0, .dirRead 0x100000000 1, .dirOwnership 0 8, .dirHomeWrite 0x100000000, .dirHomeRead 0x100000000,
    .rdcEvict 8 0, .filterVictim 0x100000000, .leaseRecall 768 0, .peerInboundAccess 0 2 4 0 0, .peerInboundAccess 0 0 3 0 0, .peerInboundAccess 0 0 8 2 0, .peerInboundAccess 0 0 4 13 0, .rootRewrite 0 8,
    .selfWakeCompare 24], i.wf = false := by decide

/-! ### Decoding: the worked encodings (Tables 7.5, 7.11, 9.7, 10.6, 11.8, 12.8, 13.16, 14.17 and the text of 11 to 15) -/

/-- Tables 9.7 and 7.5. -/
theorem test_decode_lane_integer : decodeWord 0x011051AC = some (.iadd 0 4 5 6 11 0) ∧ decodeWord 0x0318108C = some (.imul 0 6 1 2 3 0) ∧
    decodeWord 0x13084188 = some (.iadd64 0 2 4 6 2 0) ∧ decodeWord 0x10087205 = some (.shifti 0 2 7 2 5) ∧
    decodeWord 0x080C4144 = some (.bfe 0 3 4 5 1 0) ∧ decodeWord 0x110420C4 = some (.dp4 0 1 2 3 4) ∧
    decodeWord 0x0B4C1084 = some (.isetp 0 2 3 1 2 1 0) := by decide

/-- Tables 9.7 and 7.5; a `cvt` with target code 0xF is unassigned. -/
theorem test_decode_lane_float : decodeWord 0x1820928B = some (.hfma2 0 8 9 10 11) ∧ decodeWord 0x140841B8 = some (.fadd 0 2 4 6 14 0) ∧
    decodeWord 0x1B0420DC = some (.fmnmx 0 1 2 3 7 0) ∧ decodeWord 0x1C4441B0 = some (.fsetp 0 2 1 4 6 3 0) ∧
    decodeWord 0x1D146004 = some (.sfu 0 5 6 1 0) ∧ decodeWord 0x57105187 = some (.ffma 1 4 5 6 7) ∧ decodeWord 0x1F0C9928 = some (.cvt 0 3 9 9 0 10 0) ∧
    decodeWord 0x1F0C9940 = some (.cvt 0 3 9 9 1 0 0) ∧ decodeWord 0x1F0C993C = none := by decide

/-- Table 10.6. -/
theorem test_decode_lane_memory : decodeWord 0x2F1024FE = some (.ld 0 4 2 4 0xFE) ∧ decodeWord 0x2F282503 = some (.ld 0 10 2 5 3) ∧ decodeWord 0x30202602 = some (.st 0 8 2 6 2) ∧
    decodeWord 0x311021A4 = some (.atom 0 4 2 6 9 0) ∧ decodeWord 0x34143404 = some (.lds 0 5 3 4 4) ∧ decodeWord 0x33002220 = none := by decide

/-- Table 10.6. -/
theorem test_decode_lane_control : decodeWord 0x7C640000 = some (.strike 1 3 1) ∧ decodeWord 0x7DE00000 = some (.lexit 1 7) ∧
    decodeWord 0x7E28400C = some (.callr 1 1 2 4 12) ∧ decodeWord 0x7FE00000 = some (.lret 1) := by decide

/-- 15, the `ldlod` and `sample` examples. -/
theorem test_decode_level_loads : decodeWord 0x782041C0 = some (.ldlod 1 8 4 7 0) ∧ decodeWord 0x393041C4 = some (.sample 0 12 4 7 1) ∧
    decodeWord 0x39502FCC = some (.sample 0 20 2 63 3) := by decide

/-- Table 11.8; an odd pair is unassigned. -/
theorem test_decode_uniform : decodeWord 0x8110518A = some (.sadd 0 4 5 6 10) ∧ decodeWord 0x884C1081 = some (.scmp 0 2 3 1 2 1) ∧
    decodeWord 0x8E2BFFFF = some (.smovi 0 10 0x3FFFF) ∧ decodeWord 0x90202402 = some (.sld 0 8 2 1 2) ∧
    decodeWord 0x91146FFD = some (.sst 0 5 6 3 0x3FD) ∧ decodeWord 0x920420C4 = some (.satom 0 1 2 3 4) ∧
    decodeWord 0x970C0001 = some (.rdsys 0 3 1) ∧ decodeWord 0x99180769 = some (.rdcnt 0 6 0x769) ∧ decodeWord 0x991C0000 = none := by decide

/-- Tables 7.11 and 11.8. -/
theorem test_decode_uniform_flow : decodeWord 0xA1000000 = some (.nop 0) ∧ decodeWord 0xE1000000 = some (.nop 1) ∧ decodeWord 0xA1000001 = none ∧
    decodeWord 0x9A4FFFFA = some (.bra 0 2 0xFFFFA) ∧ decodeWord 0x9AF00010 = some (.call 0 7 16) ∧ decodeWord 0x9C03E007 = some (.ret 0 62 7) ∧
    decodeWord 0x9D100FFC = some (.loop 0 4 0xFFC) ∧ decodeWord 0x9E000007 = some (.exit 0 7) ∧
    decodeWord 0x9F244600 = some (.spawn 0 9 4 24) := by decide

/-- Table 11.8 and the examples of 11. -/
theorem test_decode_barriers_and_queues : decodeWord 0xA400000E = some (.tbarMeet 0 3) ∧ decodeWord 0xA5000004 = some (.cbarMark 0 1) ∧
    decodeWord 0xA6000003 = some (.fence 0 3) ∧ decodeWord 0xA7010058 = some (.xfence 0 2 1 3) ∧ decodeWord 0xA9200001 = some (.evpop 0 8 1) ∧
    decodeWord 0xAB005002 = some (.ringwait 0 5 0 2) ∧ decodeWord 0xAC005012 = some (.ringpost 0 5 1 2) ∧
    decodeWord 0x95005000 = some (.spush 0 5) := by decide

/-- Table 12.8 and the examples of 12. -/
theorem test_decode_matrix : decodeWord 0xB06A802B = some (.mma 0 3 5 16 5 3) ∧ decodeWord 0xB16AC003 = some (.mchain 0 3 5 24 0 3) ∧
    decodeWord 0xB2000001 = some (.mclr 0 0 0 1) ∧ decodeWord 0xB354200A = some (.mld 0 2 1 2 4 1 2) ∧
    decodeWord 0xB4763044 = some (.mst 0 3 1 3 6 8 4) ∧ decodeWord 0xB5250005 = some (.mdrain 0 1 2 32 0 5) ∧
    decodeWord 0xB6605006 = some (.mbound 0 3 10 0 6) ∧ decodeWord 0xB7000040 = some (.mwait 0 8) ∧ decodeWord 0xAD00C000 = some (.gang 0 12) ∧
    decodeWord 0xAE144180 = some (.obres 0 5 4 6) ∧ decodeWord 0xAF140000 = some (.obrel 0 5) := by decide

/-- The worked commands of 13, 14 and 15, and unassigned functions. -/
theorem test_decode_commands : decodeWord 0xB8004087 = some (.copyG2s 0 8 2 3 1) ∧ decodeWord 0xB80E014D = some (.copyK16 0 0 5 6 1) ∧
    decodeWord 0xB90200C8 = some (.gathB64 0 0 3 4 0) ∧ decodeWord 0xBA04014C = some (.travShadow 0 0 5 6 0) ∧
    decodeWord 0xBB041297 = some (.buildEmit 0 2 10 11 1) ∧ decodeWord 0xBC024087 = some (.strmCisect 0 8 2 3 1) ∧
    decodeWord 0xBD005297 = some (.collAllred 0 10 10 11 1) ∧ decodeWord 0xBE06010A = some (.lodFbpop 0 0 4 5 0) ∧
    decodeWord 0xBF001087 = some (.tlbinv 0 2 2 3 1) ∧ decodeWord 0xBF14194D = some (.launch 0 3 5 6 1) := by decide

theorem test_decode_unassigned : decodeWord 0 = none ∧ decodeWord 0x40000000 = none ∧ decodeWord 0x80000000 = none ∧ decodeWord 0xC0000000 = none ∧
    decodeWord 0xB8124087 = none ∧ decodeWord 0xB8004086 = none ∧ decodeWord 0xBA0A4087 = none ∧ decodeWord 0xBB104087 = none ∧
    decodeWord 0xBE0A1087 = none := by decide

/-- The decoder on a word laid out in memory: `movi v7, 0x2A5C`. -/
theorem test_decode_table_word : decodeTableWord 32 0x231C2A5C = some (.movi 0 7 0x2A5C) ∧ decodeTableWord 32 0 = none := by decide

/-! ### Small states -/

/-- A group of 64 registers at 0x1000 with every lane live; `v` are its registers, n of lane l at 32n + l. -/
def group (v : List (Nat × Word) := []) (role : Role := .general) : Group :=
  { gidx := 0, role := role, nregs := 64, live := 0xFFFFFFFF, frontier := [{ pc := 0x1000, prio := 0, mask := 0xFFFFFFFF }], v := v,
    stall := [emptyFrame 0x1000] }

/-- A module that is Ready, one privileged team of context 1 whose heap maps each VA below 2^28 to the same PA; the executing word has `mask`. -/
def machine (g : Group) (mask : Word := 1) : State :=
  { State.reset with
    stage := 7, grp := g, cur := { pc := 0x1000, mask := mask, seq := 1 },
    team := { uid := 1, asid := 1, priv := true },
    hub := { State.reset.hub with ctx := [(1, { heapLimit := 0x10000000, valid := true, priv := true })] } }

/-- Registers 1, 2 and 3 of lane 0. -/
def lane0 (a : Word) (b : Word := 0) (c : Word := 0) : State := machine (group [(32, a), (64, b), (96, c)])

/-- s registers 1 to 3. -/
def uni (a : Word) (b : Word := 0) (c : Word := 0) : State := machine { group with s := [(1, a), (2, b), (3, c)] } 0xFFFFFFFF

/-- The next state. -/
def after (i : Instr) (s : State) : State := match exec i s with | .next t => t | .fault _ => {} | .refused _ => {}

/-- Register n of lane 0 after a word, its results landed. -/
def v0 (i : Instr) (s : State) (n : Nat) : Word := (after i s).grp.landAll.vreg n 0
/-- Predicate n of lane 0. -/
def p0 (i : Instr) (s : State) (n : Nat) : Bool := (after i s).grp.landAll.ptrue n 0
/-- s register n. -/
def s0 (i : Instr) (s : State) (n : Nat) : Word := (after i s).grp.sreg n

/-! ### Lane words: the worked results of Table 9.6 -/

theorem test_iadd_carry : v0 (.iadd 0 4 1 2 11 0) (lane0 0xFFFFFFF0 0x20) 4 = 0x10 ∧ p0 (.iadd 0 4 1 2 11 0) (lane0 0xFFFFFFF0 0x20) 3 = true := by decide
theorem test_iadd_saturates : v0 (.iadd 0 4 1 2 1 0) (lane0 0x7FFFFFF0 0x20) 4 = 0x7FFFFFFF := by decide
theorem test_isub : v0 (.isub 0 4 1 2 2 0) (lane0 5 9) 4 = 0 ∧ v0 (.isub 0 4 1 2 8 0) (lane0 5 9) 4 = 0xFFFFFFFC ∧
    p0 (.isub 0 4 1 2 8 0) (lane0 5 9) 0 = true := by decide
theorem test_imul : v0 (.imul 0 4 1 2 0 0) (lane0 0xFFFFFFFD 0x40000000) 4 = 0x40000000 ∧ v0 (.imul 0 4 1 2 1 0) (lane0 0xFFFFFFFD 0x40000000) 4 = 0xFFFFFFFF ∧
    v0 (.imul 0 4 1 2 2 0) (lane0 0xFFFFFFFD 0x40000000) 4 = 0x3FFFFFFF := by decide
theorem test_dp4 : v0 (.dp4 0 4 1 2 3) (lane0 0x7F80FF02 0x01020403 10) 4 = 0xFFFFFF8B := by decide
theorem test_shift : v0 (.shift 0 4 1 2 2 0) (lane0 0x80000000 40) 4 = 0xFFFFFFFF ∧ v0 (.shift 0 4 1 2 1 0) (lane0 0x80000000 40) 4 = 0 := by decide
theorem test_funnel_shift : v0 (.shift 0 4 2 1 5 0) (lane0 8 0x01234567 0x89ABCDEF) 4 = 0xEF012345 := by decide
theorem test_bfe : v0 (.bfe 0 4 1 2 1 0) (lane0 0xF00 0x408) 4 = 0xFFFFFFFF ∧ v0 (.bfe 0 4 1 2 0 0) (lane0 0xF00 0x408) 4 = 0xF := by decide
theorem test_bfi : v0 (.bfi 0 4 1 2 3) (lane0 5 0xFFFFFFFF 0x410) 4 = 0xFFF5FFFF := by decide
theorem test_bitc : v0 (.bitc 0 4 1 1 0) (lane0 0x10000) 4 = 15 ∧ v0 (.bitc 0 4 1 2 0) (lane0 0x10000) 4 = 16 ∧ v0 (.bitc 0 4 1 4 0) (lane0 0x10000) 4 = 17 := by decide
theorem test_fmnmx : v0 (.fmnmx 0 4 1 2 0 0) (lane0 0x80000000 0) 4 = 0x80000000 ∧ v0 (.fmnmx 0 4 1 2 1 0) (lane0 0x7FC00001 0x40400000) 4 = 0x7FC00000 ∧
    v0 (.fmnmx 0 4 1 2 3 0) (lane0 0x7FC00001 0x40400000) 4 = 0x40400000 := by decide
theorem test_fround : v0 (.fround 0 4 1 3 0) (lane0 0xC0200000) 4 = 0xC0000000 ∧ v0 (.fround 0 4 1 0 0) (lane0 0xBE99999A) 4 = 0xBF800000 ∧
    v0 (.fround 0 4 1 1 0) (lane0 0xBE99999A) 4 = 0x80000000 := by decide
theorem test_sfu_rsq : v0 (.sfu 0 4 1 1 0) (lane0 0x80000000) 4 = 0xFF800000 := by decide

/-- R174: `sfu.rcp` of the least subnormal is infinity. -/
theorem test_sfu_rcp : v0 (.sfu 0 4 1 0 0) (lane0 1) 4 = 0x7F800000 := by decide

/-- Table 4.6. -/
theorem test_cvt_f16 : v0 (.cvt 0 4 1 9 0 10 0) (lane0 0x3EAAAAAB) 4 = 0x3555 ∧ v0 (.cvt 0 4 1 9 3 10 0) (lane0 0x3EAAAAAB) 4 = 0x3556 := by decide

/-- Table 4.6: -3.7 to i8 in RN, RZ; 300.5 saturates; 500.0 to e4m3 saturates, to e5m2 rounds to 512. -/
theorem test_cvt_narrow : v0 (.cvt 0 4 1 9 0 0 0) (lane0 0xC06CCCCD) 4 = 0xFFFFFFFC ∧ v0 (.cvt 0 4 1 9 1 0 0) (lane0 0xC06CCCCD) 4 = 0xFFFFFFFD ∧
    v0 (.cvt 0 4 1 9 0 0 0) (lane0 0x43964000) 4 = 0x7F ∧ v0 (.cvt 0 4 1 9 0 13 0) (lane0 0x43FA0000) 4 = 0x7E := by decide

theorem test_imad_wraps : v0 (.imad 0 1 1 2 3) (lane0 0x10000 0x10000 7) 1 = 7 := by decide
theorem test_iadd64_carries : v0 (.iadd64 0 4 2 2 0 0) (machine (group [(64, 0x80000000), (96, 1)])) 5 = 3 := by decide
theorem test_sad : v0 (.sad 0 4 1 2 3) (lane0 3 10 5) 4 = 12 := by decide
theorem test_isetp_natural : p0 (.isetp 0 2 3 1 2 1 0) (lane0 1 0xFFFFFFFF) 3 = true ∧ p0 (.isetp 0 2 3 1 2 0 0) (lane0 1 0xFFFFFFFF) 3 = false := by decide
theorem test_fadd_rounds_once : v0 (.fadd 0 4 1 2 0 0) (lane0 0x3F800000 0x33800000) 4 = 0x3F800000 ∧
    v0 (.fadd 0 4 1 2 3 0) (lane0 0x3F800000 0x33800000) 4 = 0x3F800001 := by decide
theorem test_ffma_fuses : v0 (.ffma 0 4 1 2 3) (lane0 0x3F800001 0x3F7FFFFF 0xBF800000) 4 = 0x337FFFFE := by decide
theorem test_fsetp_unordered : p0 (.fsetp 0 2 1 1 2 0 0) (lane0 0x7FC00000 0) 1 = false ∧ p0 (.fsetp 0 1 1 1 2 0 0) (lane0 0x7FC00000 0) 1 = true := by decide
theorem test_movhi_keeps_low : v0 (.movhi 0 1 0x12345) (lane0 0xFFFFFFFF) 1 = 0x48D17FFF := by decide
theorem test_vote_ballot : v0 (.vote 0 4 7 2 0) (machine group 0x8001) 4 = 0x8001 := by decide

/-- R180: `xlane.up` at the edge of the mask keeps the lane's own value. -/
theorem test_xlane_edge : v0 (.xlane 0 4 1 2 1 0) (lane0 9 1) 4 = 9 := by decide

/-- R182: the lowest active lane comes first; wrapping sum. -/
theorem test_redux : (after (.redux 0 1 0 0) (machine (group [(32, 3), (33, 0xFFFFFFFF)]) 3)).grp.ret.map (fun e => e.value) = [2] := by decide
theorem test_redux_max_n32 : (after (.redux 0 1 7 0) (machine (group [(32, 3), (33, 0xFFFFFFFF)]) 3)).grp.ret.map (fun e => e.value) = [0xFFFFFFFF] := by decide

/-! ### Lane memory -/

/-- Registers 2 and 3 hold an address, register 4 data. -/
def mem0 (addr : Word) (data : Word := 0) : State := machine (group [(64, addr), (128, data)])

/-- R190: a store puts its low bytes at the address and leaves the neighbours. -/
theorem test_st_n16 : let t := after (.st 0 4 2 2 0) (mem0 0x2002 0xAABBCCDD)
    memRead t.mem 0x2000 8 = 0xCCDD0000 := by decide

set_option maxRecDepth 20000 in
/-- R189: a signed byte is extended. -/
theorem test_ld_i8 : v0 (.ld 0 4 2 1 0) { mem0 0x2000 with mem := [(0x2000, 0x80)] } 4 = 0xFFFFFF80 := by decide

/-- R191: the destination takes the old value, memory the sum. -/
theorem test_atom_add : let s := { mem0 0x2000 5 with mem := [(0x2000, 0xFF)] }
    v0 (.atom 0 5 2 4 0 0) s 5 = 0xFF ∧ memRead (after (.atom 0 5 2 4 0 0) s).mem 0x2000 4 = 0x104 := by decide

/-- R192: an unequal compare writes nothing. -/
theorem test_cas_unequal : let s := { mem0 0x2000 5 with mem := [(0x2000, 6)] }
    (after (.cas 0 5 2 4 4) s).mem = s.mem ∧ v0 (.cas 0 5 2 4 4) s 5 = 6 := by decide

/-- R398, Table 23.3: a misaligned address is ALIGN (0x0E), and the handler stands at the vector. -/
theorem test_ld_align : let s := { mem0 0x2001 with hub := { (mem0 0).hub with ctx := [(1, { heapLimit := 0x10000000, trapVec := 0x8000 })] } }
    (after (.ld 0 4 2 4 0) s).grp.fault.cls = 0x0E ∧ (after (.ld 0 4 2 4 0) s).grp.fault.faddr = 0x2001 ∧
    (after (.ld 0 4 2 4 0) s).grp.frontier.getLast? = some { pc := 0x8000, prio := 63, mask := 1, handler := true } := by decide

/-! ### Divergence -/

set_option maxRecDepth 20000 in
/-- R202: `bdiv` splits the entry by its predicate. -/
theorem test_bdiv : (after (.bdiv 0 1 0 2 4) (machine { group with p := [(1, 0xF)] } 0xFFFFFFFF)).grp.frontier =
    [{ pc := 0x1010, prio := 2, mask := 0xF }, { pc := 0x1004, prio := 0, mask := 0xFFFFFFF0 }] := by decide

set_option maxRecDepth 20000 in
/-- R200: the last arrival at a `join` releases every enrolled lane. -/
theorem test_join_last :
    let g : Group := { group with frontier := [{ pc := 0x1000, prio := 0, mask := 3 }], live := 7, j := [(0, { enrolled := 7, arrived := 4, rpc := 0x1004 })] }
    (after (.join 0 0) (machine g 3)).grp.frontier = [{ pc := 0x1004, prio := 0, mask := 7 }] := by decide

set_option maxRecDepth 20000 in
/-- R39: `lexit` of every lane ends the group. -/
theorem test_lexit : (after (.lexit 0 7) (machine group 0xFFFFFFFF)).grp.live = 0 := by decide

/-! ### Uniform words -/

theorem test_sadd_carry : s0 (.sadd 0 4 1 2 10) (uni 0xFFFFFFFF 1) 4 = 0 ∧ (after (.sadd 0 4 1 2 10) (uni 0xFFFFFFFF 1)).grp.creg 2 = true := by decide
theorem test_smovi_sign : s0 (.smovi 0 10 0x3FFFF) (uni 0) 10 = 0xFFFFFFFF := by decide
theorem test_bra : (after (.bra 0 7 0xFFFFA) (uni 0)).grp.frontier = [{ pc := 0xFE8, prio := 0, mask := 0xFFFFFFFF }] := by decide

/-- The table of the program of 11: the third `loop` falls through with s4 = 0. -/
theorem test_loop : s0 (.loop 0 1 0xFFC) (uni 1) 1 = 0 ∧ (after (.loop 0 1 0xFFC) (uni 1)).grp.frontier = [{ pc := 0x1004, prio := 0, mask := 0xFFFFFFFF }] ∧
    (after (.loop 0 1 0xFFC) (uni 2)).grp.frontier = [{ pc := 0xFF0, prio := 0, mask := 0xFFFFFFFF }] := by decide

theorem test_call_links : s0 (.call 0 7 16) (uni 0) 62 = 0x1004 ∧ (after (.call 0 7 16) (uni 0)).grp.frontier = [{ pc := 0x1040, prio := 0, mask := 0xFFFFFFFF }] := by decide
set_option maxRecDepth 20000 in
theorem test_sld : s0 (.sld 0 4 2 0 0) { uni 0 0x2000 with mem := [(0x2001, 2)] } 4 = 0x200 := by decide
theorem test_sst_negative_offset : memRead (after (.sst 0 1 2 3 0x3FD) (uni 0x155 0x2003)).mem 0x2000 4 = 0x55 := by decide
set_option maxRecDepth 20000 in
theorem test_satom_max : s0 (.satom 0 4 2 1 4) { uni 9 0x2000 with mem := [(0x2000, 7)] } 4 = 7 ∧
    memRead (after (.satom 0 4 2 1 4) { uni 9 0x2000 with mem := [(0x2000, 7)] }).mem 0x2000 4 = 9 := by decide
theorem test_spush : (after (.spush 0 1) (uni 5)).grp.fwd = [.value 1 5] := by decide
set_option maxRecDepth 20000 in
theorem test_exit_frees_team : (after (.exit 0 7) (uni 0)).grp.live = 0 ∧ (after (.exit 0 7) (uni 0)).team.uid = 0 := by decide

set_option maxRecDepth 20000 in
/-- R219: the second of two expected groups completes the barrier: arrivals cleared, phase flipped. -/
theorem test_tbar_mark : let s := uni 0
    (after (.tbarMark 0 2) { s with team := { s.team with bars := [(2, { expect := 3, arrived := 2 })] } }).team.bars = [(2, { expect := 3, phase := true })] := by decide

set_option maxRecDepth 20000 in
/-- R225: `evpop` takes the oldest record. -/
theorem test_evpop : let s := uni 0
    let t := after (.evpop 0 8 1) { s with team := { s.team with events := [{ tag := 7, status := 2, unit := 3, cookie := 4, count := 5 }] } }
    t.grp.sreg 8 = 7 ∧ t.grp.sreg 9 = 0x03000002 ∧ t.grp.sreg 10 = 4 ∧ t.grp.sreg 11 = 5 ∧ t.grp.creg 1 = true ∧ t.team.events = [] := by decide

set_option maxRecDepth 20000 in
/-- R262: a command word makes one commit-buffer entry with its operand pairs. -/
theorem test_cop_entry : (after (.copyG2s 0 8 1 0 1) (uni 0 0x40 4)).grp.commit.map (fun e => e.effect) = [.command 0x38 0 0x400000040 0 8 true] := by decide

set_option maxRecDepth 20000 in
/-- Table 23.2: `cop.sys` outside a privileged context is PRIVILEGE (0x05); UNTRAPPED retires the lanes, so the group ends. -/
theorem test_privilege : let s := uni 0
    (after (.tlbinv 0 0 1 2 0) { s with team := { s.team with priv := false } }).grp.live = 0 := by decide

/-! ### Operations -/

/-- Lane 0 stands in a handler, lane 1 in the program. -/
def inTrap : State := machine { group with
  live := 3, fault := { valid := true, fpc := 0x2000, prio := 5 },
  frontier := [{ pc := 0x3000, prio := 1, mask := 2 }, { pc := 0x8000, prio := 63, mask := 1, handler := true }] }

set_option maxRecDepth 20000 in
/-- R391: the return from a handler with SKIP. -/
theorem test_fresume :
    (after (.fresumeWrite 1) inTrap).grp.frontier = [{ pc := 0x3000, prio := 1, mask := 2 }, { pc := 0x2004, prio := 5, mask := 1 }] := by decide

set_option maxRecDepth 20000 in
theorem test_module_reset : (after (.moduleReset (0, []) 9) State.reset).stage = 7 ∧ (after (.moduleReset (3, []) 9) State.reset).bootFail = true := by decide
theorem test_barrier_release : (after .barrierReleaseReady (machine { group with wait := .released 40 })).clock = 40 := by decide
theorem test_drain : ((after (.pctlDrainWrite 1 true) (uni 0)).ctl 1).drain = true := by decide
theorem test_link_retrain : (look (after (.linkRetrain 3) (uni 0)).links 3 {}).retraining = true := by decide

/-! ### Witnesses: for each statement with hypotheses a state and operands that meet them -/

theorem witness_LaneFloatArithmetic : ∀ i ∈ [Instr.fadd 0 63 1 2 0 0, .fadd 3 62 2 4 15 0, .fsub 0 4 1 2 7 0, .fmul 0 4 1 2 11 0, .ffma 0 4 1 2 3,
    .hfma2 0 4 1 2 3, .bfma2 0 4 1 2 3, .dfma 0 62 2 4 6, .fdot2 0 4 1 2 3], i.wf = true ∧ laneReady i (lane0 5 6 7) := by
  unfold laneReady; decide

theorem witness_LaneFloatForms : ∀ i ∈ [Instr.fmnmx 0 4 1 2 0 0, .fmnmx 0 62 2 4 15 0, .fclamp 0 4 1 2 3, .sfu 0 63 1 0 0, .sfu 0 4 1 5 0, .fround 0 4 1 3 0,
    .fround 0 62 2 12 0, .cvt 0 4 1 9 0 0 0, .cvt 0 62 2 8 0 3 0, .fsetp 0 7 1 1 2 0 0, .fsetp 0 6 7 2 4 3 0], i.wf = true ∧ laneReady i (lane0 5 6 7) := by
  unfold laneReady; decide

/-- A number of f16, and rounding's premises at its least subnormal and its greatest finite value. -/
theorem witness_RoundingKeepsRepresentable : f16 ∈ formats ∧ 0x7BFF < 2 ^ f16.width ∧ f16.decode 0x7BFF = .fin false 2047 5 ∧
    f16.decode 1 = .fin false 1 (-24) ∧ f16.decode 0x8000 = .fin true 0 (-24) := by decide

theorem witness_InvalidGivesDefaultNan : (f32.decode 0x7FC00001).isNan = true ∧ f32.decode 0x7F800000 = .inf false ∧ f32.decode 0xFF800000 = .inf true ∧
    (f32.decode 0x80000000).isZero = true := by decide

theorem witness_LaneIntegerArithmetic : ∀ i ∈ [Instr.iadd 0 63 1 2 0 0, .iadd 0 4 1 2 1 0, .iadd 0 4 1 2 15 0, .isub 0 4 1 2 2 0, .isub 0 4 1 2 8 0,
    .iadd64 0 62 2 4 0 0, .iadd64 0 4 2 6 9 0, .iaddi 0 4 1 0xFFF, .imul 0 4 1 2 0 0, .imul 0 62 1 2 4 0, .imad 0 4 1 2 3, .dp4 0 4 1 2 3, .sad 0 4 1 2 3],
    i.wf = true ∧ laneReady i (lane0 5 6 7) := by unfold laneReady; decide

theorem witness_LaneIntegerBits : ∀ i ∈ [Instr.imnmx 0 4 1 2 3 0, .logic 0 63 1 2 5 0, .andi 0 4 1 0xFFF, .ori 0 4 1 1, .xori 0 4 1 1, .shift 0 4 1 2 0 0,
    .shift 0 4 62 2 5 0, .shifti 0 4 1 4 31, .bfe 0 4 1 2 1 0, .bfi 0 4 1 2 3, .bitc 0 4 1 4 0, .isetp 0 5 7 1 2 1 0], i.wf = true ∧ laneReady i (lane0 5 6 7) := by
  unfold laneReady; decide

theorem witness_LaneMoveForms : ∀ i ∈ [Instr.mov 0 63 1 0 0, .mov 0 4 7 1 0, .mov 0 7 1 2 0, .movi 0 63 0x3FFFF, .movhi 0 4 1, .sel 0 4 1 2 7,
    .xlane 0 4 1 2 3 0, .vote 0 4 7 3 0, .rdid 0 4 8 0], i.wf = true ∧ laneReady i (lane0 5 6 7) := by unfold laneReady; decide

set_option maxRecDepth 20000 in
theorem witness_LaneQueues :
    ((Instr.redux 0 1 7 0).wf = true ∧ laneReady (.redux 0 1 7 0) (lane0 5) ∧ (lane0 5).cur.mask ≠ 0 ∧ (lane0 5).grp.ret.length < 8) ∧
    ((Instr.qpush 0 63 0).wf = true ∧ laneReady (.qpush 0 63 0) (lane0 5)) ∧
    (let s := machine { group with fwd := [.value 0 9] }
     laneReady (.qpop 0 63 0) s ∧ queuedValues s = [(0, 9)] ∧ 0 < s.cur.seq) ∧
    (let s := machine { group with fwd := [.value 1 9] }
     (63 : BitVec 6).toNat < s.grp.nregs ∧ ∀ x ∈ queuedValues s, s.cur.seq ≤ x.1) := by unfold laneReady; decide

set_option maxRecDepth 20000 in
/-- Index register 1 of lane 0: BASE 4, INDEX at LIMIT 8. -/
theorem witness_LaneIndexed : let s := machine { group with x := [(32, 0x00080404)] }
    laneReady (.ldx 0 5 1 0) s ∧ effInside s 1 0 ∧ laneReady (.stx 0 5 1 0) s ∧ (∀ l ∈ active s, (effReg s 1 0 l).toNat ∉ lockedRegs s.team s.grp.gidx) ∧
    effReg s 1 0 0 = 8 ∧ (Instr.xset 0 3 1 3 0).wf = true ∧ laneReady (.xset 0 3 1 3 0) s := by unfold laneReady effInside; decide

/-! #### Uniform words -/

theorem witness_UniformIntegerWords : ∀ x ∈ [(Instr.sadd 0 63 62 61 0, [62, 61]), (.sadd 0 4 1 2 15, [1, 2]), (.ssub 0 4 1 2 2, [1, 2]), (.smul 0 4 1 2 2, [1, 2]),
    (.slogic 0 4 1 2 5, [1, 2]), (.sshift 0 4 1 2 4, [1, 2]), (.smnmx 0 4 1 2 3, [1, 2]), (.sbitc 0 4 1 4, [1]), (.sbfe 0 4 1 2 1, [1, 2]), (.saddi 0 4 1 0xFFF, [1]),
    (.sandi 0 4 1 1, [1]), (.sori 0 4 1 1, [1]), (.sxori 0 4 1 1, [1]), (.sshifti 0 4 1 4 31, [1]), (.smovi 0 63 0, []), (.smovhi 0 63 0, [63]), (.ssel 0 4 1 2 7, [1, 2]),
    (.scmp 0 5 7 1 2 1, [1, 2])], x.1.wf = true ∧ uniformReady x.2 (uni 5 6 7) := by unfold uniformReady; decide

theorem witness_UniformBranches : (∀ x ∈ [(Instr.bra 0 7 0xFFFFF, []), (.loop 0 63 0xFFF, [63]), (.nop 0, [])], x.1.wf = true ∧ uniformReady x.2 (uni 5 0x2000 0)) ∧
    (uniformReady [2, 3] (uni 5 0x2000 0) ∧ (uni 5 0x2000 0).grp.creg 6 = false ∧ (uni 5 0x2000 0).grp.creg 7 = true ∧ targetOk (srPair (uni 5 0x2000 0) 2) = true) ∧
    (uniformReady [2, 3] (uni 5 0x2002 0) ∧ targetOk (srPair (uni 5 0x2002 0) 2) = false ∧ targetOk (srPair (uni 5 0 0x00800000) 2) = false) := by unfold uniformReady; decide

theorem witness_UniformCalls : uniformReady [2, 3] (uni 5 0x2000 0) ∧ ((uni 5 0x2000 0).grp.creg 7 = true → targetOk (srPair (uni 5 0x2000 0) 2) = true) ∧
    uniformReady [2, 3] (uni 5 1 0) ∧ (uni 5 1 0).grp.creg 7 = true ∧ targetOk (srPair (uni 5 1 0) 2) = false := by unfold uniformReady; decide

set_option maxRecDepth 20000 in
theorem witness_UniformExitYieldTrap : ((uni 0).grp.creg 7 = true ∧ quiet (uni 0) = true ∧ (uni 0).team.uid ≠ 0) ∧ uniformReady [] (uni 0) ∧ (uni 0).grp.creg 1 = false ∧
    (debugAt (uni 0) (uni 0).team.asid (uni 0).clock).brkEn = false ∧
    (let s := { uni 0 with hub := { (uni 0).hub with debug := [(1, { brkEn := true })] } }
     uniformReady [] s ∧ quiet s = true ∧ (debugAt s s.team.asid s.clock).brkEn = true) := by unfold uniformReady; decide

/-- The executing group of `s` in a context whose handler is at `h`, with a second group in its team. -/
def withHandler (h : DWord) (s : State) : State := { s with
  team := { s.team with groups := [{ s.grp with gidx := 1 }] },
  hub := { s.hub with ctx := [(1, { heapLimit := 0x10000000, valid := true, priv := true, trapVec := h })] } }

/-- A group about to execute one of the four words, in a context with a handler. -/
def aboutTo : State := withHandler 0x8000 (uni 0)

set_option maxRecDepth 20000 in
theorem witness_ExitYieldTrapBreakComplete : youngest aboutTo ∧ onePlace aboutTo ∧ quiet aboutTo = true ∧ aboutTo.grp.creg 7 = true ∧ aboutTo.grp.creg 1 = false ∧
    aboutTo.grp.inHandler = false ∧ handlerVa aboutTo = 0x8000 ∧ (debugAt aboutTo aboutTo.team.asid aboutTo.clock).brkEn = false := by
  unfold youngest onePlace uniformReady; decide

theorem witness_ExitYieldTrapBreakComplete_team : aboutTo.team.groups ≠ [] := by simp [aboutTo, withHandler]

set_option maxRecDepth 20000 in
/-- A `brk` that stops; one lane of the group at a `trap` without a handler; a word that waits for an owed result, and one for an older write. -/
theorem witness_ExitYieldTrapBreakComplete_others :
    (let s := { uni 0 with hub := { (uni 0).hub with debug := [(1, { brkEn := true })] } }
     youngest s ∧ quiet s = true ∧ (debugAt s s.team.asid s.clock).brkEn = true) ∧
    (let s := machine group 1
     youngest s ∧ quiet s = true ∧ s.grp.inHandler = false ∧ handlerVa s = 0 ∧ s.grp.live &&& ~~~s.cur.mask ≠ 0) ∧
    (let s := { uni 0 with grp := { (uni 0).grp with owed := [(0, [(4, 9)])] } }
     s.grp.creg 7 = true ∧ s.grp.owed.isEmpty = false) ∧
    (let s := { uni 0 with grp := { (uni 0).grp with commit := [{ cur := { seq := 0 }, effect := .regs [(4, 9)] [] }] },
                           hub := { (uni 0).hub with debug := [(1, { brkEn := true })] } }
     s.grp.creg 7 = true ∧ quiet s = false ∧ (debugAt s s.team.asid s.clock).brkEn = true) := by
  unfold youngest uniformReady; decide

/-- A team whose barrier `b` stands as given. -/
def withBar (b : Nat) (x : Barrier) : State := { uni 5 6 7 with team := { (uni 0).team with bars := [(b, x)] } }

set_option maxRecDepth 20000 in
/-- The last arrival and one before the last, a group not expected, a second arrival; barriers 0 and 15. -/
theorem witness_TeamBarriers :
    (∀ x ∈ [(15, { expect := 1 }), (0, { expect := 3 }), (3, { expect := 3, arrived := 2 })], let s := withBar x.1 x.2
      arriveReady s ∧ s.team.uid ≠ 0 ∧ s.grp.wait = .ready ∧ (bar s (BitVec.ofNat 4 x.1)).expect &&& ownBit s ≠ 0 ∧
        (bar s (BitVec.ofNat 4 x.1)).arrived &&& ownBit s = 0) ∧
    (arriveReady (withBar 3 {}) ∧ (bar (withBar 3 {}) 3).expect &&& ownBit (withBar 3 {}) = 0) ∧
    (let s := withBar 3 { expect := 3, arrived := 1 }
     arriveReady s ∧ (bar s 3).arrived &&& ownBit s ≠ 0) ∧
    (∀ h ∈ [false, true], let s := { uni 0 with grp := { (uni 0).grp with bars := [(3, { held := h })] } }
      uniformReady [] s ∧ s.grp.wait = .ready ∧ (∀ e ∈ s.grp.commit, e.effect ≠ .arrive 3) ∧ (look s.grp.bars 3 {}).held = h) := by
  unfold arriveReady uniformReady; decide

/-- A team that is member 1 of a cluster of 2, whose barriers hold `arr`. -/
def inCluster (arr : List (Nat × Half)) : State := { uni 0 with
  clusters := [{ seqNo := 0, cidx := 0, arr := arr }],
  team := { (uni 0).team with clh := 1, clw := 2, midx := 1 } }

set_option maxRecDepth 20000 in
/-- The first member's arrival, the last one's, and a second one of the same member; `cbar.hold` released and not. -/
theorem witness_ClusterBarrier :
    (∀ arr ∈ [([] : List (Nat × Half)), [(3, 1)]], let s := inCluster arr
      arriveReady s ∧ s.grp.wait = .ready ∧ clusterOf s s.team = some { seqNo := 0, cidx := 0, arr := arr } ∧ (look arr 3 0).getLsbD s.team.midx = false ∧ s.team.midx < 16) ∧
    (∀ arr ∈ [([] : List (Nat × Half)), [(3, 2)]], let s := inCluster arr
      uniformReady [] s ∧ (∀ e ∈ s.grp.commit, e.effect ≠ .clusterArrive 3)) ∧
    (let s := inCluster [(3, 2)]
     arriveReady s ∧ clusterOf s s.team = some { seqNo := 0, cidx := 0, arr := [(3, 2)] } ∧ (look [(3, (2 : Half))] 3 0).getLsbD s.team.midx = true) := by
  unfold arriveReady uniformReady; decide

set_option maxRecDepth 20000 in
theorem witness_EventQueue : let s := { uni 0 with team := { (uni 0).team with events := [{ tag := 7, status := 2, unit := 3, cookie := 4, count := 5 }] } }
    uniformReady [] s ∧ quiet s = true ∧ (Instr.evpop 0 60 7).wf = true ∧ s.team.events = [{ tag := 7, status := 2, unit := 3, cookie := 4, count := 5 }] ∧
      (uni 0).team.events = [] := by unfold uniformReady; decide

/-- A team whose ring 2 has three slots; register 1 holds the item. -/
def withRing (full ph : BitVec 64) (item : Word) : State := { uni item with team := { (uni 0).team with rings := [(2, { slots := 3, full := full, ph := ph })] } }

set_option maxRecDepth 20000 in
/-- Item 5 is slot 2 in lap 1; posts that find the bits they want and against them; the undeclared ring 0. -/
theorem witness_StageRings :
    (uniformReady [1] (withRing 4 4 5) ∧ (ring (withRing 4 4 5) 2).slots ≠ 0 ∧ slotOf (ring (withRing 4 4 5) 2) 5 = 2 ∧ lapOf (ring (withRing 4 4 5) 2) 5 = true) ∧
    (arriveReady (withRing 4 4 5) ∧ (ring (withRing 4 4 5) 2).slots ≤ 64 ∧ (ring (withRing 4 4 5) 2).full.getLsbD 2 = decide ((1 : BitVec 1) = 1) ∧
      (ring (withRing 4 4 5) 2).ph.getLsbD 2 = true) ∧
    (arriveReady (withRing 0 0 0) ∧ (ring (withRing 0 0 0) 2).full.getLsbD 0 = decide ((0 : BitVec 1) = 1) ∧ (ring (withRing 0 0 0) 2).ph.getLsbD 0 = lapOf (ring (withRing 0 0 0) 2) 0) ∧
    ((ring (withRing 0 0 0) 0).slots = 0) ∧
    ((ring (withRing 1 0 0) 2).full.getLsbD 0 = decide ((0 : BitVec 1) = 0) ∧ (ring (withRing 0 0 3) 2).ph.getLsbD 0 ≠ lapOf (ring (withRing 0 0 3) 2) 3) := by
  unfold arriveReady uniformReady; decide

/-! #### Memory words -/

theorem emptyL1 (s : State) (h : ∀ e ∈ s.cores, e.2.l1 = []) : l1Current s := by
  intro c e he
  have key : ∀ (m : List (Nat × Core)), (∀ e ∈ m, e.2.l1 = []) → (look m c {}).l1 = [] := by
    intro m hm
    induction m with
    | nil => rfl
    | cons x r ih =>
      simp only [look]
      split
      · exact hm x (by simp)
      · exact ih fun e he => hm e (by simp [he])
  have : (s.core c).l1 = [] := key s.cores h
  simp [this] at he

/-- No request is held, and few stand in the queue of any slice. -/
def fewQueued (u : State) : Bool := u.injected.isEmpty && u.dies.all fun e => e.2.queued.all fun q => decide (q.2.length ≤ 8)

theorem look_all {β : Type} (p : β → Prop) (k : Nat) (d : β) (hd : p d) : ∀ m : Sparse β, (∀ e ∈ m, p e.2) → p (look m k d)
  | [], _ => hd
  | (i, v) :: r, h => by
    simp only [look]; split
    · exact h (i, v) (by simp)
    · exact look_all p k d hd r fun e he => h e (by simp [he])

theorem roomOf {u : State} {n : Nat} (h : fewQueued u = true) (hn : n ≤ 24 := by decide) : roomAtSlices u n := by
  simp only [fewQueued, Bool.and_eq_true, List.isEmpty_iff, List.all_eq_true, decide_eq_true_eq] at h
  refine ⟨h.1, fun d sl => ?_⟩
  have h1 : (look (u.die d).queued sl []).length ≤ 8 :=
    look_all (fun x => x.length ≤ 8) sl [] (by simp) _ (look_all (fun x : Die => ∀ e ∈ x.queued, e.2.length ≤ 8) d {} (by simp) u.dies h.2)
  exact Nat.le_trans (Nat.add_le_add_right (Nat.le_trans (List.length_filter_le _ _) h1) n) (by omega)

/-- The verdict of a word whose one lane reaches device memory at 0x2000. -/
def atDevice : List LaneAcc := [{ lane := 0, va := 0x2000, v := .ok (.device 0x2000) { waypart := 0, policy := 0 } }]

theorem oneDevice {l : List LaneAcc} (h : l = atDevice) : deviceLanes l (fun _ => 0x2000) := by
  subst h; intro x hx; simp [atDevice] at hx; subst hx; exact ⟨_, rfl⟩

theorem onePlain {l : List LaneAcc} (u : State) (n : Nat) (h : l = atDevice) (hn : n ≤ 128) :
    ∀ x ∈ l, plain u n ((fun _ => Target.device 0x2000) x.lane) ∧ ∃ c, x.v = .ok ((fun _ => Target.device 0x2000) x.lane) c := by
  subst h; intro x hx; simp [atDevice] at hx; subst hx; exact ⟨by simpa [plain] using hn, _, rfl⟩

set_option maxRecDepth 20000 in
theorem witness_LaneLoad_checks : ∀ i ∈ [(Instr.ld 0 4 2 0 0, (0 : BitVec 4)), (.ld 0 63 2 3 0, 3), (.ld 0 56 2 7 0, 7)],
    i.1.wf = true ∧ memReady i.1 (mem0 0x2000) ∧ (checks i.1 (mem0 0x2000) (sizeBytes i.2) .read 2 0).2 = atDevice ∧
    (∀ e ∈ (checks i.1 (mem0 0x2000) (sizeBytes i.2) .read 2 0).1.cores, e.2.l1 = []) ∧ sizeBytes i.2 ≤ 128 ∧
    fewQueued (checks i.1 (mem0 0x2000) (sizeBytes i.2) .read 2 0).1 = true := by unfold memReady; decide

theorem witness_LaneLoad : ∀ i ∈ [(Instr.ld 0 4 2 0 0, (0 : BitVec 4)), (.ld 0 63 2 3 0, 3), (.ld 0 56 2 7 0, 7)],
    ∃ tgt : Nat → Target, i.1.wf = true ∧ memReady i.1 (mem0 0x2000) ∧ (let c := checks i.1 (mem0 0x2000) (sizeBytes i.2) .read 2 0
      (∀ x ∈ c.2, plain c.1 (sizeBytes i.2) (tgt x.lane) ∧ ∃ h, x.v = .ok (tgt x.lane) h) ∧ l1Current c.1 ∧ roomAtSlices c.1 (active (mem0 0x2000)).length) := by
  intro i h
  obtain ⟨h1, h2, h3, h4, h5, h6⟩ := witness_LaneLoad_checks i h
  exact ⟨fun _ => .device 0x2000, h1, h2, onePlain _ _ h3 h5, emptyL1 _ h4, roomOf h6⟩

/-- A group of context 1 whose page at 0x10000 is a window on host memory, the address in register 2. -/
def hostPage : State := { mem0 0x10000 with mem := [(0, 1), (8, 0xE7), (10, 1), (13, 0x40)], hub := { State.reset.hub with ctx := [(1, { valid := true })] } }

set_option maxRecDepth 20000 in
theorem witness_LaneLoad_host : (Instr.ld 0 8 2 7 0).wf = true ∧ memReady (.ld 0 8 2 7 0) hostPage ∧ hostPage.cur.mask ≠ 0 ∧
    (checks (.ld 0 8 2 7 0) hostPage 32 .read 2 0).1.slalia.lost = false ∧
    (checks (.ld 0 8 2 7 0) hostPage 32 .read 2 0).2.map (fun x => match x.v with | .ok (.host b _) _ => some b | _ => none) = [some 0x10000] := by
  unfold memReady; decide

set_option maxRecDepth 20000 in
theorem witness_LaneStore_checks : ∀ i ∈ [(Instr.st 0 4 2 0 0, (0 : BitVec 4)), (.st 0 63 2 2 0, 2), (.st 0 56 2 7 0, 7)],
    i.1.wf = true ∧ memReady i.1 (mem0 0x2000) ∧ (checks i.1 (mem0 0x2000) (sizeBytes i.2) .write 2 0).2 = atDevice ∧
    fewQueued (checks i.1 (mem0 0x2000) (sizeBytes i.2) .write 2 0).1 = true := by unfold memReady; decide

theorem witness_LaneStore : ∀ i ∈ [(Instr.st 0 4 2 0 0, (0 : BitVec 4)), (.st 0 63 2 2 0, 2), (.st 0 56 2 7 0, 7)],
    ∃ pa, i.1.wf = true ∧ memReady i.1 (mem0 0x2000) ∧ deviceLanes (checks i.1 (mem0 0x2000) (sizeBytes i.2) .write 2 0).2 pa ∧
      roomAtSlices (checks i.1 (mem0 0x2000) (sizeBytes i.2) .write 2 0).1 (active (mem0 0x2000)).length := by
  intro i h
  obtain ⟨h1, h2, h3, h4⟩ := witness_LaneStore_checks i h
  exact ⟨_, h1, h2, oneDevice h3, roomOf h4⟩

set_option maxRecDepth 20000 in
theorem witness_LaneAtomics_checks : ∀ i ∈ [Instr.atom 0 63 2 4 9 0, .cas 0 5 2 4 6, .red 0 2 4 7 0],
    i.wf = true ∧ memReady i (mem0 0x2000 5) ∧ (checks i (mem0 0x2000 5) 4 .atomic 2 0).2 = atDevice ∧
    fewQueued (checks i (mem0 0x2000 5) 4 .atomic 2 0).1 = true := by unfold memReady; decide

theorem witness_LaneAtomics : ∀ i ∈ [Instr.atom 0 63 2 4 9 0, .cas 0 5 2 4 6, .red 0 2 4 7 0],
    ∃ pa, i.wf = true ∧ memReady i (mem0 0x2000 5) ∧ deviceLanes (checks i (mem0 0x2000 5) 4 .atomic 2 0).2 pa ∧
      roomAtSlices (checks i (mem0 0x2000 5) 4 .atomic 2 0).1 (active (mem0 0x2000 5)).length := by
  intro i h
  obtain ⟨h1, h2, h3, h4⟩ := witness_LaneAtomics_checks i h
  exact ⟨_, h1, h2, oneDevice h3, roomOf h4⟩

/-- A team with 4096 bytes of scratchpad; register 2 of lane 0 holds `r`. -/
def withScratch (r : Word) : State := { mem0 r with team := { (mem0 0).team with scratchSize := 0x1000 } }

set_option maxRecDepth 20000 in
/-- The last word of the allocation; offsets one past it, below 0 and not a multiple of the size. -/
theorem witness_Scratchpad :
    (∀ i ∈ [Instr.lds 0 4 2 4 0, .sts 0 4 2 4 0, .atoms 0 4 2 5 0 0], i.wf = true ∧ memReady i (withScratch 0xF0000FFC) ∧
      scratchLanes (withScratch 0xF0000FFC) 4 2 0 (fun _ => (1, 0xFFC))) ∧
    (withScratch 0xF0000FFC).team.uid ≠ 0 ∧ (0xF0000FFC : Word).toNat / 2 ^ 28 = 15 ∧
    (((withScratch 0xF0000FFC).allTeams.filter fun t => t.core = (withScratch 0xF0000FFC).team.core).map fun t => t.tslot) = [0] ∧
    (scratchLane (withScratch 0xF0001000) 4 0xF0001000 0).2 = .fail 0x12 0 ∧ (scratchLane (withScratch 0xF0000000) 4 0xF0000000 (-4)).2 = .fail 0x12 0 ∧
    (scratchLane (withScratch 0xF0000002) 4 0xF0000002 0).2 = .fail 0x0E 0 := by unfold memReady scratchLanes; decide

set_option maxRecDepth 20000 in
theorem witness_LanePrefetch : (Instr.pref 0 2 1 0x7F).wf = true ∧ memReady (.pref 0 2 1 0x7F) (mem0 0x2000) ∧ active (mem0 0x2000) = [0] ∧
    (checkLane (issued (.pref 0 2 0 0) (mem0 0x2000)) 1 .read ((regPair (mem0 0x2000) 2 0 + BitVec.ofInt 64 0) &&& ~~~127)).2 =
      .ok (.device 0x2000) { waypart := 0, policy := 0 } := by unfold memReady; decide

/-- Every premise of `LanePathDevice` holds after reset, for an access at the end of a line. -/
theorem witness_LanePathDevice : l1Current State.reset ∧ 0x207C % 128 + 4 ≤ 128 := ⟨emptyL1 _ (by decide), by decide⟩

/-- A 128 by 128 resource of 4-byte texels, its tiles at 0x10000, its residency map at 0x40000, its one level below the tail. -/
def slotBits : BitVec 512 := 0x10007f007f000000000004000000000000000300000000000000010000
/-- It stands in slot 1 of context 1. -/
def withSlot : State := { lane0 0 with ctxRes := [(1, { slots := [(1, some slotBits)] })] }

set_option maxRecDepth 20000 in
/-- Destinations up to the last that fits; the empty slot 2. -/
theorem witness_LaneLevelLoads_ready : ((Instr.ldlod 0 62 2 1 0).wf = true ∧ memReady (.ldlod 0 62 2 1 0) withSlot) ∧
    ((Instr.sample 0 59 2 1 0).wf = true ∧ memReady (.sample 0 59 2 1 0) withSlot) ∧ memReady (.ldlod 0 62 2 2 0) withSlot ∧
    lockedRegs withSlot.team withSlot.grp.gidx = [] ∧ 62 + ((lodOf slotBits).z / 4 + 1) ≤ min 64 withSlot.grp.nregs := by unfold memReady; decide

set_option maxRecDepth 20000 in
theorem witness_LaneLevelLoads_slots : slotOf (issued (.ldlod 0 62 2 1 0) withSlot) withSlot.team.asid 1 = some (lodOf slotBits) ∧
    slotOf (issued (.sample 0 59 2 1 0) withSlot) withSlot.team.asid 1 = some (lodOf slotBits) ∧
    slotOf (issued (.ldlod 0 62 2 2 0) withSlot) withSlot.team.asid 2 = none := ⟨rfl, rfl, rfl⟩

/-- A line of device memory that holds `n` bytes from a lane's address on. -/
def insideLine (n lane : Nat) (a : LaneAcc) : Bool := match a.v with | .ok (.device pa) _ => decide (pa % 128 + n ≤ 128 ∧ a.lane = lane) | _ => false

theorem foundOf {lanes : List LodLane} {n : Nat} (h : (lanes.all fun x => x.accs.all fun a => insideLine n x.lane a) = true) : texelsFound lanes n := by
  intro x hx a ha
  have h1 := List.all_eq_true.mp (List.all_eq_true.mp h x hx) a ha
  unfold insideLine at h1
  split at h1
  · rename_i pa c e
    exact ⟨pa, c, e, of_decide_eq_true h1⟩
  · cases h1

set_option maxRecDepth 20000 in
theorem witness_LaneLevelLoads_texels : texelsFound (lookups (.ldlod 0 62 2 1 0) withSlot (lodOf slotBits) false 2 1 0 false).2 (lodOf slotBits).z ∧
    texelsFound (lookups (.sample 0 59 2 1 0) withSlot (lodOf slotBits) true 2 1 0 false).2 (lodOf slotBits).z ∧
    (lookups (.sample 0 59 2 1 0) withSlot (lodOf slotBits) true 2 1 0 false).2.length = 1 ∧
    roomAtSlices (lookups (.ldlod 0 62 2 1 0) withSlot (lodOf slotBits) false 2 1 0 false).1 1 ∧
    roomAtSlices (lookups (.sample 0 59 2 1 0) withSlot (lodOf slotBits) true 2 1 0 false).1 1 :=
  ⟨foundOf (by decide), foundOf (by decide), by decide, roomOf (by decide), roomOf (by decide)⟩

/-! #### Uniform memory, queues, system registers -/

theorem answerOf {α β : Type} {p : α × β} {v : β} (h : p.2 = v) : p = (p.1, v) := by rw [← h]

set_option maxRecDepth 20000 in
theorem witness_UniformMemory_checks :
    (∀ z : BitVec 2, (Instr.sld 0 4 2 z 0).wf = true ∧ accessReady [2, 3] (uni 9 0x2000) ∧
      (checkLane (uni 9 0x2000) (uniBytes z) .read (uniAddress (uni 9 0x2000) 2 0 (uniBytes z))).2 = .ok (.device 0x2000) { waypart := 0, policy := 0 } ∧
      (∀ e ∈ (checkLane (uni 9 0x2000) (uniBytes z) .read (uniAddress (uni 9 0x2000) 2 0 (uniBytes z))).1.cores, e.2.l1 = []) ∧ 0x2000 % 128 + uniBytes z ≤ 128 ∧
      fewQueued (checkLane (uni 9 0x2000) (uniBytes z) .read (uniAddress (uni 9 0x2000) 2 0 (uniBytes z))).1 = true) ∧
    (∀ z : BitVec 2, (Instr.sst 0 4 2 z 0).wf = true ∧ accessReady ([2, 3, 4] ++ if z = 1 then [5] else []) (uni 9 0x2000) ∧
      (checkLane (uni 9 0x2000) (uniBytes z) .write (uniAddress (uni 9 0x2000) 2 0 (uniBytes z))).2 = .ok (.device 0x2000) { waypart := 0, policy := 0 }) ∧
    ((Instr.satom 0 63 2 1 9).wf = true ∧ accessReady [2, 3, 1] (uni 9 0x2000) ∧
      (checkLane (uni 9 0x2000) 4 .atomic (srPair (uni 9 0x2000) 2)).2 = .ok (.device 0x2000) { waypart := 0, policy := 0 }) := by
  unfold accessReady uniformReady; decide

theorem witness_UniformMemory : ∃ u T c, (Instr.sld 0 4 2 1 0).wf = true ∧ accessReady [2, 3] (uni 9 0x2000) ∧
    checkLane (uni 9 0x2000) (uniBytes 1) .read (uniAddress (uni 9 0x2000) 2 0 (uniBytes 1)) = (u, .ok T c) ∧ plain u (uniBytes 1) T ∧ l1Current u ∧ roomAtSlices u 1 := by
  obtain ⟨h1, h2, h3, h4, h5, h6⟩ := witness_UniformMemory_checks.1 1
  exact ⟨_, .device 0x2000, _, h1, h2, answerOf h3, h5, emptyL1 _ h4, roomOf h6⟩

set_option maxRecDepth 20000 in
/-- A forward queue with a free place and a full one; a value that may be popped and one that is not there yet. -/
theorem witness_UniformQueues :
    (uniformReady [1] (uni 5) ∧ (uni 5).grp.fwd.length < 16) ∧
    (let s := { uni 5 with grp := { (uni 5).grp with fwd := List.replicate 16 (.value 0 9) } }
     uniformReady [1] s ∧ 16 ≤ s.grp.fwd.length) ∧
    (let e : RetEntry := { seq := 0, value := 7, ready := 0 }
     let s := { uni 5 with grp := { (uni 5).grp with ret := [e] } }
     uniformReady [] s ∧ s.grp.ret.head? = some e ∧ e.ready ≤ s.clock ∧ s.grp.speculative e.seq = false) := by unfold uniformReady; decide

theorem witness_UniformQueues_none : ∀ e, ¬ poppable (uni 5) e := by
  intro e h
  exact absurd h.1 (by simp [uni, machine, group])

set_option maxRecDepth 20000 in
theorem witness_SystemRegisterReads :
    (uniformReady [] (uni 5) ∧ readable 0 = true ∧ readable 0x10 = true ∧ readable 0x37 = true ∧ readable 0x3B = true ∧ (uni 5).team.priv = true) ∧
    ((uni 5).grp.commit = []) ∧ (readable 0x38 = false ∧ readable 0x400 = false) ∧
    (let s := { uni 5 with team := { (uni 5).team with priv := false } }
     s.team.priv = false ∧ s.grp.commit = []) ∧
    uniformReady [] (uni 5) ∧ (Instr.rdcnt 0 62 0x400).wf = true ∧ (Instr.rdcnt 0 0 3).wf = true := by unfold uniformReady; decide

set_option maxRecDepth 20000 in
theorem witness_SystemRegisterWrite :
    (uniformReady [1] (uni 0x10000) ∧ quiet (uni 0x10000) = true ∧ ctxNumber 0x20 = true ∧ sysWritable (uni 0x10000) 0x20 (sr (uni 0x10000) 1) = true) ∧
    (uniformReady [1] (uni 0xFF) ∧ (sr (uni 0xFF) 1).toNat < 256) ∧
    (ctxNumber 0x28 = false ∧ (0x28 : BitVec 18) ≠ 4 ∧ (0x28 : BitVec 18) ≠ 0x38) ∧
    (let s := { uni 5 with team := { (uni 5).team with priv := false } }
     uniformReady [1] s ∧ s.team.priv = false) := by unfold uniformReady; decide

/-- A helm that has an older word in its commit buffer. -/
def busy : State := { uni 5 with grp := { (uni 5).grp with commit := [{ cur := { seq := 0 }, effect := .regs [] [] }] } }

set_option maxRecDepth 20000 in
theorem witness_OrderingWords :
    (∀ s ∈ [uni 5, busy], uniformReady [] s ∧ s.grp.wait = .ready) ∧
    (quiet (uni 5) = true ∧ allQuiet (uni 5).grp = true ∧ beforeDone (uni 5) 0x1FF = true ∧ (xfenceCombine (uni 5) 0x1FF 4).2 = true) ∧
    (quiet busy = false ∧ allQuiet busy.grp = false) ∧
    (uniformReady [1, 2] (uni 5) ∧ (uni 5).grp.held = [] ∧ (uni 5).slalia.lost = false) ∧ uniformReady [1, 2] busy := by unfold uniformReady; decide

set_option maxRecDepth 20000 in
/-- A child with the least free index; sixteen groups; a block of registers that does not lie in the allocation. -/
theorem witness_Spawn :
    (uniformReady [] (uni 5) ∧ quiet (uni 5) = true ∧ (uni 5).grp.pend = [] ∧ (uni 5).grp.held = [] ∧ (56 : BitVec 6).toNat + 8 ≤ (uni 5).grp.nregs ∧
      leastFree (((uni 5).groupsOf (uni 5).team.uid).map fun g => g.gidx) = some 1 ∧ childPlace (uni 5) = some (0, 1)) ∧
    (let s := { uni 5 with team := { (uni 5).team with groups := (List.range 15).map fun k => { (group : Group) with gidx := k + 1 } } }
     uniformReady [] s ∧ quiet s = true ∧ leastFree ((s.groupsOf s.team.uid).map fun g => g.gidx) = none) ∧
    (56 < (57 : BitVec 6).toNat) ∧ { (group : Group) with nregs := 16 }.nregs < (9 : BitVec 6).toNat + 8 := by unfold uniformReady; decide

/-- A matrix-role group 0 of a gang of groups 0 and 1, both holders; s1 holds `a`, s2 `b`, s3 `c`. -/
def matrix (a : Word := 0) (b : Word := 0) (c : Word := 0) : State := machine
  { (group [] .matrix) with s := [(1, a), (2, b), (3, c)], gang := 0x412 } 0xFFFFFFFF

/-- Its team with a second matrix-role group. -/
def pair : State := { matrix with team := { (matrix).team with obSize := 0x10000, groups := [{ (group [] .matrix) with gidx := 1, gang := 0x412 }] } }

theorem gangValue_pair : gangValue 0x412 0 := by
  refine ⟨by decide, by decide, Or.inl (by decide), by decide, ?_, ⟨0, by decide⟩, ?_⟩ <;> decide

theorem gangValue_single : ¬ gangValue 0x9 0 := fun h => absurd h.1 (by decide)

set_option maxRecDepth 20000 in
theorem witness_GangAndReservations :
    (matrixReady [1] (matrix 0x412) ∧ sr (matrix 0x412) 1 = 0x412 ∧ (matrix 0x412).grp.gidx = 0) ∧ (matrixReady [1] (matrix 9) ∧ sr (matrix 9) 1 = 9) ∧
    (let s := { matrix with team := { (matrix).team with obSize := 0x10000 },
                            grp := { (matrix).grp with s := [(2, 0x00040000), (3, 0x80), (4, 0xFFF3FFFF), (5, 0x3F)] } }
     matrixReady [2, 3, 4, 5] s ∧ (15 : BitVec 4).toNat ∉ lockedResv s.team ∧ resvOk (srPair s 2) (srPair s 4) s.team.obSize = true) ∧
    (matrixReady [2, 3, 4, 5] (matrix) ∧ resvOk (srPair (matrix) 2) (srPair (matrix) 4) (matrix).team.obSize = false) := by
  unfold matrixReady uniformReady; decide

set_option maxRecDepth 20000 in
/-- Group 0 of a gang of two delivers first; the seven joint words. -/
theorem witness_JointWords_deliver : ∀ x ∈ [(Instr.mma 0 7 15 0 0 0, ([] : List Nat)), (.mchain 0 0 0 0 0 0, []), (.mclr 0 7 255 7, []), (.mld 0 0 0 1 2 0 0, [2, 3]),
    (.mst 0 0 0 1 2 0 0, [2, 3]), (.mdrain 0 0 1 0 0 0, []), (.mbound 0 0 2 0 0, [2])], x.1.wf = true ∧ (encode x.1).isSome = true ∧ matrixReady x.2 pair ∧ pair.team.uid ≠ 0 := by
  unfold matrixReady uniformReady; decide

set_option maxRecDepth 20000 in
theorem witness_JointWords_may : ∀ i ∈ [Instr.mma 0 7 15 0 0 0, .mclr 0 7 255 7, .mdrain 0 0 1 0 0 0], mayDeliver ((encode i).getD 0) pair := by
  intro i h
  have hx : ∀ t, (look pair.team.tiles t ({} : Tile)).latch = none := fun t => rfl
  refine ⟨by decide, by decide, ?_, ?_, by decide, ⟨1, by decide, by decide, ?_⟩, by decide, by decide⟩
  · intro l hl; rw [hx] at hl; cases hl
  · rw [hx]; decide
  · rw [hx]; decide

/-- The other member has delivered `mclr` of tile 7; the same word by group 0 is the last delivery. -/
def lastMember : State := { pair with team := { pair.team with tiles := [(7, { latch := some { word := (encode (.mclr 0 7 0 3)).getD 0, gang := 0x412, arrived := 2 } })] } }

set_option maxRecDepth 20000 in
theorem witness_JointWords_accept :
    (matrixReady [] lastMember ∧ lastMember.team.uid ≠ 0 ∧ lastMember.grp.gidx < 16 ∧
      (look lastMember.team.tiles 7 {}).latch = some { word := (encode (.mclr 0 7 0 3)).getD 0, gang := 0x412, arrived := 2 } ∧
      some ((encode (.mclr 0 7 0 3)).getD 0) = encode (.mclr 0 7 0 3) ∧ (0x412 : Word) = lastMember.grp.gang ∧
      (∀ m ∈ gangMembers lastMember.grp.gang, m ∈ liveMatrix lastMember lastMember.team.uid ∧ (m ≠ lastMember.grp.gidx → (2 : Half).getLsbD m = true)) ∧
      lastMember.grp.gidx ∈ gangMembers lastMember.grp.gang ∧ (2 : Half).getLsbD lastMember.grp.gidx = false ∧ (∀ d ∈ lastMember.team.deferred, d.members.getLsbD lastMember.grp.gidx = false)) ∧
    (uniformReady [] pair ∧ pair.grp.role = .matrix ∧ (∀ d ∈ pair.team.deferred, d.members.getLsbD pair.grp.gidx = false)) ∧ (uni 5).grp.role ≠ .matrix := by
  unfold matrixReady uniformReady; decide

set_option maxRecDepth 20000 in
/-- A copy command by a general and by a copy group, a trav command by a copy group, a `cop.sys` with and without privilege. -/
theorem witness_CommandIssue :
    ((encode (.copyG2s 0 8 1 0 1)).any (fun w => w.getLsbD 31 && 0x38 ≤ w.toNat / 2 ^ 24 % 64) = true ∧ (encode (.tlbinv 0 0 1 2 0)).any (fun w => w.getLsbD 31 && w.toNat / 2 ^ 24 % 64 = 0x3F) = true) ∧
    uniformReady [2, 3, 0, 1] (uni 5) ∧ (uni 5).grp.role = .general ∧ (uni 5).team.priv = true ∧ (matrix).grp.role = .matrix ∧
    (let s := { uni 5 with team := { (uni 5).team with priv := false } }
     s.grp.role = .general ∧ s.team.priv = false) ∧
    (operandFault 0x38 0 ((uni 5).grp.spair 2) ((uni 5).grp.spair 0) = none ∧ operandFault 0x38 0 ((uni 5 0 0x20).grp.spair 2) 0 = none ∧
      operandFault 0x38 0 ((uni 5 3).grp.spair 2) 0 = some 2 ∧ uniformReady [2, 3, 0, 1] (uni 5 3)) := by unfold uniformReady; decide

/-! #### Divergence and control flow -/

/-- A group whose word has lanes 0 and 1 in `M`, with lanes 0 to 3 live, predicate 1 true in lane 0, one rejoin register and call frames as given. -/
def diverged (m : Word) (fr : List FEntry) (j : List (Nat × Rejoin)) (frames : List (BitVec 3) := []) : State :=
  machine { (group) with live := 15, frontier := fr, j := j, frames := frames, p := [(1, 1)] } m

/-- Eight entries of the program, the last of them the word's. -/
def eight : List FEntry := (List.range 7).map (fun k => { pc := BitVec.ofNat 64 (0x2000 + 4 * k), prio := 0, mask := BitVec.ofNat 32 (2 ^ (k + 4)) }) ++ [{ pc := 0x1000, prio := 0, mask := 3 }]

set_option maxRecDepth 20000 in
theorem witness_LaneDivergence_ready : ∀ s ∈ [diverged 3 [{ pc := 0x1000, prio := 0, mask := 15 }] [], diverged 3 eight [],
      diverged 3 [{ pc := 0x1000, prio := 0, mask := 3 }] [(7, { enrolled := 15 })], diverged 3 [{ pc := 0x1000, prio := 0, mask := 3 }] [(7, { enrolled := 15, arrived := 12, rpc := 0x1004 })],
      diverged 3 [{ pc := 0x1000, prio := 0, mask := 3 }] [(7, { enrolled := 15, arrived := 12, rpc := 0x2000 })],
      diverged 3 [{ pc := 0x1000, prio := 0, mask := 3 }] [(7, { enrolled := 13, arrived := 12, rpc := 0x2000 })],
      diverged 3 eight [(7, { enrolled := 13, arrived := 12, rpc := 0x3000 })], diverged 3 [{ pc := 0x1000, prio := 0, mask := 3 }] [(7, { enrolled := 15, arrived := 12 })],
      diverged 1 [{ pc := 0x1000, prio := 0, mask := 15 }] [(7, { enrolled := 3 })]],
    controlReady s ∧ s.cur.handler = false ∧ settled s ∧ trueIn s 1 1 := by unfold controlReady settled trueIn; decide

set_option maxRecDepth 20000 in
theorem witness_LaneDivergence :
    -- bdiv with room, and with eight entries before it
    (let s := diverged 3 [{ pc := 0x1000, prio := 0, mask := 15 }] []
     (rejoin s 7).enrolled ||| s.cur.mask ≠ (rejoin s 7).arrived ∧ programEntries (withEntry (withEntry (without s) 0x1010 2 1) 0x1004 0 2) ≤ 8) ∧
    (let s := diverged 3 eight []
     8 < programEntries (withEntry (withEntry (without s) 0x1010 2 1) 0x1004 0 2)) ∧
    -- join: foreign record; no enrolled lane; some lanes wait; the last arrival; nothing left to run
    ((rejoin (diverged 3 [{ pc := 0x1000, prio := 0, mask := 3 }] [(7, { enrolled := 15, arrived := 12, rpc := 0x2000 })]) 7).rpc ≠ 0x1004) ∧
    (let s := diverged 3 [{ pc := 0x1000, prio := 0, mask := 15 }] []
     s.cur.mask &&& (rejoin s 7).enrolled = 0 ∧ programEntries (withEntry (without s) 0x1004 0 3) ≤ 8) ∧
    (let s := diverged 1 [{ pc := 0x1000, prio := 0, mask := 15 }] [(7, { enrolled := 3 })]
     s.cur.mask &&& (rejoin s 7).enrolled ≠ 0 ∧ (rejoin s 7).arrived = 0 ∧ (rejoin s 7).enrolled ≠ (rejoin s 7).arrived ||| 1 ∧ withEntry (without s) 0x1004 0 0 ≠ []) ∧
    (let s := diverged 3 [{ pc := 0x1000, prio := 0, mask := 3 }] [(7, { enrolled := 15, arrived := 12, rpc := 0x1004 })]
     (rejoin s 7).enrolled = (rejoin s 7).arrived ||| 3 ∧ (rejoin s 7).kind = .join ∧ programEntries (withEntry (without s) 0x1004 0 15) ≤ 8) ∧
    (let s := diverged 3 [{ pc := 0x1000, prio := 0, mask := 3 }] [(7, { enrolled := 15 })]
     (rejoin s 7).enrolled ≠ 3 ∧ withEntry (without s) 0x1004 0 0 = [] ∧ s.grp.live ≠ 0) ∧
    -- strike: no release, a release, a release without room
    (let s := diverged 3 [{ pc := 0x1000, prio := 0, mask := 3 }] [(7, { enrolled := 15, arrived := 12 })]
     (rejoin s 7).enrolled &&& ~~~1 ≠ (rejoin s 7).arrived ∧ programEntries (withEntry (without s) 0x1004 0 3) ≤ 8) ∧
    (let s := diverged 3 [{ pc := 0x1000, prio := 0, mask := 3 }] [(7, { enrolled := 13, arrived := 12, rpc := 0x2000 })]
     (rejoin s 7).enrolled &&& ~~~1 = (rejoin s 7).arrived ∧ programEntries (withEntry (withEntry (without s) 0x1004 0 3) 0x2000 0 12) ≤ 8) ∧
    (let s := diverged 3 eight [(7, { enrolled := 13, arrived := 12, rpc := 0x3000 })]
     8 < programEntries (withEntry (withEntry (without s) 0x1004 0 3) 0x3000 0 12)) := by decide

set_option maxRecDepth 20000 in
theorem witness_LaneControlFlow_ready : ∀ s ∈ [diverged 3 [{ pc := 0x1000, prio := 0, mask := 15 }] [], diverged 3 [{ pc := 0x1000, prio := 0, mask := 3 }] [(7, { enrolled := 15 })],
      diverged 3 [{ pc := 0x1000, prio := 0, mask := 15 }] [(0, { enrolled := 1 }), (1, { enrolled := 1 }), (2, { enrolled := 1 }), (3, { enrolled := 1 })] [0, 1, 2, 3],
      diverged 3 [{ pc := 0x1000, prio := 0, mask := 3 }, { pc := 0x3000, prio := 0, mask := 4 }] [(7, { enrolled := 15, arrived := 8, rpc := 0x2000, kind := .call })] [7],
      diverged 3 [{ pc := 0x1000, prio := 0, mask := 3 }] [(7, { enrolled := 15, arrived := 12, rpc := 0x2000, kind := .call })] [7]],
    controlReady s ∧ s.cur.handler = false ∧ settled s ∧ trueIn s 1 1 ∧ trueIn s 2 0 := by unfold controlReady settled trueIn; decide

set_option maxRecDepth 20000 in
theorem witness_LaneControlFlow :
    -- callr: no caller; a register in use; four frames; a call
    (let s := diverged 3 [{ pc := 0x1000, prio := 0, mask := 15 }] []
     programEntries (withEntry (without s) 0x1004 0 3) ≤ 8 ∧ (rejoin s 7).enrolled = 0 ∧ (rejoin s 7).arrived = 0 ∧ s.grp.frames.length < 4 ∧
       programEntries (withEntry (without s) 0x1010 2 1) ≤ 8) ∧
    (let s := diverged 3 [{ pc := 0x1000, prio := 0, mask := 3 }] [(7, { enrolled := 15 })]
     (rejoin s 7).enrolled ≠ 0) ∧
    (let s := diverged 3 [{ pc := 0x1000, prio := 0, mask := 15 }] [(0, { enrolled := 1 }), (1, { enrolled := 1 }), (2, { enrolled := 1 }), (3, { enrolled := 1 })] [0, 1, 2, 3]
     (rejoin s 7).enrolled = 0 ∧ 4 ≤ s.grp.frames.length) ∧
    -- lret: no frame; a frame with lanes still out; the last return
    (let s := diverged 3 [{ pc := 0x1000, prio := 0, mask := 3 }, { pc := 0x3000, prio := 0, mask := 4 }] [(7, { enrolled := 15, arrived := 8, rpc := 0x2000, kind := .call })] [7]
     3 &&& ~~~((rejoin s 7).enrolled &&& ~~~(rejoin s 7).arrived) = 0 ∧ (rejoin s 7).enrolled ≠ (rejoin s 7).arrived ||| 3 ∧ without s ≠ []) ∧
    (let s := diverged 3 [{ pc := 0x1000, prio := 0, mask := 3 }] [(7, { enrolled := 15, arrived := 12, rpc := 0x2000, kind := .call })] [7]
     (rejoin s 7).enrolled = (rejoin s 7).arrived ||| 3 ∧ programEntries (withEntry (without s) 0x2000 0 15) ≤ 8) ∧
    True := by decide

set_option maxRecDepth 20000 in
theorem witness_LaneControlFlow_exit :
    (controlReady (diverged 3 [{ pc := 0x1000, prio := 0, mask := 15 }] [(7, { enrolled := 6 })]) ∧
      controlReady (diverged 3 [{ pc := 0x1000, prio := 0, mask := 3 }] [(7, { enrolled := 15, arrived := 0 })]) ∧ controlReady (diverged 15 [{ pc := 0x1000, prio := 0, mask := 15 }] [])) ∧
    -- lexit: some lanes stay; all that can run have gone; no lane is left
    (let s := diverged 3 [{ pc := 0x1000, prio := 0, mask := 15 }] [(7, { enrolled := 6 })]
     trueIn s 7 3 ∧ removeLanes (moveLanes s.grp.frontier s.cur 0x1004) 3 ≠ [] ∧ s.grp.live &&& ~~~3 ≠ 0 ∧ programEntries (removeLanes (moveLanes s.grp.frontier s.cur 0x1004) 3) ≤ 8 ∧
       ∀ n < 8, (rejoin s n).enrolled &&& ~~~3 = (rejoin s n).arrived &&& ~~~3 → (rejoin s n).enrolled &&& ~~~3 = 0 ∧ s.grp.frames = []) ∧
    (let s := diverged 3 [{ pc := 0x1000, prio := 0, mask := 3 }] [(7, { enrolled := 15, arrived := 0 })]
     removeLanes (moveLanes s.grp.frontier s.cur 0x1004) 3 = [] ∧ s.grp.live &&& ~~~3 ≠ 0) ∧
    ((diverged 15 [{ pc := 0x1000, prio := 0, mask := 15 }] []).grp.live &&& ~~~15 = 0) := by unfold controlReady trueIn; decide

/-! #### Faults -/

set_option maxRecDepth 20000 in
/-- Register 63 of an allocation of 16, a locked destination, and the pair next to one. -/
theorem witness_LaneWordFaults :
    (∀ i ∈ [Instr.iadd 0 63 1 2 0 0, .ld 0 56 2 7 0, .mov 0 16 1 0 0], i.wf = true ∧ (encode i).any (fun w => !w.getLsbD 31) = true ∧ (laneInfo i).control = false ∧
      (laneInfo i).inAllocation 16 = false ∧ { (group : Group) with nregs := 16 }.nregs = 16) ∧
    (let w := (encode (.mchain 0 0 0 8 0 0)).getD 0
     let s := { matrix with team := { (matrix).team with words := [{ order := 0, word := w, gang := 0x412, val := 0, waits := [] }] } }
     8 ∈ lockedRegs s.team s.grp.gidx ∧ (laneInfo (.iadd 0 8 1 2 0 0)).inAllocation s.grp.nregs = true ∧ (8 : BitVec 6).toNat < s.grp.nregs ∧
       (laneInfo (.dfma 0 8 2 4 6)).inAllocation s.grp.nregs = true ∧ (9 ∈ lockedRegs s.team s.grp.gidx)) := by decide

theorem canonicalOf {a : DWord} (h : ∀ b < 64, 55 ≤ b → a.getLsbD b = a.getLsbD 55) : canonicalVa a := fun b h1 h2 => h b h2 h1

theorem notCanonical : ¬ canonicalVa (0x0080000000000000 : DWord) := fun h => absurd (h 56 (by decide) (by decide)) (by decide)

set_option maxRecDepth 20000 in
theorem witness_LaneWordFaults_addresses :
    (∀ i ∈ [Instr.ld 0 4 2 4 0, .st 0 4 2 4 0, .atom 0 5 2 4 0 0, .cas 0 5 2 4 4, .red 0 2 4 0 0],
      i.wf = true ∧ memReady i (mem0 0x2002) ∧ active (mem0 0x2002) = [0] ∧ (regPair (mem0 0x2002) 2 0).toNat % 4 ≠ 0) ∧
    (let s := machine (group [(96, 0x00800000)])
     memReady (.ld 0 4 2 4 0) s ∧ active s = [0] ∧ regPair s 2 0 = 0x0080000000000000) := by unfold memReady; decide

/-- A module whose context 1 has no heap window and whose page table stands at address 0: every level's entry 0 points back to the table, and the page at
0x10000 has the leaf or other entry `e` (two bytes). -/
def withPage (e0 e1 : Byte) : State := { lane0 0 with
  mem := (if e0 = 0 then [(0, 1)] else [(0, 1), (8, e0)]) ++ (if e1 = 0 then [] else [(9, e1)]),
  hub := { State.reset.hub with ctx := [(1, { valid := true })] } }

set_option maxRecDepth 20000 in
/-- A PEND entry, an absent entry, leaves that deny reads, writes, fetches and unprivileged accesses. -/
theorem witness_TranslationChecks :
    (walk (withPage 4 0) 1 0x10000 = .pend 0) ∧ (walk (withPage 0 0) 1 0x10000 = .fail 1) ∧ walk (withPage 3 0) 1 0x10000 = .leaf 3 16 8 0 ∧
    (3 : DWord).getLsbD 5 = false ∧ (3 : DWord).getLsbD 6 = false ∧ (3 : DWord).getLsbD 7 = false ∧ walk (withPage 0xE3 1) 1 0x10000 = .leaf 0x1E3 16 8 0 ∧
    tlbServes (withPage 3 0) (.core 0) 1 true 0x10000 .read = none ∧ walkHome (withPage 3 0) 1 0x10000 = none ∧
    (∀ d ∈ [{ inReset := true }, { outOfService := true }], walkHome { withPage 3 0 with dies := [(0, d)] } 1 0x10000 = some (0, 3)) ∧
    (let e : TlbEntry := { asid := 1, page := 1, log2 := 16, leaf := 0x100E3, leafPa := 8 }
     let s := { withPage 3 0 with cores := [(0, { tlb := [e] })] }
     (tlbServes s (.core 0) 1 false 0x10000 .read).isSome = true ∧
       tlbServes { s with cores := [(0, { tlb := [{ e with leaf := 0x101E3 }] })] } (.core 0) 1 false 0x10000 .read = none) ∧
    (let c := ctxOf (withPage 3 0) 1
     ¬ ((Access.read) ≠ .fetch ∧ c.heapBase.toNat < c.heapLimit.toNat ∧ c.heapBase.toNat ≤ 0x10000 ∧ 0x10000 < c.heapLimit.toNat)) := by decide

set_option maxRecDepth 20000 in
/-- An address inside a heap window that no device memory stands behind. -/
theorem witness_TranslationChecks_heap :
    let s := { lane0 0 with hub := { State.reset.hub with ctx := [(1, { heapLimit := 0x10000000, heapOffset := 0x8000000000, valid := true })] } }
    (let c := ctxOf s 1
     c.heapBase.toNat < c.heapLimit.toNat ∧ c.heapBase.toNat ≤ 0x10000 ∧ 0x10000 < c.heapLimit.toNat) ∧ backed ((0x10000 : DWord) + (ctxOf s 1).heapOffset).toNat = false := by decide

theorem witness_TranslationChecks_canonical : canonicalVa (0x10000 : DWord) ∧ ¬ canonicalVa (0x0080000000000000 : DWord) ∧ (0x10001 : DWord).toNat % 4 ≠ 0 :=
  ⟨canonicalOf (by decide), notCanonical, by decide⟩

/-- A group whose handler's entry stands on top. -/
def inHandling : State := machine { (group) with
  live := 3, fault := { valid := true, fpc := 0x2000, prio := 5 },
  frontier := [{ pc := 0x3000, prio := 1, mask := 2 }, { pc := 0x8000, prio := 63, mask := 1, handler := true }] }

/-- A context with a handler at 0x8000. -/
def handled : State := { lane0 5 with hub := { State.reset.hub with ctx := [(1, { heapLimit := 0x10000000, trapVec := 0x8000 })] } }

/-- A TRAP of its word's lane. -/
def aTrap : PendFault := { cur := handled.cur, lanes := 1, cls := 0x0D }

set_option maxRecDepth 20000 in
/-- No younger word; a younger word of the same lane; one of other lanes, which only the second statement covers. -/
theorem witness_FaultEntry : let young (m : Word) : State := { handled with grp := { handled.grp with trail := [{ aTrap.cur with seq := 2, mask := m }] } }
    handlerVa handled ≠ 0 ∧ (takes handled aTrap ∧ noOtherLanes handled aTrap) ∧ (takes (young 1) aTrap ∧ noOtherLanes (young 1) aTrap) ∧
    (takes (young 6) aTrap ∧ ¬ noOtherLanes (young 6) aTrap ∧ handlerVa (young 6) ≠ 0) := by unfold takes noOtherLanes; decide

set_option maxRecDepth 20000 in
/-- The handler's entry, with every value of FRESUME; an entry of the program. -/
theorem witness_HandlerReturn :
    (∀ v : BitVec 2, let h : FEntry := { pc := 0x8000, prio := 63, mask := 1, handler := true }
      let s : State := { machine { (group [] .general) with s := [(1, v.setWidth 32)], live := 3, frontier := [{ pc := 0x3000, prio := 0, mask := 2 }, h],
                                                            fault := { valid := true, fpc := 0x2000, prio := 5 } } with
                         cur := { pc := 0x8000, mask := 1, prio := 63, handler := true, seq := 1 } }
      uniformReady [1] s ∧ quiet s = true ∧ (sr s 1).toNat < 4 ∧ s.grp.fault.valid = true ∧ s.cur.handler = true ∧ s.grp.frontier.find? (fun e => e.handler) = some h ∧
        s.grp.live &&& ~~~h.mask ≠ 0 ∧ (s.grp.flow.retire h.mask).frontier ≠ [] ∧ programEntries (s.grp.flow.retire h.mask).frontier ≤ 8) ∧
    (uniformReady [1] (uni 1) ∧ quiet (uni 1) = true ∧ (sr (uni 1) 1).toNat < 4 ∧ (uni 1).grp.fault.valid = false) := by unfold uniformReady; decide

set_option maxRecDepth 20000 in
theorem witness_FaultAlternatives :
    (takes (lane0 5) aTrap ∧ handlerVa (lane0 5) = 0) ∧
    (let s := { handled with grp := { handled.grp with fault := { valid := true } } }
     olderOutstanding s.grp aTrap.cur.seq = false ∧ aTrap.page = none ∧ s.grp.fault.valid = true) ∧
    (let s := inHandling
     olderOutstanding s.grp aTrap.cur.seq = false ∧ s.grp.inHandler = true ∧ noOtherLanes s aTrap) ∧
    (olderOutstanding busy.grp aTrap.cur.seq = true ∧ aTrap.cls ≠ 0x14) := by unfold takes noOtherLanes; decide

/-! #### Steps -/

/-- The machine after reset with one word placed where it fetches. -/
def placed (w : Nat) : State := State.reset.withFetchWord 32 w

set_option maxRecDepth 20000 in
/-- The helm's step runs `smovi s41, -1`, and `movi v7, 10844` from an empty queue. -/
theorem test_step_uniform : (match step (placed 0x8EA7FFFF) with | .next t => t.grp.sreg 41 | _ => 0) = 0xFFFFFFFF := by decide
set_option maxRecDepth 20000 in
theorem test_step_lane : (match step (placed 0x231C2A5C) with | .next t => t.grp.landAll.vreg 7 5 | _ => 0) = 0x2A5C := by decide

/-- A group at 0x10000, a page the table at address 0 maps to itself for every access; `code` stands there. -/
def firstEntry : FEntry := { pc := 0x10000, prio := 0, mask := 0xFFFFFFFF }
def fetching (code : List Byte) : State := { State.reset with
  stage := 7, grp := { (group) with frontier := [firstEntry] }, team := { uid := 1, asid := 1, priv := true },
  hub := { State.reset.hub with ctx := [(1, { valid := true, priv := true })] },
  mem := [(0, 1), (8, 0xE3), (10, 1)],
  launches := [{ seqNo := 0, id := 0, queue := 0, asid := 1, counts := [1, 0, 0, 0], entry := [0, 0, 0, 0], waitVa := 0, doneVa := 0, nodeVa := 0,
                 started := true, code := { mem := code.zipIdx.map fun b => (0x10000 + b.2, b.1) } }] }
/-- After the checks of the fetch, and after the fetch. -/
def checked (s : State) : State := (checkAccess (noteStep s) (.core s.team.core) s.team.asid s.team.priv s.team.seqNo firstEntry.pc 4 .fetch).1
def fetched (s : State) : State := fetchLine (unheld (checked s)) 0x10000 (cachingOf 0x100E3 0)

set_option maxRecDepth 20000 in
theorem witness_fetches_parts : ∀ c ∈ [([0xFF, 0xFF, 0xA7, 0x8E] : List Byte), [0x5C, 0x2A, 0x1C, 0x23], []], let s := fetching c
    s.stage = 7 ∧ helmReady s = true ∧ topEntry s.grp.frontier = some firstEntry ∧ stepOver s = false ∧ breakHit s firstEntry = none ∧
      (checkAccess (noteStep s) (.core s.team.core) s.team.asid s.team.priv s.team.seqNo firstEntry.pc 4 .fetch).2 = .ok (.device 0x10000) 0x100E3 0 := by decide

set_option maxRecDepth 20000 in
theorem witness_fetches_code : ∀ c ∈ [(([0xFF, 0xFF, 0xA7, 0x8E] : List Byte), (0x8EA7FFFF : Word)), ([0x5C, 0x2A, 0x1C, 0x23], 0x231C2A5C), ([], 0)],
    memRead (launchCode (checked (fetching c.1))) 0x10000 4 = c.2.toNat ∧ isLost (checked (fetching c.1)) 0x10000 = false ∧
      linkHeld (checked (fetching c.1)) (dieOf (fetching c.1).team.core) (fetching c.1).team.core (.device 0x10000) false = false ∧
      ((checked (fetching c.1)).die (homeOf (0x10000 / 128))).inReset = false ∧ helmFirst (fetching c.1) = true ∧
      (spawnBefore (fetching c.1) (fetching c.1).team.core (fetching c.1).grp.quad).isNone = true := by decide

theorem witness_fetches : ∀ c ∈ [(([0xFF, 0xFF, 0xA7, 0x8E] : List Byte), (0x8EA7FFFF : Word)), ([0x5C, 0x2A, 0x1C, 0x23], 0x231C2A5C), ([], 0)],
    fetches (fetching c.1) firstEntry (fetched (fetching c.1)) c.2 ∧ helmFirst (fetching c.1) = true ∧
      ((spawnBefore (fetching c.1) (fetching c.1).team.core (fetching c.1).grp.quad).isNone || !atSpawn (fetching c.1)) = true := by
  intro c h
  obtain ⟨h1, h2, h3, h4, h5, h6⟩ := witness_fetches_parts c.1 (by
    simp only [List.mem_cons, List.not_mem_nil, or_false] at h ⊢; rcases h with h | h | h <;> simp [h])
  obtain ⟨h7, h8, h9, h10, h11, h12⟩ := witness_fetches_code c h
  exact ⟨⟨h1, h2, h3, h4, h5, checked (fetching c.1), 0x10000, 0x100E3, 0, answerOf h6, h10, h8, h9, h7, rfl⟩, h11, by rw [h12]; rfl⟩

set_option maxRecDepth 20000 in
/-- The words: a uniform one, a lane one whose queue is empty and whose pipe is ready, an unassigned one. -/
theorem witness_StepRunsFetchedWord : decodeWord 0x8EA7FFFF = some (.smovi 0 41 0x3FFFF) ∧ decodeWord 0x231C2A5C = some (.movi 0 7 0x2A5C) ∧ decodeWord 0 = none ∧
    (let s := fetching [0x5C, 0x2A, 0x1C, 0x23]
     (laneInfo (.movi 0 7 0x2A5C)).inAllocation (fetched s).grp.nregs = true ∧ (fetched s).grp.fwd = [] ∧
       (pipeServe (queuedAt s (fetched s) firstEntry 0x231C2A5C (.movi 0 7 0x2A5C))).map (fun x => x.2) = some (.movi 0 7 0x2A5C)) := by decide

/-- A lane word in the forward queue, its group's run holding the pipe. -/
def queuedWord : State := { lane0 5 with
  agenda := [.pipe], grp := { (lane0 5).grp with fwd := [.lane { pc := 0x1000, mask := 1, word := 0x231C2A5C, seq := 1 } 0], pipeRun := 0 } }

set_option maxRecDepth 20000 in
theorem witness_StepIssuesQueuedWord : queuedWord.agenda = [.pipe] ∧ queuedWord.stage = 7 ∧
    (queuedWord.grp.fwd.filterMap fun e => match e with | .lane c r => some (c, r) | .value _ _ => none).head? =
      some ({ pc := 0x1000, mask := 1, word := 0x231C2A5C, seq := 1 }, queuedWord.grp.pipeRun) ∧
    teamRuns queuedWord = true ∧ faultBefore queuedWord.grp 2 = false ∧ decodeWord 0x231C2A5C = some (.movi 0 7 0x2A5C) ∧
    (let s := { queuedWord with cur := { pc := 0x1000, mask := 1, word := 0x231C2A5C, seq := 1 }, agenda := [] }
     pipeWait s (.movi 0 7 0x2A5C) = false ∧ undoRoom s (.movi 0 7 0x2A5C) = true ∧ strictLate s (.movi 0 7 0x2A5C) = []) := by decide

/-- Operations before and after the module is Ready, a module reset, and one that names no part. -/
theorem witness_StepRunsOperation :
    (let s := { uni 0 with agenda := [.event (.linkRetrain 3)] }
     s.agenda = [.event (.linkRetrain 3)] ∧ (Instr.linkRetrain 3).wf = true ∧ (Instr.linkRetrain 3).isWord = false ∧ s.stage = 7) ∧
    (State.reset.stage ≠ 7) ∧ (∀ f v, Instr.linkRetrain 3 ≠ .moduleReset f v) ∧ Instr.linkRetrain 3 ≠ .helmLaneFetch ∧
      (Instr.moduleReset (6, [(1, 3)]) 1).wf = true ∧ (Instr.dieReset 8).wf = false := by
  refine ⟨by decide, by decide, ?_, by decide, by decide, by decide⟩
  intro f v h; cases h

theorem witness_WritesKeepMemoryForm : memoriesFormed State.reset := by unfold memoriesFormed; decide

set_option maxRecDepth 20000 in
theorem witness_StepKeepsMemoryForm : memoriesFormed (placed 0x8EA7FFFF) ∧ (match step (placed 0x8EA7FFFF) with | .next _ => true | _ => false) = true := by
  unfold memoriesFormed; decide

/-! #### Operations -/

/-- A state whose group is changed. -/
def inGroup (f : Group → Group) (s : State := uni 5) : State := { s with grp := f s.grp }

/-- Context 1 with breakpoint 7 at 0x1000 in every group and lane. -/
def breakpoint : State := let s := uni 5
  { s with hub := { s.hub with debug := [(1, { entries := [(7, { pc := 0x1000, ctl := 1 })] })] } }

set_option maxRecDepth 20000 in
theorem witness_GroupOperations_pipe :
    (breakHit breakpoint { pc := 0x1000, prio := 0, mask := 0xFFFFFFFF } = some (7, 0) ∧ stepOver breakpoint = false ∧ topEntry breakpoint.grp.frontier = some { pc := 0x1000, prio := 0, mask := 0xFFFFFFFF } ∧
      helmReady breakpoint = true ∧ allQuiet breakpoint.grp = true) ∧
    (let s := inGroup fun g => { g with stepping := true }
     stepOver s = true ∧ helmReady s = true ∧ allQuiet s.grp = true) ∧
    (let s := inGroup (fun g => { g with fwd := [.lane { pc := 0x1000, mask := 1, word := 0x231C2A5C, seq := 1 } 1], runNo := 2, runLen := 0 })
     (winner s 0 0).map (fun x => (x.1.uid, x.2.gidx)) = some (1, 0) ∧ s.team.uid = 1 ∧ s.grp.gidx = 0 ∧
       nextLane s.grp = some ({ pc := 0x1000, mask := 1, word := 0x231C2A5C, seq := 1 }, 1)) ∧
    (let w : PendWrite := { seq := 1, due := some 8, space := .v, cells := [(32, 7)] }
     let s := inGroup fun g => { g with pend := [w, { w with due := some 9 }] }
     s.grp.pend = w :: [{ w with due := some 9 }] ∧ w.due = some 8 ∧ w.space = .v ∧ readsBefore s 8 = false ∧ ∀ x ∈ [{ w with due := some 9 }], x.due = some 9) ∧
    (let w : PendWrite := { seq := 1, due := none, space := .v, cells := [(32, 7)] }
     (inGroup fun g => { g with pend := [w] }).grp.pend = [w] ∧ w.seq ≠ 0 ∧ w.cells.head? = some (32, 7)) ∧
    (holdsPipe (uni 5).grp = false ∧ (uni 5).grp.live ≠ 0 ∧ (uni 5).grp.parkOpen = false) ∧
    (let s := inGroup fun g => { g with ctl := some { cur := { seq := 0 }, at_ := 0, taken := 0 } }
     holdsPipe s.grp = false ∧ { s.grp with pend := [] }.parkOpen = true) ∧
    (inGroup fun g => { g with yielded := [{ run := 1, since := 0, others := [] }] }).grp.yielded = [{ run := 1, since := 0, others := [] }] := by decide

set_option maxRecDepth 20000 in
theorem witness_GroupOperations_retirement :
    (let e : CommitEntry := { cur := { seq := 0 }, effect := .regs [(4, 9)] [(2, true)] }
     let s := inGroup fun g => { g with commit := [e] }
     s.grp.commit = [e] ∧ laneBefore s.grp e.cur.seq = false ∧ s.grp.ctl = none ∧ s.grp.awaits = []) ∧
    (let o : Nat × List (Nat × Word) := (0, [(4, 9)])
     (inGroup fun g => { g with owed := [o] }).grp.owed = [o]) ∧
    (let o : Nat × List (Nat × Word) := (0, [(4, 9)])
     let s := inGroup fun g => { g with owed := [o], wait := .operand [4] }
     s.grp.live ≠ 0 ∧ s.grp.stopped = true) ∧
    (let h : HeldStore := { seq := 0, target := .device 0x207C, size := 4, data := 5 }
     let s := inGroup fun g => { g with held := [h] }
     heldReady s s.grp = some h ∧ h.op = none ∧ h.load = none ∧ h.lod = none ∧ 0x207C % 128 + h.size ≤ 128 ∧ fewQueued s = true) ∧
    (∀ w ∈ [Wait.released 40, .fence true, .fence false, .xfence 0x1FF 0x1FF 4, .publish 9], let s := inGroup fun g => { g with wait := w }
      s.grp.wait = w ∧ allQuiet s.grp = true ∧ s.grp.held = [] ∧ accessesDone s true = true ∧ xfenceReady s 0x1FF = true ∧
        (xfenceCombine s 0x1FF 4).2 = true ∧ s.slalia.lost = false) := by decide

set_option maxRecDepth 20000 in
theorem witness_HostOperations :
    (bar0Mapped (hubBase + 0x7FFFFFF8 - hubBase) = false ∧ (0x2000 : Nat) < hubBase) ∧ (bar0Mapped 0xF008 = true) ∧
    (let s := inGroup fun g => { g with wait := .stopped 1 }
     s.grp.wait = .stopped 1 ∧ s.grp.live ≠ 0 ∧ s.team.asid = 1 ∧ s.name.extractLsb' 0 60 = s.name.extractLsb' 0 60) ∧
    (backed ((uni 5).hub.aperBase.toNat + 0x2000) = true ∧ reachable (uni 5) ((uni 5).hub.aperBase.toNat + 0x2000) = true ∧
      isLost (uni 5) ((uni 5).hub.aperBase.toNat + 0x2000) = false ∧ ((uni 5).hub.aperBase.toNat + 0x2000) % 128 + 8 ≤ 128) ∧
    backed ((uni 5).hub.aperBase.toNat + 0x8000000000) = false ∧ (uni 5).repairs = [] ∧ (uni 5).slalia.lost = false ∧
    (let s := { uni 5 with slalia := { (uni 5).slalia with lost := true } }
     s.slalia.lost = true) ∧
    (let s := { uni 5 with dies := [(0, { inReset := true })] }
     backed (s.hub.aperBase.toNat + 0x2000) = true ∧ (s.die (homeOf ((s.hub.aperBase.toNat + 0x2000) / 128))).inReset = true) := by decide

set_option maxRecDepth 20000 in
theorem witness_TimedOperations :
    ((uni 5).trace.tempo = false) ∧
    (let s := { uni 5 with trace := { (uni 5).trace with tempo := true } }
     s.trace.tempo = true ∧ s.trace.mielien = false ∧ s.trace.next = none) ∧
    (let e : TlbEntry := { asid := 1, page := 1, log2 := 16, leaf := 0x100E3, pa := true, pd := true, leafPa := 8 }
     let s := { uni 5 with cores := [(0, { tlb := [e] })] }
     (s.core 0).tlb[0]? = some e ∧ e.pa = true ∧ e.leafPa % 8 = 0) ∧
    (let s := { uni 5 with cores := [(0, { loaded := true })] }
     (s.core 0).loaded = true) ∧
    (∀ n ∈ [31, 32], let r : SliceReq := { src := 5, slice := 115, hit := true }
      let s := { uni 5 with injected := [{ src := 4, slice := 9, hit := true }, r], dies := [(7, { queued := [(3, List.replicate n 9)] })] }
      atPort s (16 * 7 + 3) = some (r, 1) ∧ (sliceQueue s 7 3 0).length = n) ∧
    (let e : ResEntry := { asid := 1, slot := 2, region := 3, value := 0, filled := 0, used := 0 }
     let s := { uni 5 with cores := [(0, { residency := [e] })] }
     (s.core 0).residency[0]? = some e) ∧
    (let s := { uni 5 with levels := [(2, 1)], coolSince := [(2, 1)] }
     look s.levels 2 0 ≠ 0 ∧ look s.coolSince 2 0 ≠ 0 ∧ s.coolantBad = false) := by decide

/-! #### Coherence, links, errors -/

/-- Line 5 is at home in die 0; partition 3 holds it. -/
def shared (st : Moesi) (owner : Option Nat) : State := { uni 5 with
  dies := [(0, { directory := [{ line := 5, presence := 8, owner := owner, used := 0 }] }),
           (3, { rdc := [{ line := 5, state := st, wts := 0, rts := 0, way := 0, policy := 0, used := 0 }] })] }

set_option maxRecDepth 20000 in
theorem witness_CoherenceOperations_directory :
    (3 ≠ homeOf 5 ∧ ((uni 5).die 3).rdc = [] ∧ ((uni 5).die (homeOf 5)).directory = [] ∧ waysOf (uni 5) 11 0 ≠ 0 ∧ dirEntry (uni 5) 5 = none) ∧
    (let s := shared .E (some 3)
     rdcLine s 3 5 = some { line := 5, state := .E, wts := 0, rts := 0, way := 0, policy := 0, used := 0 } ∧
       dirEntry s 5 = some { line := 5, presence := 8, owner := some 3, used := 0 } ∧ (8 : Byte) ≠ 0 ∧ (8 : Byte) = BitVec.ofNat 8 (2 ^ 3)) ∧
    (let s := shared .S none
     (∀ x, rdcLine s 3 5 = some x → rdcStays s x = false) ∧ dirEntry s 5 = some { line := 5, presence := 8, owner := none, used := 0 }) ∧
    (let f : Nat × Nat × Nat × Byte := (sliceOfLine 5, 5, 7, 9)
     let s := { uni 5 with dies := [(0, { fills := [f] })] }
     (s.die (homeOf 5)).fills.find? (fun f => f.2.1 = 5) = some f) ∧
    (let e : L1Line := { line := 5, data := 0, wts := 0, rts := 0, ttag := 9, lands := 40 }
     let s := { uni 5 with recalls := [(7, 5, 9)], cores := [(7, { l1 := [e] })] }
     s.recalls.find? (fun x => x.1 = 7 && x.2.1 = 5) = some (7, 5, 9) ∧ e ∈ (s.core 7).l1 ∧ s.clock < e.lands ∧ e.ttag = 9) ∧
    (((uni 5).die (homeOf 5)).directory.filter fun e => e.line % 16384 = 5 % 16384 && servingSlice (uni 5) e.line = servingSlice (uni 5) 5).length < 16 := by decide

/-- A line that a home die in reset keeps in its partition. -/
def keptLine : State := { shared .M (some 3) with dies := (shared .M (some 3)).dies.map fun d => if d.1 = 0 then (0, { d.2 with inReset := true }) else d }

set_option maxRecDepth 20000 in
theorem witness_CoherenceOperations_kept : (match rdcLine keptLine 3 5 with | some x => rdcStays keptLine x | none => false) = true := by decide

/-- Sixteen lines of slice 0 and one set fill a set of the filter of die 0. -/
def fullSet : State := { uni 5 with dies := [(0, { directory := (List.range 16).map fun k =>
  { line := 1114112 * k, presence := 8, owner := none, used := k } })] }

set_option maxRecDepth 20000 in
theorem witness_CoherenceOperations_victim : dirEntry fullSet 17825792 = none ∧ homeOf 17825792 = 0 ∧
    16 ≤ ((fullSet.die 0).directory.filter fun e => e.line % 16384 = 17825792 % 16384 && servingSlice fullSet e.line = servingSlice fullSet 17825792).length ∧
    ∀ e ∈ (fullSet.die 0).directory, homeOf e.line = 0 := by decide

set_option maxRecDepth 20000 in
theorem witness_CoherenceOperations_peers :
    (let s := { uni 5 with hub := { (uni 5).hub with modPol := 1 } }
     inboundReason s (0x207C % 2 ^ 39) = none ∧ 0x207C % 2 ^ 39 % 128 + 4 ≤ 128) ∧
    (let s := { uni 5 with hub := { (uni 5).hub with modPol := 0 } }
     inboundReason s 0x2000 = some 1) ∧
    -- a load of four bytes of another module, by one lane and by two; nothing older; a store for `sst`
    (let x : LaneAcc := { lane := 3, va := 0x20000, v := .ok (.peer 2 0x100) { waypart := 0, policy := 0 } }
     let w : MemWord := { cur := { seq := 1, mask := 8, word := 0x2F1024FE }, kind := .load 4 63, accs := [x], since := some 0 }
     let two : MemWord := { w with accs := [x, { x with lane := 4 }] }
     let uniform : MemWord := { w with cur := { seq := 1, word := 0x91146FFD } }
     (let s := inGroup fun g => { g with awaits := [w] }
      sentWord s = some w ∧ w.cur.word.getLsbD 31 = false ∧ s.grp.olderAccess w.cur.seq = false ∧ lockedRegs s.team s.grp.gidx = []) ∧
     (let s := inGroup fun g => { g with awaits := [two] }
      sentWord s = some two ∧ two.answers.length + 1 < two.need s ∧ ∀ y ∈ two.accs, y.v = x.v) ∧
     (let s := inGroup fun g => { g with awaits := [uniform] }
      sentWord s = some uniform ∧ uniform.cur.word.getLsbD 31 = true ∧ uniform.answers.length < uniform.need s)) ∧
    (let s := { uni 5 with hub := { (uni 5).hub with modPol := 1 }, dies := [(0, { inReset := true })] }
     inboundReason s (0x2000 % 2 ^ 39) = some 3 ∧ (s.die (homeOf (0x2000 % 2 ^ 39 / 128))).inReset = true) := by decide

/-- A module with a link, a die or a port as given. -/
def withDie (d : Die) : State := { uni 5 with dies := [(3, d)] }

set_option maxRecDepth 20000 in
/-- A link about to retrain by itself and not; a die in service and in reset; a port with a group that wakes; a wavelength. -/
theorem witness_ServiceOperations :
    (∀ n ∈ [[], List.replicate 6 0, List.replicate 7 0], let s := { uni 5 with links := [(3, { replays := n })] }
      (look s.links 3 {}).retraining = false) ∧
    (let s := { uni 5 with links := [(3, { retraining := true })] }
     (look s.links 3 {}).retraining = true) ∧
    (((withDie {}).die 3).inReset = false ∧ ((withDie {}).die 3).outOfService = false) ∧
    (((withDie { inReset := true }).die 3).inReset = true ∧ ((withDie { inReset := true }).die 3).outOfService = false) ∧
    (inGroup fun g => { g with wait := .homeDie 3 0 }).grp.wait = .homeDie 3 0 ∧
    (let x : LaneAcc := { lane := 3, va := 0x20000, v := .home 3 (.device 0x20000) { waypart := 0, policy := 0 } }
     let w : MemWord := { cur := { seq := 1, mask := 8, word := 0x2F1024FE }, kind := .load 4 63, accs := [x], since := some 0 }
     let s := inGroup (fun g => { g with awaits := [w] }) (withDie { inReset := true })
     homeWord s = some w ∧ w.cur.word.getLsbD 31 = false ∧ s.grp.wait = .ready ∧ (s.die 3).inReset = true) ∧
    (let x : OutsideAccess := { source := 9, pa := 0x3000000000, size := 8, kind := 0, v := 0, since := 5 }
     let s := { withDie { inReset := true } with outside := [x] }
     s.outside = [x] ∧ homeWord s = none ∧ s.grp.held = [] ∧ s.team.orphans = [] ∧ x.bar2 = none ∧ (s.die (homeOf (x.pa / 128))).inReset = true) ∧
    (coreBusy (uni 5) (767 % 768) = false ∧ coreBusy (uni 5) 0 = true ∧ (((uni 5).die 7).coresSpared < 8) ∧ ∀ c ∈ spareCores 10 7, coreBusy (uni 5) c = false) ∧
    ((uni 5).damage = [] ∧ (let e : Nat × Byte := (4, 0xFF)
      let s := { uni 5 with damage := [(5, [e])] }
      s.damage = [(5, [e])] ∧ (s.die (homeOf 5)).lost = [])) ∧
    (let s := { uni 5 with ports := [(2, { waking := 12, waker := some (2, 40) })] }
     (look s.ports 2 {}).waker = some (2, 40)) ∧
    ((look (uni 5).ports 2 {}).retired.getLsbD (15 / 4) = false ∧ (uni 5).slalia.lost = false) ∧
    (let s := { uni 5 with slalia := { (uni 5).slalia with lost := true } }
     s.slalia.lost = true) ∧
    (∀ x ∈ (uni 5).allTeams, x.core ≠ (767 : Half).toNat % 768) := by decide

/-! #### Launches -/

/-- Queue 3 enabled at 0x4000 with the 128-byte record of a launch of one group of one team. -/
def queued : State := { uni 5 with
  mem := [(0x4019, 1), (0x401C, 1), (0x401D, 0x11), (0x4020, 1), (0x4024, 1), (0x4028, 1), (0x4030, 1)],
  hub := { (uni 5).hub with queues := [(3, { base := 0x4000, cfg := 0x24, head := 1 })] } }

/-- The record. -/
def record : List Byte := (paBytes queued 0x4000 128).getD []

set_option maxRecDepth 20000 in
theorem witness_LaunchOperations_accept :
    (turnQueue queued = some 3 ∧ (queued.queue 3).due = none ∧ turnQueue queued ≠ some 4 ∧ paBytes queued 0x4000 128 = some record) ∧
    (recordBad (ctxOf queued (launchOf record).asid).valid record = none ∧ fieldAt record 56 8 = 0 ∧ (launchOf record).wait = false ∧ (launchOf record).qfed = false) ∧
    (recordBad (ctxOf queued 1).valid (record.set 28 0) = some 28) ∧
    (let s := { queued with hub := { queued.hub with queues := [(3, { base := 0xF000000000, cfg := 0x24, head := 1 })] } }
     paBytes s 0xF000000000 128 = none) := by decide

/-- A launch of one team that waits, may place, or may finish. -/
def withLaunch (l : Launch) : State := { uni 5 with launches := [l] }
def launch0 : Launch := { seqNo := 5, id := 9, queue := 3, asid := 1, counts := [0, 1, 0, 0], entry := [0, 0, 0, 0], waitVa := 0x2000, doneVa := 0x2000, nodeVa := 0x2000 }

set_option maxRecDepth 20000 in
theorem witness_LaunchOperations_wait :
    (let l := { launch0 with wait := true }
     (withLaunch l).launch 5 = some l ∧ l.finished = false ∧ l.started = false ∧ hubTarget (withLaunch l) l.asid l.waitVa .read = some (.device 0x2000)) ∧
    (let l := { launch0 with ended := true }
     (withLaunch l).launch 5 = some l ∧ placeable (withLaunch l) l = false) ∧
    (let l := { launch0 with nextTeam := 1, started := true, done := true }
     (withLaunch l).launch 5 = some l ∧ finishes (withLaunch l) l = true ∧ l.regions = [] ∧ l.combWait = none ∧ l.noDone = false ∧ allTlb (withLaunch l) = [] ∧
       hubTarget (withLaunch l) l.asid l.doneVa .write = some (.device 0x2000) ∧ 0x2000 % 128 + 8 ≤ 128) := by decide

set_option maxRecDepth 20000 in
theorem witness_LaunchOperations_place : (withLaunch launch0).launch 5 = some launch0 ∧ launch0.size = 1 ∧ placeable (withLaunch launch0) launch0 = true ∧
    (pickCore (withLaunch launch0) launch0.need launch0.seqNo launch0.nextTeam).isSome = true ∧
    ∀ o ∈ (withLaunch launch0).launches, o.seqNo < 5 → placeable (withLaunch launch0) o = false := by decide

/-- A node at 0x2000 whose TAIL is `tail`. -/
def withNode (tail : Byte) (n : NodeCtl := {}) : State := { withLaunch { launch0 with qfed := true, node := n } with
  mem := (if tail = 0 then [] else [(0x2010, tail)]) ++ [(0x2018, 1)] }

set_option maxRecDepth 20000 in
/-- TAIL at the batch's lower end, above it, and a batch whose last slot is valid; a slot that is waited for. -/
theorem witness_LaunchOperations_node :
    (∀ tail ∈ [(0 : Byte), 1], let s := withNode tail
      s.launch 5 = some { launch0 with qfed := true } ∧ nodeServed { launch0 with qfed := true } = true ∧
        readNodeCtl s { launch0 with qfed := true } = some (tail.toNat, 0, 1)) ∧
    (let l := { launch0 with qfed := true, node := { firing := some (1, 0, 40), recVa := 0x3000 } }
     let s := { withNode 1 l.node with mem := [(0x2010, 1), (0x2018, 1), (0x3000, 1)] }
     s.launch 5 = some l ∧ nodeServed l = true ∧ (fireOrder l 1).dropWhile (fun k => decide (k ≠ 0)) = [0] ∧ nodeWord s l (l.slotVa 0) = some (l.validTag 0) ∧
       l.node.timedOut = false ∧ l.finished = false ∧ l.ended = false) := by decide

/-! #### Pending faults, engines, pre-emption -/

/-- A page request of lane 0 for 0x20000. -/
def aPage : PendFault := { aTrap with page := some (0x20000, 0) }

set_option maxRecDepth 20000 in
theorem witness_FaultOperations :
    (let s := inGroup (fun g => { g with pendFault := some aTrap }) handled
     s.grp.pendFault = some aTrap ∧ olderOutstanding s.grp aTrap.cur.seq = false ∧ takes s aTrap ∧ handlerVa s ≠ 0) ∧
    (let s := inGroup (fun g => { g with pendFault := some aTrap }) busy
     s.grp.pendFault = some aTrap ∧ olderOutstanding s.grp aTrap.cur.seq = true) ∧
    (let s := inGroup (fun g => { g with pendFault := some aPage }) handled
     s.grp.pendFault = some aPage ∧ olderOutstanding s.grp aPage.cur.seq = false ∧ aPage.page = some (0x20000, 0) ∧ aPage.lanes ≠ 0 ∧ aPage.lanes &&& ~~~aPage.cur.mask = 0 ∧
       (ctxOf s s.team.asid).saveBase.toNat / 65536 = 0) ∧
    (let s := inGroup (fun g => { g with pendFault := some aPage }) { handled with hub := { handled.hub with ctx := [(1, { saveBase := 0x1000000 })] } }
     (ctxOf s s.team.asid).saveBase.toNat / 65536 ≠ 0 ∧ slotHeld s s.team = false ∧ s.team.uid ≠ 0) ∧
    (let e : FEntry := { pc := 0x8000, prio := 63, mask := 1, handler := true }
     topEntry inHandling.grp.frontier = some e ∧ inHandling.grp.frontier.find? (fun x => x.handler) = some e ∧ inHandling.grp.fault.valid = true ∧
       allQuiet inHandling.grp = true ∧ inHandling.grp.live ≠ 0) := by unfold takes; decide

/-- A word of the engine for tile 7, its reservation 15 where it has one, its gang groups 0 and 1. -/
def engineWord (i : Instr) : MatWord := { order := 4, word := (encode i).getD 0, gang := 0x412, val := 0, waits := [] }
def withWord (w : MatWord) (r : Reservation := {}) : State := { pair with team := { pair.team with words := [w], resv := [(15, r)] } }

set_option maxRecDepth 20000 in
theorem witness_EngineOperations_matrix :
    (∀ i ∈ [Instr.mclr 0 7 0 0, .mbound 0 7 2 0 0, .mma 0 7 15 0 0 0], let w := engineWord i
      headWord (withWord w).team 7 = some w ∧ canStart (withWord w) (withWord w).team w = true ∧ (look (withWord w).team.tiles 7 {}).faulted = [] ∧ w.val = 0) ∧
    (majorOf (engineWord (.mclr 0 7 0 0)).word = 0x32 ∧ majorOf (engineWord (.mbound 0 7 2 0 0)).word = 0x36 ∧ majorOf (engineWord (.mma 0 7 15 0 0 0)).word = 0x30) ∧
    (let r : Reservation := { w0 := 0x0000008022040000, w1 := 0x3FFFF3FFFF, kpos := 64, held := true }
     let s := withWord (engineWord (.mma 0 7 15 0 0 0)) r
     jointR (engineWord (.mma 0 7 15 0 0 0)).word = 15 ∧ resvClass r = some .int8 ∧ r.kpos + 64 ≤ r.w0.toNat / 2 ^ 32 % 65536 ∧ (look s.team.tiles 7 {}).type = .zero ∧
       (gangHolders 0x412).length = 2 ∧ (∀ h ∈ gangHolders 0x412, ∃ g ∈ s.groupsOf s.team.uid, g.gidx = h) ∧ ∀ g ∈ s.groupsOf s.team.uid, g.pend = []) ∧
    (let s := withWord (engineWord (.mma 0 7 15 0 0 0))
     (look s.team.resv 15 {}).held = false ∧ s.grp.live ≠ 0) ∧
    (∀ replay ∈ [false, true], let w := { engineWord (.mma 0 7 15 0 0 0) with started := true, replay := replay, ends := 40 }
      let s := withWord w
      runningWord s.team 7 (fun x => x.replay = replay) = some w ∧ s.team.words.find? (fun x => x.order = w.order) = some w ∧ s.grp.live ≠ 0 ∧
        (look s.team.tiles 7 {}).chain = none) := by decide

/-- A command of the executing group of context 1. -/
def command (major fn : Nat) (st : CmdState := .queued) (e : Engine := .trav 0) : Command :=
  { id := 3, engine := e, major := major, fn := fn, opa := 0x2000, opb := 0, uid := 1, gidx := 0, asid := 1, priv := true, core := 0, launch := 0, state := st }
def withCommand (c : Command) : State := { uni 5 with commands := [c] }

set_option maxRecDepth 20000 in
theorem witness_EngineOperations_commands :
    (∀ x ∈ [(0x3B, 5), (0x3B, 8), (0x3A, 4)], let c := command x.1 x.2 .delivered
      deliveredCmd (withCommand c) = some c ∧ (withCommand c).grp.olderAccess (headSeq (withCommand c).grp) = false ∧ c.pages = [] ∧ queueFull (withCommand c) c.engine = false) ∧
    (let e : CommitEntry := { cur := { seq := 2 }, effect := .command 0x3A 4 0 0 64 false }
     let s := inGroup (fun g => { g with held := [{ seq := 0, target := .device 0, size := 4, data := 0 }], commit := [e] }) (withCommand (command 0x3A 4 .delivered))
     deliveredCmd s = some (command 0x3A 4 .delivered) ∧ s.grp.olderAccess (headSeq s.grp) = true) ∧
    (∀ x ∈ [(0x3A, 0), (0x3A, 2), (0x3A, 4)], let c := command x.1 x.2
      (withCommand c).cmd 3 = some c ∧ mayStart (withCommand c) c = true) ∧
    (∀ c ∈ [{ command 0x3F 0 .queued .system with opb := 0x2000 }, command 0x3F 6 .queued .system],
      (withCommand c).cmd 3 = some c ∧ mayStart (withCommand c) c = true ∧ (c.fn = 0 → c.opb.toNat / 4096 % 4 = 2) ∧ (c.fn = 6 → c.opa.toNat % 4 = 0)) ∧
    (let c := command 0x3A 4 .finished
     (withCommand c).cmd 3 = some c ∧ ((withCommand c).teamOf c.uid).map (fun m => m.events.length) = some 0 ∧ c.callouts = [] ∧ c.state = .finished ∧
       leftPorts (withCommand c) c = true ∧ recordFirst (withCommand c) c = true ∧ ∀ x ∈ c.after, stillUnderWay (withCommand c) x = false) ∧
    (let c := { command 0x3F 0 .finished .system with after := [(1, 0, 0)] }
     let s := inGroup (fun g => { g with held := [{ seq := 0, target := .device 0, size := 4, data := 0 }] }) (withCommand c)
     s.cmd 3 = some c ∧ c.callouts = [] ∧ ∀ x ∈ c.after, stillUnderWay s x = true) ∧
    (let s := { withCommand (command 0x3A 4 .finished) with team := { (uni 5).team with events := List.replicate 64 { tag := 0 } } }
     s.cmd 3 = some (command 0x3A 4 .finished) ∧ (s.teamOf 1).map (fun m : Team => m.events.length) = some 64) ∧
    (let c := command 0x3F 5 .running .system
     (withCommand c).cmd 3 = some c ∧ lostTeam (withCommand c) c = true) ∧
    (∀ b ∈ [false, true], let c := { command 0x3A 2 (.waiting 0x2000) with retry := b }
      (withCommand c).cmd 3 = some c) := by decide

/-- A ray of a running command. -/
def aRay : Ray := { id := 6, cmd := 3, core := 0, uid := 1, index := 0, scene := 0x2000, tag := 0, kind := 0, org := [0, 0, 0], dir := [0, 0, 0], tmax := 0, tmin := 0,
                    mask := 0xFF, cull := false, opaq := true, contrib := [], fbva := 0, best := .pinf }
def aHit : Hit := { t := .fin 1 false 0 1, tBits := 0x3F800000, cluster := 0, prim := 0, hkind := 0, front := true, inst := none, u := 0, v := 0, opaque_ := true }
def aWalk : Walk := { scene := 0x2000, tag := 0, inst := none, org := [0, 0, 0], dir := [0, 0, 0] }
def withRay (r : Ray) : State := { withCommand { command 0x3A 0 .running with outstanding := 1 } with rays := [r] }

set_option maxRecDepth 20000 in
theorem witness_EngineOperations_rays :
    (∀ r ∈ [{ aRay with todo := [.node aWalk 0] }, { aRay with todo := [.offer aHit] }, { aRay with kind := 2, done := true, occluded := true }],
      (withRay r).rays.find? (fun x => x.id = 6) = some r ∧ (withRay r).cmd r.cmd = some { command 0x3A 0 .running with outstanding := 1 } ∧ r.callout = none ∧
        hasPlace (withRay r) r = true ∧ budgetSpent (withRay r) r = false) ∧
    (aHit.opaque_ = true ∧ aRay.hit = none ∧ aHit.t.le aRay.best = true) := by decide

/-- A scene at 0x2000 whose nodes stand from 0x3000 on. -/
def withScene : State := { withRay { aRay with todo := [.node aWalk 0] } with mem := [(0x2001, 0x30)] }

set_option maxRecDepth 20000 in
theorem witness_EngineOperations_node : (match ((do readNode (travAgent (command 0x3A 0 .running)) (← readScene (travAgent (command 0x3A 0 .running)) 0x2000) 0 : SceneM Node) withScene) with
    | .ok _ => true | .error _ => false) = true := by decide


/-- Nothing to reclaim: no node of the retired generation, no ray in it. -/
def reclaimer : Command := { command 0x3B 7 .running .compactor with todo := [0] }
def reclaiming : State := { withScene with commands := [reclaimer] }

/-- A subtree `emit` of an empty range of pairs into the reserved octant 0 of fence 5. -/
def emitter : Command := { command 0x3B 2 .running (.builder 0) with todo := [0], desc := [0, 0x20] ++ List.replicate 24 0 ++ [5] }
def emitting : State := { withCommand emitter with mem := [(0x2001, 0x30), (0x2009, 0x10), (0x2032, 1), (0x3040, 4), (0x3048, 5)] }

set_option maxRecDepth 20000 in
theorem witness_EngineOperations_builds :
    (reclaiming.cmd 3 = some reclaimer ∧ rayCount reclaiming reclaimer.opa reclaimer.stamp = 0 ∧ reclaimer.count = 0 ∧
      (match reclaimed (agentOf reclaimer 5) reclaimer.opa.toNat reclaimer.slot (unwritten reclaiming) with | .ok (_, s1) => decide (s1.commands = reclaiming.commands) | .error _ => false) = true) ∧
    (rayCount { reclaiming with rayCounts := [((0, 0x2000, 0), 1)] } 0x2000 0 ≠ 0) ∧
    (emitting.cmd 3 = some emitter ∧ emitter.todo.find? (fun y => y % 8 = 0) = some 0 ∧ emitter.todo.find? (fun y => y / 64 / 2 ^ 29 = 0 / 64 / 2 ^ 29) = some 0 ∧
      (match emitSub (agentOf emitter 5) (dieOf emitter.core) (emitDesc emitter.desc) (unwritten emitting) with | .ok (_, s1) => decide (s1.commands = emitting.commands) | .error _ => false) = true) := by
  decide +kernel

/-- A team that is about to be saved to 0x1000000 for a page at 0x20000, with nothing left to settle. -/
def leaving : State := let s := uni 5
  { s with team := { s.team with saving := some (.page 0x20000) },
           hub := { s.hub with ctx := [(1, { heapLimit := 0x10000000, valid := true, priv := true, saveBase := 0x1000000 })] } }

/-- It has been saved and may be restored. -/
def savedTeam : SavedTeam := (memberSave leaving leaving.team 0x1000000 (some 0x20000)).2.2
def returning : State := { State.reset with stage := 7, saved := [{ savedTeam with restoring := some none }] }

set_option maxRecDepth 20000 in
theorem witness_PreemptionOperations_save :
    leaving.allTeams.find? (fun t => t.core = 0 && t.tslot = 0 && t.saving.isSome) = some leaving.team ∧ leaving.team.uid ≠ 0 ∧ membersOf leaving leaving.team = [leaving.team] ∧
    memberQuiet leaving leaving.team = true ∧ leaving.team.saveWait = none ∧ (settleGroups leaving 1).teamOf 1 = some leaving.team ∧
    membersOf (settleGroups leaving 1) leaving.team = [leaving.team] := by decide +kernel

set_option maxRecDepth 20000 in
theorem witness_PreemptionOperations_others :
    (∀ retry ∈ [false, true], let s := { uni 5 with team := { (uni 5).team with pageWait := some 0x20000, pageRetry := retry } }
      s.teamOf 1 = some s.team ∧ s.team.pageWait = some 0x20000 ∧ s.team.pageRetry = retry) ∧
    (let w := engineWord (.mclr 0 7 0 0)
     let s := { leaving with team := { leaving.team with words := [w] } }
     s.allTeams.find? (fun t => t.core = 0 && t.tslot = 0 && t.saving.isSome) = some s.team ∧ membersOf s s.team = [s.team] ∧ memberQuiet s s.team = false) ∧
    (let s := { uni 5 with hub := { (uni 5).hub with ctl := [(1, { drain := true, dlEn := true })] } }
     (s.ctl 1).drain = true ∧ (s.ctl 1).dlEn = true ∧ pstate s 1 = 1) ∧ ((uni 5).ctl 1).drain = false := by decide

set_option maxRecDepth 20000 in
theorem witness_PreemptionOperations_restore : returning.saved.find? (fun x => x.uid = 1) = some { savedTeam with restoring := some none } ∧
    savedMembers returning { savedTeam with restoring := some none } = [{ savedTeam with restoring := some none }] ∧ (returning.ctl 1).drain = false ∧
    savedTeam.asid = 1 ∧ savedTeam.restoring = none := by decide +kernel
end Sys2Proof.Tests
end

section
/-!
What an access does to the caches on its way to a line: only the dies' slices, their directories and RDC partitions, the errors in cells and the
recalls on their way move (05 R98 to R101, R108).
-/
namespace Sys2Proof.Machine

/-- What no cache transition touches: the state outside the dies, the cells' errors and the recalls, and which dies are out of service. -/
def outsideSlices (s : State) : State × (Nat → Bool) :=
  ({ s with dies := [], damage := [], recalls := [] }, fun n => (s.die n).outOfService)

theorem modDie_die (s : State) (d n : Nat) (f : Die → Die) : (s.modDie d f).die n = if d = n then f (s.die d) else s.die n :=
  look_change ..

/-- A change of a die that leaves its service bit. -/
theorem outsideSlices_modDie (s : State) (d : Nat) (f : Die → Die) (h : ∀ x, (f x).outOfService = x.outOfService) :
    outsideSlices (s.modDie d f) = outsideSlices s := by
  refine Prod.ext rfl (funext fun n => ?_)
  show ((s.modDie d f).die n).outOfService = (s.die n).outOfService
  rw [modDie_die]
  split
  · next e => rw [h, e]
  · rfl

/-- A loop of such changes. -/
theorem outsideSlices_foldl {β : Type} (f : State → β → State) (h : ∀ s x, outsideSlices (f s x) = outsideSlices s) (l : List β) (s : State) :
    outsideSlices (l.foldl f s) = outsideSlices s :=
  List.foldlRecOn (motive := fun t => outsideSlices t = outsideSlices s) l f rfl fun t ht x _ => (h t x).trans ht

@[simp] theorem l2Evict_outside (s : State) (line : Nat) : outsideSlices (l2Evict s line) = outsideSlices s := by
  unfold l2Evict
  rw [outsideSlices_modDie]
  · split <;> rfl
  · intro d; split <;> rfl

@[simp] theorem l2Fill_outside (s : State) (line w p : Nat) : outsideSlices (l2Fill s line w p) = outsideSlices s := by
  unfold l2Fill
  dsimp only
  split
  · exact outsideSlices_modDie _ _ _ fun _ => rfl
  · split
    · rfl
    · split
      · rfl
      · rw [outsideSlices_modDie _ _ _ (by intro; rfl)]
        split
        · exact l2Evict_outside _ _
        · rfl

@[simp] theorem setHomeStamps_outside (s : State) (line w r : Nat) (dirty : Bool) :
    outsideSlices (setHomeStamps s line w r dirty) = outsideSlices s :=
  outsideSlices_modDie _ _ _ fun d => by split <;> rfl

@[simp] theorem rdcDrop_outside (s : State) (n line : Nat) : outsideSlices (rdcDrop s n line) = outsideSlices s := by
  unfold rdcDrop
  split
  · rfl
  · rw [outsideSlices_modDie _ _ _ (by intro; rfl), setHomeStamps_outside]

@[simp] theorem setDir_outside (s : State) (line : Nat) (p : Byte) (o : Option Nat) : outsideSlices (setDir s line p o) = outsideSlices s :=
  outsideSlices_modDie _ _ _ fun _ => rfl

@[simp] theorem dropRemote_outside (s : State) (line : Nat) : outsideSlices (dropRemote s line) = outsideSlices s := by
  unfold dropRemote
  split
  · rfl
  · exact (setDir_outside ..).trans (outsideSlices_foldl _ (fun s n => rdcDrop_outside s n line) _ _)

@[simp] theorem makeDirRoom_outside (s : State) (line : Nat) : outsideSlices (makeDirRoom s line) = outsideSlices s := by
  unfold makeDirRoom
  dsimp only
  split
  · rfl
  · split
    · exact dropRemote_outside _ _
    · rfl

@[simp] theorem setRdc_outside (s : State) (n line : Nat) (f : RdcLine → RdcLine) : outsideSlices (setRdc s n line f) = outsideSlices s :=
  outsideSlices_modDie _ _ _ fun _ => rfl

@[simp] theorem rdcEvictLine_outside (s : State) (n line : Nat) : outsideSlices (rdcEvictLine s n line) = outsideSlices s := by
  unfold rdcEvictLine
  split
  · rfl
  · split <;> simp

@[simp] theorem rdcFill_outside (s : State) (n line w p : Nat) (st : Moesi) : outsideSlices (rdcFill s n line w p st) = outsideSlices s := by
  unfold rdcFill
  dsimp only
  split
  · rfl
  · split
    · rfl
    · rw [outsideSlices_modDie _ _ _ (by intro; rfl)]
      split
      · exact rdcEvictLine_outside _ _ _
      · rfl

@[simp] theorem stampsHome_outside (s : State) (n line : Nat) : outsideSlices (stampsHome s n line) = outsideSlices s := by
  unfold stampsHome
  split
  · rfl
  · exact setHomeStamps_outside ..

@[simp] theorem dirReadReq_outside (s : State) (line n w p : Nat) : outsideSlices (dirReadReq s line n w p) = outsideSlices s := by
  unfold dirReadReq
  split
  · simp [apply_ite outsideSlices]
  · dsimp only
    split
    · rfl
    · split <;> simp

@[simp] theorem dirOwnReq_outside (s : State) (line n w p : Nat) : outsideSlices (dirOwnReq s line n w p) = outsideSlices s := by
  have drops (l : List Nat) (s : State) := outsideSlices_foldl _ (fun s m => rdcDrop_outside s m line) l s
  unfold dirOwnReq
  simp only [apply_ite outsideSlices, setDir_outside, setRdc_outside, rdcFill_outside, stampsHome_outside, drops, makeDirRoom_outside, ite_self]

@[simp] theorem dirHomeReadReq_outside (s : State) (line : Nat) : outsideSlices (dirHomeReadReq s line) = outsideSlices s := by
  unfold dirHomeReadReq
  split
  · split <;> simp
  · rfl

@[simp] theorem sendRecall_outside (s : State) (line : Nat) : outsideSlices (sendRecall s line) = outsideSlices s := by
  unfold sendRecall
  split
  · exact outsideSlices_modDie s _ (fun d => { d with fills := d.fills.filter fun f => f.2.1 ≠ line }) fun _ => rfl
  · rfl

/-- A read on its way to the copy that serves it (R99, R101). -/
@[simp] theorem reachRead_outside (s : State) (n line : Nat) (c : Caching) : outsideSlices (reachRead s n line c) = outsideSlices s := by
  unfold reachRead
  split
  · simp
  · split <;> simp

/-- A write on its way to its point of performance (R99, R101). -/
@[simp] theorem reachWrite_outside (s : State) (n line : Nat) (c : Caching) : outsideSlices (reachWrite s n line c) = outsideSlices s := by
  unfold reachWrite
  split
  · simp
  · split
    · split
      · simp
      · split <;> simp
    · simp

@[simp] theorem setStamps_outside (s : State) (n line w r : Nat) (dirty : Bool) : outsideSlices (setStamps s n line w r dirty) = outsideSlices s := by
  unfold setStamps
  split
  · simp
  · split <;> simp

end Sys2Proof.Machine
end

section
/-!
Accesses of the hub's units to device memory (06 R117, 23 R392, 17 R348): a read changes no byte, a write within one line stores its bytes there,
and neither, nor an entry into the module fault ring (24 R410), touches the answers the host has got.
-/
namespace Sys2Proof.Machine

@[simp] theorem noteCode_mem (s : State) (who : Option Nat) (host : Bool) (a n : Nat) : (noteCode s who host a n).mem = s.mem := by
  unfold noteCode; split <;> rfl

@[simp] theorem noteCode_hostReplies (s : State) (who : Option Nat) (host : Bool) (a n : Nat) :
    (noteCode s who host a n).hostReplies = s.hostReplies := by
  unfold noteCode; split <;> rfl

/-- Reads leave everything outside the slices as it is. -/
@[simp] theorem hubRead_outside (s : State) (pa n : Nat) (c : Caching) : outsideSlices (hubRead s pa n c).1 = outsideSlices s :=
  outsideSlices_foldl _ (fun _ _ => reachRead_outside ..) _ s

theorem mem_of_outside {s t : State} (h : outsideSlices t = outsideSlices s) : t.mem = s.mem :=
  congrArg (fun x => x.1.mem) h

theorem hostReplies_of_outside {s t : State} (h : outsideSlices t = outsideSlices s) : t.hostReplies = s.hostReplies :=
  congrArg (fun x => x.1.hostReplies) h

/-- A write at its point of performance stores its bytes. -/
theorem pointWrite_mem (s : State) (die pa n v : Nat) (c : Caching) (who : Option Nat) :
    (pointWrite s die pa n v c who).mem = memWrite s.mem pa n v := by
  show memWrite (reachWrite s die (pa / 128) c).mem pa n v = _
  rw [mem_of_outside (reachWrite_outside ..)]

theorem pointWrite_hostReplies (s : State) (die pa n v : Nat) (c : Caching) (who : Option Nat) :
    (pointWrite s die pa n v c who).hostReplies = s.hostReplies := by
  unfold pointWrite
  dsimp only
  rw [noteCode_hostReplies, hostReplies_of_outside ((setStamps_outside ..).trans (reachWrite_outside ..))]

theorem hubWrite_hostReplies (s : State) (pa n v : Nat) (c : Caching) : (hubWrite s pa n v c).hostReplies = s.hostReplies :=
  List.foldlRecOn (motive := fun t => t.hostReplies = s.hostReplies) _ _ rfl fun t ht _ _ => (pointWrite_hostReplies t ..).trans ht

/-- The bytes of an access within one line are one piece. -/
theorem lineChunks_of_le {pa n : Nat} (h : pa % 128 + n ≤ 128) : lineChunks pa n = [(0, n)] ∨ (n = 0 ∧ lineChunks pa n = []) := by
  unfold lineChunks
  by_cases h0 : pa % 128 + n = 0
  · exact .inr ⟨by omega, by simp [h0]⟩
  · left
    rw [show (pa % 128 + n + 127) / 128 = 1 by omega]
    simp [show min n (128 - pa % 128) = n by omega]

/-- A write within one line stores its bytes. -/
theorem hubWrite_mem {pa n : Nat} (s : State) (v : Nat) (c : Caching) (h : pa % 128 + n ≤ 128) :
    (hubWrite s pa n v c).mem = memWrite s.mem pa n v := by
  unfold hubWrite
  rcases lineChunks_of_le h with e | ⟨rfl, e⟩
  · simp [e, pointWrite_mem]
  · rw [e]; rfl

@[simp] theorem regainLine_mem (s : State) (line : Nat) : (regainLine s line).mem = s.mem := rfl
@[simp] theorem regainLine_hostReplies (s : State) (line : Nat) : (regainLine s line).hostReplies = s.hostReplies := rfl

@[simp] theorem patchLine_mem (s : State) (pa n : Nat) : (patchLine s pa n).mem = s.mem := by
  unfold patchLine
  split
  · dsimp only; split <;> rfl
  · rfl

/-! ### The module fault ring -/

@[simp] theorem rawReach_hostReplies (s : State) (t : Target) (n : Nat) (c : Caching) : (rawReach s t n c).hostReplies = s.hostReplies := by
  unfold rawReach
  split
  · exact hostReplies_of_outside (hubRead_outside ..)
  · rfl

@[simp] theorem unlose_hostReplies (s : State) (pa n : Nat) : (unlose s pa n).hostReplies = s.hostReplies := by
  unfold unlose
  split
  · exact regainLine_hostReplies ..
  · rfl

@[simp] theorem rawWrite_hostReplies (s : State) (t : Target) (n v : Nat) (c : Caching) :
    (rawWrite s t n v c).hostReplies = s.hostReplies := by
  unfold rawWrite
  split
  · rw [unlose_hostReplies, hubWrite_hostReplies]
  · exact noteCode_hostReplies ..
  · rfl

@[simp] theorem ringPut_hostReplies (s : State) (res : Nat → Option (Target × Caching)) (log2 : Nat) (e : RingEntry) :
    (ringPut s res log2 e).1.hostReplies = s.hostReplies := by
  unfold ringPut
  split
  · extract_lets wr rd u drop
    have hu : u.hostReplies = s.hostReplies := by simp [u]
    have hd : drop.hostReplies = s.hostReplies := by simp [drop, hu]
    clear_value drop u rd wr
    split
    · split
      · simp [hu]
      · exact hd
    · exact hd
  · rfl

/-- An entry into the module fault ring answers no read of the host. -/
@[simp] theorem modRing_hostReplies (s : State) (e : RingEntry) : (modRing s e).hostReplies = s.hostReplies := by
  unfold modRing
  dsimp only
  split
  · rfl
  · split
    · rfl
    · split
      · rw [noteCode_hostReplies, ringPut_hostReplies]
      · rw [ringPut_hostReplies]

/-- Without a ring no entry is written (R410). -/
theorem modRing_of_no_ring (s : State) (e : RingEntry) (h : bits s.hub.modFring.toNat 47 12 = 0) : modRing s e = s := by
  unfold modRing
  simp [h]

end Sys2Proof.Machine
end

section
/-!
Writes of whole registers of the hub-resource region (05 R84, 17 R347, 16 R331): the bytes of a naturally aligned write name one register, whose
held bits take the value.
-/
namespace Sys2Proof.Machine

/-- A write of up to 8 bytes at a multiple of 8 writes the low bytes of one register. -/
theorem hubSet_aligned (s : State) (o n v : Nat) (ho : o % 8 = 0) (h1 : 1 ≤ n) (h8 : n ≤ 8) :
    hubSet s o n v = hubSetReg s o (BitVec.ofNat 64 (v % 256 ^ n)) (BitVec.ofNat 64 (256 ^ n - 1)) := by
  unfold hubSet
  dsimp only
  rw [ho, show (0 + n + 7) / 8 = 1 by omega]
  simp [show 8 * (o / 8) = o by omega]

/-- Eight bytes are the whole register. -/
theorem hubSet_word (s : State) (o : Nat) (v : DWord) (ho : o % 8 = 0) :
    hubSet s o 8 v.toNat = hubSetReg s o v (BitVec.allOnes 64) := by
  rw [hubSet_aligned s o 8 _ ho (by omega) (by omega), Nat.mod_eq_of_lt (by have := v.isLt; omega), BitVec.ofNat_toNat, BitVec.setWidth_eq]
  rfl

/-- A write of every bit leaves nothing of the old value. -/
theorem mergeBits_allOnes (old v m : DWord) : mergeBits old v (BitVec.allOnes 64) m = v &&& m := by
  rw [mergeBits, BitVec.not_allOnes, BitVec.and_zero, BitVec.zero_or, BitVec.and_allOnes]

/-- APERBASE (R347, R348). -/
theorem hubSetReg_aperBase (s : State) (v be : DWord) :
    hubSetReg s 0xF008 v be = { s with hub := { s.hub with aperBase := mergeBits (hubReg s 0xF008) v be (maskRange 47 33) } } := rfl

/-- FABRT of module m (R347, R354). -/
theorem hubSetReg_fabRt (s : State) (m : Nat) (v be : DWord) (hm : m < 256) :
    hubSetReg s (0x20000 + 8 * m) v be =
      { s with hub := { s.hub with fabRt := put s.hub.fabRt m (mergeBits (hubReg s (0x20000 + 8 * m)) v be (lowMask 24)) 0 } } := by
  unfold hubSetReg
  dsimp only
  rw [if_neg (by omega), if_neg (by omega), if_neg (by omega), if_pos (by simp only [Bool.and_eq_true, decide_eq_true_eq]; omega),
    show (0x20000 + 8 * m - 0x20000) / 8 = m by omega]

/-- LQHEAD of queue q (R331). -/
theorem hubSetReg_lqHead (s : State) (q : Nat) (v be : DWord) (hq : q < 256) :
    hubSetReg s (64 * q + 0x10) v be =
      s.modQueue q fun x => { x with head := (mergeBits (hubReg s (64 * q + 0x10)) v be (lowMask 32)).setWidth 32 } := by
  unfold hubSetReg
  dsimp only
  rw [if_pos (by omega), show (64 * q + 0x10) % 64 = 0x10 by omega, show (64 * q + 0x10) / 64 = q by omega]
  rfl

/-- A 32-bit write of LQHEAD leaves nothing of the old value. -/
theorem lqHead_written (old : DWord) (v : Word) :
    (mergeBits old (BitVec.ofNat 64 (v.toNat % 256 ^ 4)) (BitVec.ofNat 64 (256 ^ 4 - 1)) (lowMask 32)).setWidth 32 = v := by
  have h : BitVec.ofNat 64 (v.toNat % 256 ^ 4) = v.setWidth 64 := by
    rw [Nat.mod_eq_of_lt (by have := v.isLt; omega)]
    exact BitVec.eq_of_toNat_eq (by simp)
  have hm : lowMask 32 = (BitVec.allOnes 32).setWidth 64 := by decide
  have hb : BitVec.ofNat 64 (256 ^ 4 - 1) = (BitVec.allOnes 32).setWidth 64 := by decide
  rw [h, hm, hb]
  unfold mergeBits
  ext i hi
  simp [-BitVec.reduceAllOnes]

theorem modQueue_queues (s : State) (n : Nat) (f : LaunchQueue → LaunchQueue) (k : Nat) :
    look (s.modQueue n f).hub.queues k {} = if n = k then f (look s.hub.queues n {}) else look s.hub.queues k {} :=
  look_change ..

end Sys2Proof.Machine
end

section
/-!
Bring-up (01 R19, R20, 26 R456 to R458): what taking elements in and out of service may change, that the repair records and the steps of Table 1.4
leave everything else as the reset set it, and that a step at which no compute die trains ends it.
-/
namespace Sys2Proof.Machine

/-! ### Elements -/

/-- What elements going in and out of service leave: the state without its parts, and where the module fault ring lies. -/
def outsideParts (s : State) : State × DWord :=
  ({ s with hub := {}, cores := [], dies := [], ports := [], links := [], damage := [], recalls := [] }, s.hub.modFring)

theorem outsideParts_of_slices {s t : State} (h : outsideSlices t = outsideSlices s) : outsideParts t = outsideParts s :=
  congrArg (fun x => outsideParts x.1) h

theorem service_of_outside {s t : State} (h : outsideSlices t = outsideSlices s) (n : Nat) :
    (t.die n).outOfService = (s.die n).outOfService := congrArg (fun x => x.2 n) h

theorem links_of_outside {s t : State} (h : outsideSlices t = outsideSlices s) : t.links = s.links := congrArg (fun x => x.1.links) h

/-- No module of a pontoon link is disabled. -/
def linksWhole (s : State) : Prop := ∀ k, (look s.links k {}).failed = 0

/-- Die d serves and every link is whole. -/
def dieUp (d : Nat) (s : State) : Prop := linksWhole s ∧ (s.die d).outOfService = false

theorem dieUp_of_outside {s t : State} {d : Nat} (h : outsideSlices t = outsideSlices s) (hs : dieUp d s) : dieUp d t :=
  ⟨fun k => by rw [links_of_outside h]; exact hs.1 k, by rw [service_of_outside h]; exact hs.2⟩

/-- Parts have changed, die d still serves and the links are whole. -/
def partsFrame (d : Nat) (s t : State) : Prop := outsideParts t = outsideParts s ∧ (dieUp d s → dieUp d t)

theorem partsFrame.refl (d : Nat) (s : State) : partsFrame d s s := ⟨rfl, id⟩

theorem partsFrame.trans {d : Nat} {s t u : State} (h : partsFrame d s t) (k : partsFrame d t u) : partsFrame d s u :=
  ⟨k.1.trans h.1, k.2 ∘ h.2⟩

theorem partsFrame_of_slices {d : Nat} {s t : State} (h : outsideSlices t = outsideSlices s) : partsFrame d s t :=
  ⟨outsideParts_of_slices h, dieUp_of_outside h⟩

/-- A change of another die, or one that leaves the die's service bit. -/
theorem modDie_parts (s : State) (d n : Nat) (f : Die → Die) (h : n = d → ∀ x, (f x).outOfService = x.outOfService) :
    partsFrame d s (s.modDie n f) := by
  refine ⟨rfl, fun hs => ⟨hs.1, ?_⟩⟩
  rw [modDie_die]
  split
  · next e => rw [h e, e]; exact hs.2
  · exact hs.2

theorem recount_parts (s : State) (d : Nat) : partsFrame d s (recount s) := ⟨rfl, id⟩

theorem emptySlice_outside (s : State) (n sl : Nat) : outsideSlices (emptySlice s n sl) = outsideSlices s :=
  (outsideSlices_foldl _ (fun _ _ => l2Evict_outside ..) _ _).trans (outsideSlices_foldl _ (fun _ _ => dropRemote_outside ..) _ _)

theorem setCoreOut_parts (s : State) (d c : Nat) (out : Bool) : partsFrame d s (setCoreOut s c out) := ⟨rfl, id⟩

theorem setSliceOut_parts (s : State) (d n sl : Nat) (out : Bool) : partsFrame d s (setSliceOut s n sl out) := by
  unfold setSliceOut
  split
  · exact .refl d s
  · refine .trans (partsFrame_of_slices (emptySlice_outside s n _)) (.trans (modDie_parts _ d n _ ?_) (recount_parts _ d))
    intro _ x; rfl

theorem retireWay_parts (s : State) (d n sl w : Nat) : partsFrame d s (retireWay s n sl w) := by
  unfold retireWay
  split
  · exact .refl d s
  · split
    · exact setSliceOut_parts ..
    · exact (partsFrame_of_slices (outsideSlices_foldl _ (fun _ _ => l2Evict_outside ..) _ _)).trans (modDie_parts _ d n _ fun _ _ => rfl)

theorem setChannelOut_parts (s : State) (d n c : Nat) (out : Bool) : partsFrame d s (setChannelOut s n c out) :=
  (modDie_parts s d n (fun x => { x with channelsOut := (if out then [c] else []) ++ x.channelsOut.filter (· ≠ c) }) fun _ _ => rfl).trans
    (recount_parts _ d)

theorem setPortOut_parts (s : State) (d p : Nat) (out : Bool) : partsFrame d s (setPortOut s p out) := ⟨rfl, id⟩

theorem retireGroup_parts (s : State) (d p g : Nat) : partsFrame d s (retireGroup s p g) := by
  unfold retireGroup
  dsimp only
  split <;> exact ⟨rfl, id⟩

/-- Another die goes out of service, or any die comes back. -/
theorem setDieOut_parts (s : State) (d n : Nat) (out : Bool) (h : out = true → n ≠ d) : partsFrame d s (setDieOut s n out) := by
  refine partsFrame.trans ?_ (recount_parts _ d)
  refine ⟨rfl, fun hs => ⟨hs.1, ?_⟩⟩
  rw [modDie_die]
  split
  · next e => cases out with
    | false => rfl
    | true => exact absurd e (h rfl)
  · exact hs.2

/-- A change of a link that leaves its modules enabled. -/
theorem changeLink_parts (s : State) (d k : Nat) (f : Link → Link) (h : ∀ l, l.failed = 0 → (f l).failed = 0) :
    partsFrame d s { s with links := change s.links k {} f } := by
  refine ⟨rfl, fun hs => ⟨fun j => ?_, hs.2⟩⟩
  show (look (change s.links k {} f) j {}).failed = 0
  rw [look_change]
  split
  · exact h _ (hs.1 k)
  · exact hs.1 j

theorem spareLane_parts (s : State) (d ident : Nat) : partsFrame d s (spareLane s ident) := changeLink_parts s d _ _ fun _ h => h

theorem spareElement_parts (s : State) (d kind ident : Nat) : partsFrame d s (spareElement s kind ident).1 := by
  unfold spareElement
  split
  · dsimp only
    split
    · exact modDie_parts s d _ _ fun _ _ => rfl
    · exact setCoreOut_parts ..
  · exact retireWay_parts ..
  · exact spareLane_parts ..
  · exact .refl d s

/-- An element goes out of service or returns; no link's module and not die d goes out. -/
theorem applyElement_parts (s : State) (d kind ident : Nat) (out : Bool) (h : out = true → kind ≠ 5 ∧ (kind = 10 → ident ≠ d)) :
    partsFrame d s (applyElement s kind ident out) := by
  unfold applyElement
  split
  · exact setCoreOut_parts ..
  · exact setSliceOut_parts ..
  · split
    · exact retireWay_parts ..
    · exact .refl d s
  · exact setChannelOut_parts ..
  · split
    · exact .refl d s
    · cases out with
      | true => exact absurd rfl (h rfl).1
      | false => exact changeLink_parts s d _ _ fun l hl => by simp [hl]
  · split
    · exact retireGroup_parts ..
    · exact .refl d s
  · exact setPortOut_parts ..
  · split
    · exact setDieOut_parts s d ident out fun e => (h e).2 rfl
    · exact .refl d s
  · exact .refl d s

/-! ### Repair records -/

/-- The records take neither a link's module nor die d out of service. -/
def recordsSpare (d : Nat) (l : List Repair) : Prop := ∀ r ∈ l, r.action = 2 → r.kind ≠ 5 ∧ (r.kind = 10 → r.ident.toNat ≠ d)

theorem applyRecord_parts (s : State) (d : Nat) (r : Repair) (h : r.action = 2 → r.kind ≠ 5 ∧ (r.kind = 10 → r.ident.toNat ≠ d)) :
    partsFrame d s (match r.action.toNat with
      | 2 => applyElement s r.kind.toNat r.ident.toNat true
      | 3 => applyElement s r.kind.toNat r.ident.toNat false
      | 1 => (spareElement s r.kind.toNat r.ident.toNat).1
      | _ => s) := by
  have nat {n : Nat} {b : Byte} (e : b.toNat = n) : b = BitVec.ofNat 8 n := by rw [← e]; simp
  split
  · next e =>
    obtain ⟨h5, h10⟩ := h (nat e)
    exact applyElement_parts s d _ _ true fun _ => ⟨fun k => h5 (nat k), fun k => h10 (nat k)⟩
  · exact applyElement_parts s d _ _ false (by simp)
  · exact spareElement_parts ..
  · exact .refl d s

theorem applyRepairs_parts (s : State) (d : Nat) (h : recordsSpare d s.repairs) : partsFrame d s (applyRepairs s) := by
  refine partsFrame.trans ?_ ⟨rfl, id⟩
  exact List.foldlRecOn (motive := partsFrame d s) _ _ (.refl d s) fun t ht r hr => ht.trans (applyRecord_parts t d r (h r hr))

/-! ### Routes -/

theorem routeOf_whole {s : State} (h : linksWhole s) (d : Nat) : routeOf s d = none := by
  have hw : linkWorks s d = true := by
    unfold linkWorks
    rw [List.any_eq_true]
    refine ⟨0, ?_, by rw [h d]; rfl⟩
    unfold linkModules
    simp only [List.mem_range]
    split
    · omega
    · split <;> omega
  simp [routeOf, hw]

/-- While every link is whole no die is cut off (R446). -/
theorem cutDies_outside {s : State} (h : linksWhole s) : outsideSlices (cutDies s) = outsideSlices s := by
  refine List.foldlRecOn (motive := fun t => outsideSlices t = outsideSlices s) _ _ rfl fun t ht d _ => ?_
  have hl : linksWhole t := fun k => by rw [links_of_outside ht]; exact h k
  rw [routeOf_whole hl]
  exact (outsideSlices_modDie t d (fun x => { x with route := none }) fun _ => rfl).trans ht

/-! ### Steps that pass -/

/-- What the steps of Table 1.4 leave: the state without the stage, the firmware, the operating points, Slalia and the parts. -/
def outsideBoot (s : State) : State :=
  { (outsideParts s).1 with stage := 0, fwver := 0, points := [], slalia := {} }

/-- A bring-up under way after the reset of `old`, with die d and the links in service: the steps counted so far have passed. -/
structure Booting (old : State) (d : Nat) (v : Half) (s : State) : Prop where
  rest : outsideBoot s = outsideBoot (afterReset old)
  ring : s.hub.modFring = (afterReset old).hub.modFring
  up : dieUp d s
  version : 1 ≤ s.stage → s.fwver = v
  nominal : 6 ≤ s.stage → s.points = allIslands .nominal

theorem afterReset_booting (old : State) (d : Nat) (v : Half) : Booting old d v (afterReset old) :=
  ⟨rfl, rfl, ⟨fun _ => rfl, rfl⟩, fun h => absurd h (Nat.not_succ_le_zero _), fun h => absurd h (Nat.not_succ_le_zero _)⟩

/-- A field that no step changes. -/
theorem Booting.field {old s : State} {d : Nat} {v : Half} {β : Type} (h : Booting old d v s) (f : State → β) :
    f (outsideBoot s) = f (outsideBoot (afterReset old)) := congrArg f h.rest

theorem Booting.repairs {old s : State} {d : Nat} {v : Half} (h : Booting old d v s) : s.repairs = old.repairs := h.field State.repairs

/-- A further step: what it changes lies outside `outsideBoot`. -/
theorem Booting.step {old s t : State} {d m : Nat} {v : Half} (h : Booting old d v s) (hs : s.stage = m) (hr : outsideBoot t = outsideBoot s)
    (hg : t.hub.modFring = s.hub.modFring) (hu : dieUp d t) (hv : t.fwver = v)
    (hp : 6 ≤ m + 1 → t.points = allIslands .nominal) : Booting old d v { t with stage := m + 1 } :=
  hs ▸ ⟨hr.trans h.rest, hg.trans h.ring, hu, fun _ => hv, hs ▸ hp⟩

theorem outsideBoot_of_parts {s t : State} (h : outsideParts t = outsideParts s) : outsideBoot t = outsideBoot s :=
  congrArg (fun x => { x.1 with stage := 0, fwver := 0, points := [], slalia := {} }) h

theorem ring_of_parts {s t : State} (h : outsideParts t = outsideParts s) : t.hub.modFring = s.hub.modFring := congrArg Prod.snd h

theorem fwver_of_parts {s t : State} (h : outsideParts t = outsideParts s) : t.fwver = s.fwver := congrArg (fun x => x.1.fwver) h

/-- While a die serves, bring-up goes on (R456). -/
theorem dies_remain {s : State} {d : Nat} (hd : d < 8) (hu : dieUp d s) : ((List.range 8).all fun n => (s.die n).outOfService) = false := by
  rw [List.all_eq_false]
  exact ⟨d, by simpa using hd, by simp [hu.2]⟩

/-- Step 2 with every die trained. -/
theorem bootStep_two (s : State) {f : Nat} (v : Half) (hf : f ≠ 2) : ∃ p, bootStep s 2 f v [] = { applyRepairs s with points := p } :=
  ⟨_, by simp only [bootStep, if_neg hf, partFaults, List.append_nil, List.filter_nil, List.foldl_nil]; rfl⟩

/-- Step 3 with every die and link trained. -/
theorem bootStep_three (s : State) {f : Nat} (v : Half) (hf : f ≠ 3) : bootStep s 3 f v [] = cutDies s := by
  simp only [bootStep, if_neg hf, partFaults, List.append_nil, List.filter_nil, List.foldl_nil]

/-- Step 4 with every die and channel trained. -/
theorem bootStep_four (s : State) {f : Nat} (v : Half) (hf : f ≠ 4) : bootStep s 4 f v [] = s := by
  simp only [bootStep, if_neg hf, partFaults, List.filter_nil, sortBy, List.foldl_nil, List.append_nil]

/-- Step 6 with every port and Slalia trained: the links are up, and the islands run nominally (R16). -/
theorem bootStep_six (s : State) {f : Nat} (v : Half) (hf : f ≠ 6) : ∃ p w q u,
    bootStep s 6 f v [] = { s with ports := p, slalia := w, points := q, hub := u } ∧ q = allIslands .nominal ∧ u.modFring = s.hub.modFring := by
  have hc : ¬ (decide (f = 6) || decide (slaliaWidth [] = 0)) = true := by simp [hf, show slaliaWidth [] = 8 by decide]
  simp only [bootStep, if_neg hc, partFaults, List.filter_nil, List.foldl_nil]
  generalize allIslands .nominal = q
  exact ⟨_, _, q, _, rfl, rfl, rfl⟩

/-- Step 6 as the one to fail. -/
theorem bootStep_six_fails (s : State) (v : Half) : ∃ p, bootStep s 6 6 v [] = { s with ports := p } := by
  have hc : (decide (6 = 6) || decide (slaliaWidth [] = 0)) = true := rfl
  simp only [bootStep, partFaults, List.filter_nil, List.foldl_nil]
  exact ⟨_, if_pos hc⟩

/-- A step that is not the one to fail, with every part trained: it passes. -/
theorem bootStep_passes {old s : State} {d f : Nat} {v : Half} (hd : d < 8) (hr : recordsSpare d old.repairs) (h : Booting old d v s)
    (hf : f ≠ s.stage + 1) :
    Booting old d v { bootStep s (s.stage + 1) f v [] with stage := s.stage + 1 } ∧
      stepFails (bootStep s (s.stage + 1) f v []) (s.stage + 1) f [] = false := by
  rw [← h.repairs] at hr
  have ver := h.version
  have nom := h.nominal
  match hs : s.stage, hf with
  | 0, hf =>
    have e : bootStep s 1 f v [] = { s with fwver := v } := if_neg hf
    rw [e]
    exact ⟨h.step hs rfl rfl h.up rfl (by omega), decide_eq_false hf⟩
  | 1, hf =>
    have hp := applyRepairs_parts s d hr
    have hb := outsideBoot_of_parts hp.1
    have hg := ring_of_parts hp.1
    obtain ⟨p, e⟩ := bootStep_two s v hf
    rw [e]
    exact ⟨h.step hs hb hg (hp.2 h.up) ((fwver_of_parts hp.1).trans (ver (by omega))) (by omega),
      dies_remain hd (hp.2 h.up)⟩
  | 2, hf =>
    have hp := partsFrame_of_slices (d := d) (cutDies_outside h.up.1)
    rw [bootStep_three s v hf]
    exact ⟨h.step hs (outsideBoot_of_parts hp.1) (ring_of_parts hp.1) (hp.2 h.up) ((fwver_of_parts hp.1).trans (ver (by omega))) (by omega),
      dies_remain hd (hp.2 h.up)⟩
  | 3, hf =>
    rw [bootStep_four s v hf]
    exact ⟨h.step hs rfl rfl h.up (ver (by omega)) (by omega), dies_remain hd h.up⟩
  | 4, hf =>
    exact ⟨h.step hs rfl rfl h.up (ver (by omega)) (by omega), decide_eq_false hf⟩
  | 5, hf =>
    obtain ⟨p, w, q, u, e, hq, hu⟩ := bootStep_six s v hf
    rw [e]
    exact ⟨h.step hs rfl hu h.up (ver (by omega)) fun _ => hq, by simp [stepFails, hf, show slaliaWidth [] = 8 by decide]⟩
  | n + 6, hf =>
    exact ⟨h.step hs rfl rfl h.up (ver (by omega)) fun _ => nom (by omega), decide_eq_false hf⟩

/-- The next `n` steps pass while none of them is the one to fail. -/
theorem bringUp_passes {old : State} {d f : Nat} {v : Half} (hd : d < 8) (hr : recordsSpare d old.repairs) (r : List Nat) :
    ∀ n s, Booting old d v s → (∀ j, s.stage < j → j ≤ s.stage + n → f ≠ j) →
      ∃ t, Booting old d v t ∧ t.stage = s.stage + n ∧ bringUp f v [] (List.range' (s.stage + 1) n ++ r) s = bringUp f v [] r t
  | 0, s, h, _ => ⟨s, h, rfl, rfl⟩
  | n + 1, s, h, hf => by
    obtain ⟨hb, hs⟩ := bootStep_passes hd hr h (hf _ (by omega) (by omega))
    obtain ⟨t, ht, hst, e⟩ := bringUp_passes hd hr r n _ hb fun j h1 h2 => hf j (Nat.lt_of_succ_lt h1) (by simp only at h2; omega)
    refine ⟨t, ht, by simp only at hst; omega, ?_⟩
    rw [List.range'_succ, List.cons_append, bringUp]
    simp only [hs, Bool.false_eq_true, if_false]
    exact e

/-! ### A step that fails -/

/-- No ring to write entries to. -/
def noRing (s : State) : Prop := bits s.hub.modFring.toNat 47 12 = 0

/-- A record is added: beside the records only the hub's bits change, where no ring stands. -/
theorem addRepair_noRing {s : State} (h : noRing s) (kind action ident left : Nat) :
    ∃ l u, addRepair s kind action ident left = { s with repairs := l, hub := u } ∧ u.modFring = s.hub.modFring :=
  ⟨_, _, modRing_of_no_ring _ _ h, rfl⟩

/-- A compute die does not train (R456). -/
def dieFault (s : State) (n : Nat) : State := addRepair (applyElement s 10 n true) 10 2 n 0

/-- Dies that do not train are out of service, and nothing but parts and records has changed. -/
theorem diesFault_spec (l : List Nat) (hl : ∀ n ∈ l, n < 8) : ∀ s, noRing s → let t := l.foldl dieFault s
    noRing t ∧ t.mem = s.mem ∧ t.stage = s.stage ∧ t.links = s.links ∧
      ∀ n, n ∈ l ∨ (s.die n).outOfService = true → (t.die n).outOfService = true := by
  induction l with
  | nil => exact fun s h => ⟨h, rfl, rfl, rfl, fun n hn => by simpa using hn⟩
  | cons d r ih =>
    intro s h
    have ho : applyElement s 10 d true = setDieOut s d true := if_pos (hl d List.mem_cons_self)
    obtain ⟨l, u, e, hu⟩ := addRepair_noRing (s := setDieOut s d true) h 10 2 d 0
    have hx : dieFault s d = { setDieOut s d true with repairs := l, hub := u } := by rw [dieFault, ho]; exact e
    have hn : noRing (dieFault s d) := by rw [hx]; unfold noRing; dsimp only; rw [hu]; exact h
    obtain ⟨h1, h2, h3, h4, h5⟩ := ih (fun n hn => hl n (List.mem_cons_of_mem d hn)) (dieFault s d) hn
    rw [List.foldl_cons]
    refine ⟨h1, h2.trans (by rw [hx]; rfl), h3.trans (by rw [hx]; rfl), h4.trans (by rw [hx]; rfl), fun n hn => h5 n ?_⟩
    have hd : (dieFault s d).die n = if d = n then { s.die d with outOfService := true } else s.die n := by
      rw [hx]; exact modDie_die s d n fun x => { x with outOfService := true }
    rw [hd]
    rcases hn with hn | hn
    · rcases List.mem_cons.1 hn with rfl | hn
      · right; rw [if_pos rfl]
      · exact .inl hn
    · right; split
      · rfl
      · exact hn

/-- That every compute die fails to train takes the eight dies out, each with its record. -/
theorem partFaults_dies (s : State) (kinds : List Nat) (h : kinds.contains 10 = true) :
    partFaults s kinds ((List.range 8).map fun n => (10, n)) = (List.range 8).foldl dieFault s := by
  unfold partFaults
  rw [List.filter_eq_self.2 fun x hx => by obtain ⟨n, -, rfl⟩ := List.mem_map.1 hx; exact h, List.foldl_map]
  exact congrArg (fun f => List.foldl f s (List.range 8)) (funext fun t => funext fun n => if_neg (show ¬ (10 : Nat) = 6 by decide))

/-- The step that is to fail does, before any ring stands and with no byte of memory written. -/
theorem bootStep_fails {old s : State} {d : Nat} {v : Half} (hr : recordsSpare d old.repairs) (h : Booting old d v s) (hk : s.stage < 6) :
    let t := bootStep s (s.stage + 1) (s.stage + 1) v []
    stepFails t (s.stage + 1) (s.stage + 1) [] = true ∧ noRing t ∧ t.mem = [] ∧ t.stage = s.stage := by
  rw [← h.repairs] at hr
  have ring {t : State} (e : t.hub.modFring = s.hub.modFring) : noRing t := by
    unfold noRing; rw [e, h.ring]; show bits (6 : DWord).toNat 47 12 = 0; decide
  have mem : s.mem = [] := h.field State.mem
  have out {u : State} (hu : noRing u) (hm : u.mem = []) (hs : u.stage = s.stage) :
      let t := (List.range 8).foldl dieFault u
      ((List.range 8).all fun n => (t.die n).outOfService) = true ∧ noRing t ∧ t.mem = [] ∧ t.stage = s.stage ∧ t.links = u.links := by
    obtain ⟨h1, h2, h3, h4, h5⟩ := diesFault_spec (List.range 8) (fun _ => List.mem_range.1) u hu
    exact ⟨List.all_eq_true.2 fun n hn => h5 n (.inl hn), h1, h2.trans hm, h3.trans hs, h4⟩
  match hs : s.stage, hk with
  | 0, _ => exact ⟨rfl, ring rfl, mem, hs⟩
  | 1, _ =>
    have hp := applyRepairs_parts s d hr
    obtain ⟨h1, h2, h3, h4, -⟩ := out (u := applyRepairs s) (ring (ring_of_parts hp.1)) ((congrArg (fun x => x.1.mem) hp.1).trans mem)
      (congrArg (fun x => x.1.stage) hp.1)
    obtain ⟨p, e⟩ : ∃ p, bootStep s 2 2 v [] = { (List.range 8).foldl dieFault (applyRepairs s) with points := p } := by
      rw [← partFaults_dies _ [1, 2, 3, 10, 11] (by decide)]; exact ⟨_, rfl⟩
    dsimp only
    rw [e]
    exact ⟨h1, h2, h3, h4.trans hs⟩
  | 2, _ =>
    obtain ⟨h1, h2, h3, h4, h5⟩ := out (ring rfl) mem rfl
    have e : bootStep s 3 3 v [] = cutDies ((List.range 8).foldl dieFault s) := by
      rw [← partFaults_dies _ [5, 6, 10] (by decide)]; rfl
    have hc := cutDies_outside (s := (List.range 8).foldl dieFault s) fun k => by rw [h5]; exact h.up.1 k
    dsimp only
    rw [e]
    refine ⟨List.all_eq_true.2 fun n hn => ?_, ?_, (mem_of_outside hc).trans h3, (congrArg (fun x => x.1.stage) hc).trans (h4.trans hs)⟩
    · rw [service_of_outside hc]; exact List.all_eq_true.1 h1 n hn
    · unfold noRing; rw [ring_of_parts (outsideParts_of_slices hc)]; exact h2
  | 3, _ =>
    obtain ⟨h1, h2, h3, h4, -⟩ := out (ring rfl) mem rfl
    have e : bootStep s 4 4 v [] = (List.range 8).foldl dieFault s := by
      rw [← partFaults_dies _ [4, 10] (by decide)]; rfl
    dsimp only
    rw [e]
    exact ⟨h1, h2, h3, h4.trans hs⟩
  | 4, _ => exact ⟨rfl, ring rfl, mem, hs⟩
  | 5, _ =>
    obtain ⟨p, e⟩ := bootStep_six_fails s v
    dsimp only
    rw [e]
    exact ⟨rfl, ring rfl, mem, hs⟩

/-! ### Both outcomes -/

/-- Every step passes: the module is Ready (R19). -/
theorem moduleReset_ready {s : State} {d : Nat} (v : Half) (hd : d < 8) (hr : recordsSpare d s.repairs) :
    Booting s d v (moduleReset s 0 v []) ∧ (moduleReset s 0 v []).stage = 7 := by
  obtain ⟨t, ht, hst, e⟩ := bringUp_passes hd hr [] 7 _ (afterReset_booting s d v) (f := 0) (fun j h1 _ => by omega)
  have : moduleReset s 0 v [] = t := e
  rw [this]
  exact ⟨ht, hst⟩

/-- Step k fails: bring-up stops there (R456). -/
theorem moduleReset_fails {s : State} {d k : Nat} (v : Half) (hd : d < 8) (hr : recordsSpare d s.repairs) (h1 : 1 ≤ k) (h6 : k ≤ 6) :
    (moduleReset s k v []).stage = k - 1 ∧ (moduleReset s k v []).bootFail = true ∧ (moduleReset s k v []).mem = [] := by
  obtain ⟨j, rfl⟩ : ∃ j, k = j + 1 := ⟨k - 1, by omega⟩
  have split : [1, 2, 3, 4, 5, 6, 7] = List.range' ((afterReset s).stage + 1) j ++ (j + 1) :: List.range' (j + 2) (6 - j) := by
    show List.range' 1 7 = List.range' 1 j ++ (j + 1) :: List.range' (j + 2) (6 - j)
    rw [show (j + 1) :: List.range' (j + 2) (6 - j) = List.range' (1 + j) (6 - j + 1) by rw [List.range'_succ, Nat.add_comm 1 j],
      List.range'_append_1, show j + (6 - j + 1) = 7 by omega]
  obtain ⟨t, ht, hst, e⟩ := bringUp_passes hd hr ((j + 1) :: List.range' (j + 2) (6 - j)) j _ (afterReset_booting s d v) (f := j + 1)
    (fun i _ h2 => by have : (afterReset s).stage = 0 := rfl; omega)
  have hj : j = t.stage := by rw [hst]; exact (Nat.zero_add j).symm
  obtain ⟨hf, hn, hm, hs⟩ := bootStep_fails hr ht (by omega)
  obtain ⟨l, u, ha, -⟩ := addRepair_noRing (s := { bootStep t (t.stage + 1) (t.stage + 1) v [] with bootFail := true }) hn 12 4 (t.stage + 1) 0
  have : moduleReset s (j + 1) v [] = { bootStep t (t.stage + 1) (t.stage + 1) v [] with bootFail := true, repairs := l, hub := u } := by
    unfold moduleReset
    rw [split, e, bringUp, hj, hf]
    exact ha
  rw [this]
  exact ⟨hs.trans hj.symm, rfl, hm⟩

/-- A map of one value for each of its keys. -/
theorem look_map_const {β : Type} (x d : β) {k : Nat} : ∀ {l : List Nat}, k ∈ l → look (l.map fun k => (k, x)) k d = x
  | j :: r, h => by
    rw [List.map_cons, look]
    split
    · rfl
    · next e => exact look_map_const x d ((List.mem_cons.1 h).resolve_left (Ne.symm e))

/-- A nominal island of no thermal level runs nominally (R16, Table 26.3). -/
theorem Booting.islandPoint {old s : State} {d : Nat} {v : Half} (h : Booting old d v s) (h6 : 6 ≤ s.stage) (k : Nat) (hk : k < 1024) :
    islandPoint s k = .nominal := by
  have hl : s.levels = [] := h.field State.levels
  have ha : s.adm.throttled = false := h.field fun x => x.adm.throttled
  have hp : look s.points k .gated = .nominal := by
    rw [h.nominal h6]; exact look_map_const _ _ (List.mem_range.2 hk)
  simp [Machine.islandPoint, islandLevel, hp, hl, ha, look]

end Sys2Proof.Machine
end

section
/-!
What the host does to the module (17 R347, R348, R365, 24 R411, 26 R447, R452): one lemma per operation and case, and obligation O52 from them.
-/
namespace Sys2Proof.Machine

/-! ### The operations -/

theorem exec_registerWrite (pa n : Nat) (v : DWord) (h : Bool) (s : State) :
    exec (.registerWrite pa n v h) s = .next (registerWrite s pa n v h) := rfl

theorem exec_lqheadWrite (q : BitVec 8) (v : Word) (s : State) :
    exec (.lqheadWrite q v) s = .next (if s.slalia.lost then s else hubSet s (64 * q.toNat + 0x10) 4 v.toNat) := rfl

theorem exec_debugResume (asid : BitVec 12) (name : DWord) (s : State) : exec (.debugResume asid name) s = .next (resumeGroup s asid name) := rfl

theorem exec_hostBar2Read (off n : Nat) (s : State) : exec (.hostBar2Read off n) s = .next (bar2Read s off n) := rfl

theorem exec_hostBar2Write (off n : Nat) (v : DWord) (s : State) : exec (.hostBar2Write off n v) s = .next (bar2Write s off n v) := rfl

theorem exec_moduleReset (f : Nat) (l : List (Nat × Nat)) (v : Half) (s : State) :
    exec (.moduleReset (f, l) v) s = .next (moduleReset s f v l) := rfl

/-! ### Hub registers -/

/-- A register that BAR0 maps is written by privileged contexts, and by the host while Slalia works. -/
theorem registerWrite_mapped (s : State) (o n : Nat) (v : DWord) (h : Bool) (hm : bar0Mapped o = true) (hs : s.slalia.lost = false ∨ h = false) :
    registerWrite s (hubBase + o) n v h = hubSet s o n v.toNat := by
  unfold registerWrite
  rw [show hubBase + o - hubBase = o by omega, if_neg]
  rcases hs with hs | hs <;> simp [hs, hm]

/-- The host's writes elsewhere, and every one after the loss of Slalia, are ignored (R347, R452). -/
theorem registerWrite_host_ignored (s : State) (pa n : Nat) (v : DWord)
    (h : bar0Mapped (pa - hubBase) = false ∨ pa < hubBase ∨ s.slalia.lost = true) : registerWrite s pa n v true = s := by
  unfold registerWrite
  rw [if_pos]
  rcases h with h | h | h <;> simp [h]

theorem aperBase_written (s : State) (v : DWord) :
    (hubSet s 0xF008 8 v.toNat).hub.aperBase = v &&& 0x0000FFFE00000000 ∧ (hubSet s 0xF008 8 v.toNat).mem = s.mem := by
  rw [hubSet_word s _ v (by decide), hubSetReg_aperBase]
  exact ⟨mergeBits_allOnes .., rfl⟩

theorem bar0Mapped_fabRt {m : Nat} (hm : m < 256) : bar0Mapped (0x20000 + 8 * m) = true := by
  simp only [bar0Mapped, Bool.or_eq_true, Bool.and_eq_true, decide_eq_true_eq]
  omega

theorem fabRt_written (s : State) (v : DWord) {m : Nat} (hm : m < 256) (n : Nat) :
    look (hubSet s (0x20000 + 8 * m) 8 v.toNat).hub.fabRt n 0 = if m = n then v &&& 0xFFFFFF else look s.hub.fabRt n 0 := by
  rw [hubSet_word s _ v (by omega), hubSetReg_fabRt s m _ _ hm, mergeBits_allOnes]
  exact look_put ..

theorem lqHead_set (s : State) (q : BitVec 8) (v : Word) (k : Nat) :
    look (hubSet s (64 * q.toNat + 0x10) 4 v.toNat).hub.queues k {} =
      if q.toNat = k then { look s.hub.queues q.toNat {} with head := v } else look s.hub.queues k {} := by
  rw [hubSet_aligned s _ 4 _ (by omega) (by omega) (by omega), hubSetReg_lqHead s _ _ _ (by have := q.isLt; omega), modQueue_queues, lqHead_written]

/-- What a host read of BAR0 is answered: nothing after the loss of Slalia, before Ready only MOD_BOOTSTAT (R19, R347, R456). -/
theorem bar0Read_answer (s : State) (off n : Nat) :
    let v : Option Nat := if s.stage ≠ 7 ∧ off / 8 ≠ 0xF000 / 8 ∨ s.stage = 7 ∧ s.slalia.lost = true then none
      else some (if bar0Mapped off then hubGet s off n else 0)
    bar0Read s off n = { s with hostReplies := s.hostReplies ++ [{ bar := 0, addr := off, size := n, value := v }] } := by
  unfold bar0Read
  generalize (if bar0Mapped off then hubGet s off n else 0) = x
  by_cases h7 : s.stage = 7
  · cases s.slalia.lost <;> simp [h7]
  · by_cases ho : off / 8 = 0xF000 / 8 <;> simp [h7, ho]

/-! ### RESUME -/

/-- RESUME of the name of the executing group while it is stopped (R365): it goes on at once. -/
theorem resumeGroup_stopped (s : State) (name : DWord) (c : Nat) (hw : s.grp.wait = .stopped c) (hl : s.grp.live ≠ 0)
    (hn : s.name.extractLsb' 0 60 = name.extractLsb' 0 60) :
    (resumeGroup s s.team.asid name).grp = { s.grp with
      wait := .ready, passBreak := (topEntry s.grp.frontier).map (fun e => e.pc), stepping := true, age := 0, urgent := none } := by
  unfold State.name at hn
  show (if decide (s.team.asid = s.team.asid) && decide (s.grp.live ≠ 0) &&
    decide ((nameOf s.team.tidx s.team.launchId s.grp.gidx).extractLsb' 0 60 = name.extractLsb' 0 60) then _ else _) = _
  rw [if_pos (by simp only [hl, hn, ne_eq, not_false_eq_true, decide_true, Bool.and_self]), hw]

/-! ### BAR2 -/

theorem bar2Read_lost (s : State) (off n : Nat) (hs : s.slalia.lost = true) : bar2Read s off n = bar2Answer s off n none := if_pos hs

theorem bar2Write_lost (s : State) (off n : Nat) (v : DWord) (hs : s.slalia.lost = true) : bar2Write s off n v = s := if_pos hs

theorem bar2Read_unbacked (s : State) (off n : Nat) (hs : s.slalia.lost = false) (hb : backed (bar2Pa s off) = false) :
    (bar2Read s off n).hostReplies = s.hostReplies ++ [{ addr := off, size := n, value := none }] := by
  unfold bar2Read
  simp only [hs, hb, Bool.false_eq_true, if_false, Bool.not_false, if_true]
  show (bar2Entry s _ 1).hostReplies ++ _ = _
  rw [bar2Entry, modRing_hostReplies]

theorem bar2Read_waits (s : State) (off n : Nat) (hs : s.slalia.lost = false) (hb : backed (bar2Pa s off) = true)
    (hd : (s.die (homeOf (bar2Pa s off / 128))).inReset = true) : bar2Read s off n = { s with outside := s.outside ++
      [{ bar2 := some off, pa := bar2Pa s off, size := n, kind := 0, v := 0, since := s.clock }] } := by
  simp [bar2Read, dieWaits, holdOutside, hs, hb, hd]

theorem bar2Write_waits (s : State) (off n : Nat) (v : DWord) (hs : s.slalia.lost = false) (hb : backed (bar2Pa s off) = true)
    (hd : (s.die (homeOf (bar2Pa s off / 128))).inReset = true) : bar2Write s off n v = { s with outside := s.outside ++
      [{ bar2 := some off, pa := bar2Pa s off, size := n, kind := 1, v := v.toNat, since := s.clock }] } := by
  simp [bar2Write, dieWaits, holdOutside, hs, hb, hd]

theorem bar2Write_unbacked (s : State) (off n : Nat) (v : DWord) (hs : s.slalia.lost = false) (hb : backed (bar2Pa s off) = false) :
    bar2Write s off n v = modRing s { source := 7, faddr := BitVec.ofNat 64 (bar2Pa s off), fcode := 2 } := by
  simp [bar2Write, bar2Entry, hs, hb]

/-- A line that can be reached waits for no die. -/
theorem dieWaits_of_reachable {s : State} {pa : Nat} (h : reachable s pa = true) : dieWaits s pa = false :=
  (Bool.not_eq_true' _).mp (Bool.and_eq_true_iff.mp h).1

theorem bar2Read_performed (s : State) (off n : Nat) (hs : s.slalia.lost = false) (hb : backed (bar2Pa s off) = true)
    (hr : reachable s (bar2Pa s off) = true) (hl : isLost s (bar2Pa s off) = false) :
    (bar2Read s off n).mem = s.mem ∧ (bar2Read s off n).hostReplies = s.hostReplies ++
      [{ addr := off, size := n, value := some (memRead s.mem (bar2Pa s off) n) }] := by
  have e : bar2Read s off n = bar2Answer (hubRead s (bar2Pa s off) n).1 off n (some (memRead s.mem (bar2Pa s off) n)) := by
    simp [bar2Read, bar2ReadAt, dieWaits_of_reachable hr, hs, hb, hr, hl, hubRead]
  have ho := hubRead_outside s (bar2Pa s off) n {}
  rw [e]
  exact ⟨(mem_of_outside ho : (hubRead s _ n).1.mem = _), by rw [← hostReplies_of_outside ho]; rfl⟩

theorem bar2Write_performed (s : State) (off n : Nat) (v : DWord) (hs : s.slalia.lost = false) (hb : backed (bar2Pa s off) = true)
    (hr : reachable s (bar2Pa s off) = true) (hn : (bar2Pa s off) % 128 + n ≤ 128) :
    (bar2Write s off n v).mem = memWrite s.mem (bar2Pa s off) n v.toNat := by
  have e : bar2Write s off n v = patchLine (hubWrite s (bar2Pa s off) n v.toNat) (bar2Pa s off) n := by
    simp [bar2Write, bar2WriteAt, dieWaits_of_reachable hr, hs, hb, hr]
  rw [e, patchLine_mem, hubWrite_mem s _ _ hn]

/-! ### The obligation -/

open Sys2Proof.Stated

/-- Settles O52, operation by operation: register writes come to one merge of a register's held bits, BAR2 accesses to reads and writes at their
homes that leave all but the caches, and module reset to the steps of Table 1.4, none of which touches what the reset has set. -/
theorem hostOperations : Obligations.HostOperations := by
  refine ⟨?aperBase, ?fabRt, ?ignored, ?lost, bar0Read_answer, ?lqHead, ?resume, ?bar2Read, ?bar2Write, ?ready, ?fails⟩
  case aperBase =>
    intro s v h hs
    refine ⟨_, exec_registerWrite .., ?_⟩
    rw [registerWrite_mapped s 0xF008 8 v h (by decide) hs]
    exact aperBase_written s v
  case fabRt =>
    intro s v h hs m hm
    refine ⟨_, exec_registerWrite .., ?_⟩
    rw [Nat.add_assoc, registerWrite_mapped s (0x20000 + 8 * m) 8 v h (bar0Mapped_fabRt hm) hs]
    exact ⟨by rw [fabRt_written s v hm, if_pos rfl], fun n hn => by rw [fabRt_written s v hm, if_neg (Ne.symm hn)]⟩
  case ignored =>
    intro s pa n v h
    rw [exec_registerWrite, registerWrite_host_ignored s pa n v h]
  case lost =>
    intro s off n v q x hs
    rw [exec_hostBar2Write, exec_lqheadWrite, exec_hostBar2Read, if_pos hs, bar2Write_lost s off n v hs, bar2Read_lost s off n hs]
    exact ⟨rfl, rfl, rfl⟩
  case lqHead =>
    intro s q v hs
    refine ⟨_, exec_lqheadWrite .., ?_⟩
    rw [if_neg (by rw [hs]; exact Bool.false_ne_true)]
    exact ⟨by rw [lqHead_set, if_pos rfl], fun k hk => by rw [lqHead_set, if_neg (Ne.symm hk)]⟩
  case resume =>
    rintro s _ name c hw hl rfl hn
    refine ⟨_, exec_debugResume .., ?_⟩
    rw [helmKept, resumeGroup_stopped s name c hw hl hn]
    exact ⟨rfl, rfl, rfl, rfl, fun _ => rfl, fun _ => rfl, rfl, rfl, rfl⟩
  case bar2Read =>
    intro s off n pa hs
    refine ⟨fun hb hr hl => ⟨_, exec_hostBar2Read .., bar2Read_performed s off n hs hb hr hl⟩,
      fun hb => ⟨_, exec_hostBar2Read .., bar2Read_unbacked s off n hs hb⟩, fun hb hd => ?_⟩
    exact (exec_hostBar2Read ..).trans (congrArg _ (bar2Read_waits s off n hs hb hd))
  case bar2Write =>
    intro s off n v pa hs
    refine ⟨fun hb hr hn => ⟨_, exec_hostBar2Write .., fun a => congrArg (memByte · a) (bar2Write_performed s off n v hs hb hr hn)⟩, fun hb => ?_, fun hb hd => ?_⟩
    · exact (exec_hostBar2Write ..).trans (congrArg _ (bar2Write_unbacked s off n v hs hb))
    · exact (exec_hostBar2Write ..).trans (congrArg _ (bar2Write_waits s off n v hs hb hd))
  case ready =>
    intro s v d hd hr
    obtain ⟨h, h7⟩ := moduleReset_ready v hd hr
    exact ⟨_, exec_moduleReset .., h7, h.islandPoint (by omega), h.field State.bootFail, h.version (by omega), h.field State.clock,
      h.field State.boots, h.field State.teams, h.field State.launches, h.field State.commands, h.field fun x => x.grp.live, h.field State.mem,
      h.field State.hostMem, h.repairs⟩
  case fails => exact fun s v k d hd hr h1 h6 => ⟨_, exec_moduleReset .., moduleReset_fails v hd hr h1 h6⟩

end Sys2Proof.Machine
end

section
/-!
The moves of the agenda (notes/assumptions/1.md): what a step comes to for each kind of move, and obligation O43 from it.
-/
namespace Sys2Proof.Machine

/-! ### Operations of the table -/

/-- An operation that names no part of the module, or a word, is no event of the module. -/
theorem eventMove_of_no_event {i : Instr} (s : State) (h : i.wf = false ∨ i.isWord = true) : eventMove i s = .next s := by
  rcases h with h | h <;> simp [eventMove, h]

/-- In a Ready module an operation is its meaning, but for a lane fetch. -/
theorem eventMove_ready {i : Instr} {s : State} (hw : i.wf = true) (hn : i.isWord = false) (h7 : s.stage = 7) (hf : i ≠ .helmLaneFetch) :
    eventMove i s = exec i s := by
  unfold eventMove
  rw [hw, hn, if_neg (by decide), if_pos h7]
  split
  · exact absurd rfl hf
  · rfl

/-- A lane fetch is that of the group the helm serves (R43). -/
theorem eventMove_helmLaneFetch {s : State} (h7 : s.stage = 7) :
    eventMove .helmLaneFetch s = if helmFirst s then exec .helmLaneFetch s else .next s := if_pos h7

/-- Before Ready nothing but a module reset has an effect (R19, R20). -/
theorem eventMove_before_ready {i : Instr} {s : State} (hw : i.wf = true) (hn : i.isWord = false) (h7 : s.stage ≠ 7)
    (hr : ∀ f v, i ≠ .moduleReset f v) : eventMove i s = .next s := by
  unfold eventMove
  rw [hw, hn, if_neg (by decide), if_neg h7]
  split
  · next f v => exact absurd rfl (hr f v)
  · rfl

/-- A module reset has its effect at every stage of bring-up. -/
theorem eventMove_moduleReset {f : Nat × List (Nat × Nat)} {v : Half} (s : State) (hw : (Instr.moduleReset f v).wf = true) :
    eventMove (.moduleReset f v) s = exec (.moduleReset f v) s := by
  have hn : (Instr.moduleReset f v).isWord = false := rfl
  by_cases h7 : s.stage = 7
  · exact eventMove_ready hw hn h7 nofun
  · unfold eventMove
    rw [hw, hn, if_neg (by decide), if_neg h7]

/-! ### Operating points -/

/-- A command of the harbourmaster for one island changes the operating point of no other (R16). -/
theorem look_setIsland_points (s : State) {k : Nat} (hk : k < 1024) (p : OpPoint) (n : Nat) :
    look (setIsland s k p).points n .gated = if n = k then p else look s.points n .gated := by
  rw [setIsland, if_pos hk, look_put]
  by_cases h : n = k
  · rw [if_pos h, if_pos h.symm]
  · rw [if_neg h, if_neg (Ne.symm h)]

theorem setIsland_mem (s : State) (k : Nat) (p : OpPoint) : (setIsland s k p).mem = s.mem := by
  unfold setIsland; split <;> rfl

theorem setIsland_grp (s : State) (k : Nat) (p : OpPoint) : (setIsland s k p).grp = s.grp := by
  unfold setIsland; split <;> rfl

/-! ### The obligation -/

/-- Where moves stand in the agenda, the step makes the first of them. -/
theorem step_of_agenda {s : State} {a : Move} {m : List Move} (h : s.agenda = a :: m) : step s = runMove a { s with agenda := m } := by
  rw [step, nextMove, h]

/-- Settles O43, move by move: the step makes the first move of the agenda, and for an operation of the table the stage of bring-up and the
operation's well-formedness say what that move is. -/
theorem stepRunsOperation : Obligations.StepRunsOperation := by
  refine ⟨?ready, ?laneFetch, ?reset, ?beforeReady, ?noEvent, ?turn, ?bar0Read, ?island⟩
  case ready => exact fun s m i h hw hn h7 hf => (step_of_agenda h).trans (eventMove_ready hw hn h7 hf)
  case laneFetch => exact fun s m h h7 => (step_of_agenda h).trans (eventMove_helmLaneFetch h7)
  case reset => exact fun s m f v h hw => (step_of_agenda h).trans (eventMove_moduleReset _ hw)
  case beforeReady => exact fun s m i h hw hn h7 hr => (step_of_agenda h).trans (eventMove_before_ready hw hn h7 hr)
  case noEvent => exact fun s m i h hi => (step_of_agenda h).trans (eventMove_of_no_event _ hi)
  case turn => exact fun s m u g h => step_of_agenda h
  case bar0Read => exact fun s m off n h => step_of_agenda h
  case island =>
    intro s m k p h hk
    exact ⟨_, step_of_agenda h, setIsland_mem .., setIsland_grp .., look_setIsland_points _ hk p⟩

end Sys2Proof.Machine
end

section
/-!
`spawn` (02 R36 to R38, 11 R218): the registers a child is given, what a register write at once leaves of the other groups of the team, and
obligation O30 from them.
-/
namespace Sys2Proof.Machine
open Sys2Proof.Stated

/-! ### The child -/

theorem setV_vreg (g : Group) (r l : Nat) (x : Word) (k j : Nat) (hl : l < 32) (hj : j < 32) :
    (g.setV r l x).vreg k j = if k = r ∧ j = l then x else g.vreg k j := by
  unfold Group.vreg Group.setV
  rw [look_put]
  by_cases h : 32 * r + l = 32 * k + j
  · rw [if_pos h, if_pos (by omega)]
  · rw [if_neg h, if_neg (by omega)]

/-- Writes of one register in several lanes. -/
theorem foldl_setV_vreg (r : Nat) (f : Nat → Word) (k j : Nat) (hj : j < 32) (ls : List Nat) (hls : ∀ l ∈ ls, l < 32) (c : Group) :
    (ls.foldl (fun c l => c.setV r l (f l)) c).vreg k j = if k = r ∧ j ∈ ls then f j else c.vreg k j := by
  induction ls generalizing c with
  | nil => simp
  | cons l ls ih =>
    rw [List.foldl_cons, ih fun x hx => hls x (List.mem_cons_of_mem _ hx), setV_vreg _ _ _ _ _ _ (hls l List.mem_cons_self) hj]
    by_cases hk : k = r <;> by_cases hl : j = l <;> simp [hk, hl]

/-- Writes of the registers below `n` in several lanes. -/
theorem foldl_setV_block (f : Nat → Nat → Word) (k j : Nat) (hj : j < 32) (ls : List Nat) (hls : ∀ l ∈ ls, l < 32) (c : Group) (n : Nat) :
    ((List.range n).foldl (fun c r => ls.foldl (fun c l => c.setV r l (f r l)) c) c).vreg k j =
      if k < n ∧ j ∈ ls then f k j else c.vreg k j := by
  induction n with
  | zero => simp
  | succ n ih =>
    rw [List.range_succ, List.foldl_append, List.foldl_cons, List.foldl_nil, foldl_setV_vreg n (f n) k j hj ls hls, ih]
    by_cases hk : k = n
    · subst hk; simp
    · simp only [hk, false_and, if_false, show k < n + 1 ↔ k < n by omega]

/-- The child's first eight registers are the block that the word names (R218). -/
theorem childOf_vreg (g : Group) (m : Word) (n : Nat) (t : DWord) (idx q slot clk : Nat) {r l : Nat} (hr : r < 8) (hl : l < 32)
    (hm : m.getLsbD l = true) : (childOf g m n t idx q slot clk).vreg r l = g.vreg (n + r) l := by
  have hls : ∀ l ∈ lanesOf m, l < 32 := fun l h => ((mem_lanesOf m l).1 h).1
  rw [childOf, foldl_setV_block (fun r l => g.vreg (n + r) l) r l hl _ hls, if_pos ⟨hr, (mem_lanesOf m l).2 ⟨hl, hm⟩⟩]

/-- A child before it is given registers (R36). -/
def newChild (g : Group) (m : Word) (t : DWord) (idx q slot clk : Nat) : Group :=
  { gidx := idx, role := .general, nregs := g.nregs, quad := q, gslot := slot, live := m, age := 0,
    frontier := [{ pc := t, prio := 0, mask := m }], stall := [emptyFrame t], helmClk := clk }

/-- The copy of the block changes nothing but lane registers. -/
theorem childOf_eq (g : Group) (m : Word) (n : Nat) (t : DWord) (idx q slot clk : Nat) :
    childOf g m n t idx q slot clk = { newChild g m t idx q slot clk with v := (childOf g m n t idx q slot clk).v } :=
  List.foldlRecOn (motive := fun c : Group => c = { newChild g m t idx q slot clk with v := c.v }) (List.range 8)
    (fun c r => (lanesOf m).foldl (fun c l => c.setV r l (g.vreg (n + r) l)) c) rfl fun _ hc r _ =>
      List.foldlRecOn (motive := fun c : Group => c = { newChild g m t idx q slot clk with v := c.v }) _ _ hc fun c hc l _ =>
        congrArg (fun x : Group => { x with v := (c.setV r l (g.vreg (n + r) l)).v }) hc

/-! ### Register writes at once -/

/-- With nothing older outstanding a register write is made in the clock of the word (R48). -/
theorem uniformWrite_of_quiet {s : State} (sw : List (Nat × Word)) (cw : List (Nat × Bool)) (hq : quiet s = true) :
    uniformWrite s sw cw = advance (s.modGrp fun g => g.retireRegs sw cw) := by
  unfold uniformWrite commitOr
  rw [if_pos hq]

/-- The other groups of the team see one clock pass. -/
theorem advanceTo_groups (s : State) (pc : DWord) (close : Bool) :
    ∃ u, (advanceTo s pc close).team.groups = s.team.groups.map (tickGroup u 1 s.team) := by
  unfold advanceTo
  split <;> exact ⟨_, rfl⟩

theorem uniformWrite_groups {s : State} (sw : List (Nat × Word)) (cw : List (Nat × Bool)) (hq : quiet s = true) :
    ∃ u, (uniformWrite s sw cw).team.groups = s.team.groups.map (tickGroup u 1 s.team) := by
  rw [uniformWrite_of_quiet sw cw hq]
  exact advanceTo_groups ..

/-- A word that has written s registers and no c register. -/
theorem resultWrote_of_uniformWrote {s t : State} {sw : List (Nat × Word)} (h : uniformWrote s t (s.cur.pc + 4) sw) :
    resultWrote s t sw ∧ memoriesKept s t := by
  obtain ⟨hs, hc, hf, hn, -, hm, -, hg, -⟩ := h
  refine ⟨⟨hs, fun n => ?_, ?_, ?_, ?_, hf, hn⟩, hm⟩
  · rw [hc n]
    split
    · next h7 => rw [h7]; rfl
    · rfl
  · rw [hg]
  · rw [hg]
  · rw [hg]

/-- A ready word that writes one s register. -/
theorem uniformWrite_one {s : State} {rs : List Nat} (d : Nat) (x : Word) (h : uniformReady rs s) :
    resultWrote s (uniformWrite s [(d, x)] []) [(d, x)] ∧ memoriesKept s (uniformWrite s [(d, x)] []) :=
  resultWrote_of_uniformWrote (uniformWrite_wrote s rs [(d, x)] [] h (by simp) nofun nofun)

/-! ### The word -/

/-- The team with one group more. -/
def withGroup (s : State) (c : Group) : State :=
  { s with team := { s.team with groups := insertBy (fun g : Group => g.gidx) c s.team.groups } }

/-- A register write of a state with a new group is one of the state without it; the group sees one clock pass. -/
theorem uniformWrite_withGroup {s : State} {rs : List Nat} (c : Group) (d : Nat) (x : Word) (h : uniformReady rs s) (hq : quiet s = true) :
    let t := uniformWrite (withGroup s c) [(d, x)] []
    resultWrote s t [(d, x)] ∧ memoriesKept s t ∧ ∃ u v, tickGroup u 1 v c ∈ t.team.groups := by
  obtain ⟨hr, hm⟩ := uniformWrite_one (s := withGroup s c) d x h
  obtain ⟨u, hu⟩ := uniformWrite_groups (s := withGroup s c) [(d, x)] [] hq
  exact ⟨hr, hm, u, _, hu ▸ List.mem_map_of_mem ((mem_insertBy ..).2 (.inl rfl))⟩

section
variable {s : State} {a n : BitVec 6} (k : BitVec 1) (d : BitVec 6)

/-- REGISTER outside the limits (R218). -/
theorem exec_spawn_limits (hr : uniformReady [a.toNat, a.toNat + 1] s) (hn : 56 < n.toNat ∨ s.grp.nregs < n.toNat + 8) :
    exec (.spawn k d a n) s = .next (helmFault s 0x02) := by
  show execSpawn k d a n s = _
  unfold execSpawn
  dsimp only
  rw [uniform_ready s _ _ hr, if_pos (by simpa using hn)]
  rfl

variable (hr : uniformReady [a.toNat, a.toNat + 1] s) (hq : quiet s = true) (hp : s.grp.pend = []) (hh : s.grp.held = [])
  (hn : n.toNat ≤ 56) (h8 : n.toNat + 8 ≤ s.grp.nregs)
include hr hq hp hh hn h8

/-- With a place free the child joins the team, and its index is written. -/
theorem exec_spawn_placed {idx q slot : Nat} (hi : leastFree ((s.groupsOf s.team.uid).map fun g => g.gidx) = some idx)
    (hc : childPlace s = some (q, slot)) :
    exec (.spawn k d a n) s = .next (uniformWrite (withGroup s (childOf s.grp s.cur.mask n.toNat (srPair s a) idx q slot s.clock))
      [(d.toNat, BitVec.ofNat 32 idx)] []) := by
  show execSpawn k d a n s = _
  unfold execSpawn
  dsimp only
  rw [uniform_ready s _ _ hr, if_neg (by simp; omega), if_neg (by simp [hq, hp, landTo_nil, hh]), hi, hc, landTo_nil _ _ hp]
  rfl

/-- With none free nothing is created, and all ones are written. -/
theorem exec_spawn_full (hf : leastFree ((s.groupsOf s.team.uid).map fun g => g.gidx) = none ∨ childPlace s = none) :
    exec (.spawn k d a n) s = .next (uniformWrite s [(d.toNat, 0xFFFFFFFF)] []) := by
  show execSpawn k d a n s = _
  unfold execSpawn
  dsimp only
  rw [uniform_ready s _ _ hr, if_neg (by simp; omega), if_neg (by simp [hq, hp, landTo_nil, hh])]
  split
  · next hi hc => rcases hf with hf | hf <;> simp_all
  · rfl

end

/-! ### The obligation -/

/-- Settles O30: the word comes to one register write, of a state with the child in it where a place is free; of the child the clock of the word
changes no field that R36 gives it. -/
theorem spawn : Obligations.Spawn := by
  refine ⟨?placed, ?full, fun k d a n s => exec_spawn_limits k d⟩
  case placed =>
    intro k d a n s idx q slot hr hq hp hh hn h8 hi hc
    obtain ⟨hw, hm, u, v, hmem⟩ := uniformWrite_withGroup (childOf s.grp s.cur.mask n.toNat (srPair s a) idx q slot s.clock)
      d.toNat (BitVec.ofNat 32 idx) hr hq
    refine ⟨_, exec_spawn_placed k d hr hq hp hh hn h8 hi hc, hw, hm, _, hmem, ?_⟩
    rw [tickGroup_eq]
    have hv (r : Nat) (h8 : r < 8) (l : Nat) (hl : l < 32) (hm : s.cur.mask.getLsbD l = true) :=
      childOf_vreg s.grp s.cur.mask n.toNat (srPair s a) idx q slot s.clock h8 hl hm
    rw [childOf_eq] at hv ⊢
    exact ⟨rfl, rfl, rfl, rfl, rfl, rfl, hv⟩
  case full =>
    intro k d a n s hr hq hp hh hn h8 hf
    exact ⟨_, exec_spawn_full k d hr hq hp hh hn h8 hf, uniformWrite_one d.toNat _ hr⟩

end Sys2Proof.Machine
end

section
/-!
What the checks of an access may change (05 R93, R94, 24 R399): device memory with its caches, the TLBs, the counts of requests at islands and
slices, and the free values drawn.
-/
namespace Sys2Proof.Machine

/-- What no check of an access touches. -/
def outsideTranslation (s : State) : State :=
  { s with mem := [], cores := [], dies := [], damage := [], recalls := [], codeLog := [], served := [], injected := [], granted := [],
           engWts := 0, free := 0 }

theorem outsideTranslation_of_slices {s t : State} (h : outsideSlices t = outsideSlices s) : outsideTranslation t = outsideTranslation s :=
  congrArg (fun x => outsideTranslation x.1) h

theorem outsideTranslation_foldl {β : Type} (f : State → β → State) (h : ∀ s x, outsideTranslation (f s x) = outsideTranslation s) (l : List β)
    (s : State) : outsideTranslation (l.foldl f s) = outsideTranslation s :=
  List.foldlRecOn (motive := fun t => outsideTranslation t = outsideTranslation s) l f rfl fun t ht x _ => (h t x).trans ht

/-! ### Requests -/

theorem requestSlice_translation (s : State) (r : SliceReq) : outsideTranslation (requestSlice s r) = outsideTranslation s := by
  have hsend : outsideTranslation (noteSend s r.src) = outsideTranslation s := by
    unfold noteSend; split <;> rfl
  unfold requestSlice
  split
  · rfl
  · dsimp only
    split <;> exact hsend

theorem countServed_translation (s : State) (k : Nat) (asid : BitVec 12) : outsideTranslation (countServed s k asid) = outsideTranslation s := rfl

theorem countRequest_translation (s : State) (core : Option Nat) (n line : Nat) (own : Bool) (asid : BitVec 12) :
    outsideTranslation (countRequest s core n line own asid) = outsideTranslation s := by
  unfold countRequest
  extract_lets home island crossbar r slice remote
  have hc : outsideTranslation crossbar = outsideTranslation s := by
    cases core <;> rfl
  have hs (t : State) : outsideTranslation (slice t) = outsideTranslation t := requestSlice_translation ..
  clear_value slice crossbar
  split
  · exact (hs _).trans hc
  · split
    · exact hc
    · rw [hs, countServed_translation]; exact hc

/-- The reads of a page-table walk. -/
theorem walkReach_translation (s : State) (die : Nat) (asid : BitVec 12) (va : DWord) :
    outsideTranslation (walkReach s die asid va) = outsideTranslation s :=
  outsideTranslation_foldl _ (fun _ _ => (outsideTranslation_of_slices (reachRead_outside ..)).trans (countRequest_translation ..)) _ _

/-! ### Accessed and dirty bits -/

theorem pointWrite_translation (s : State) (die pa n v : Nat) (c : Caching) (who : Option Nat) :
    outsideTranslation (pointWrite s die pa n v c who) = outsideTranslation s := by
  have hcode (s : State) : outsideTranslation (noteCode s who false pa n) = outsideTranslation s := by
    unfold noteCode; split <;> rfl
  exact (hcode _).trans (outsideTranslation_of_slices ((setStamps_outside ..).trans (reachWrite_outside ..)))

theorem flushEntry_translation (s : State) (e : TlbEntry) : outsideTranslation (flushEntry s e) = outsideTranslation s := by
  unfold flushEntry flushBits
  split
  · exact outsideTranslation_foldl _ (fun _ _ => pointWrite_translation ..) _ _
  · rfl

theorem renewEntry_translation (s : State) (l : List TlbEntry) (e : TlbEntry) :
    outsideTranslation (renewEntry s l e).1 = outsideTranslation s := by
  unfold renewEntry
  split
  · split
    · rfl
    · exact flushEntry_translation ..
  · rfl

theorem leaveTlb_translation (s : State) (d : Nat) (x : TlbEntry) : outsideTranslation (leaveTlb s d x) = outsideTranslation s := by
  unfold leaveTlb
  split
  · rfl
  · split
    · rfl
    · split
      · rfl
      · exact flushEntry_translation ..

/-! ### TLBs -/

theorem dieTlbPut_translation (s : State) (d : Nat) (e : TlbEntry) : outsideTranslation (dieTlbPut s d e) = outsideTranslation s := by
  have hr := renewEntry_translation s (s.die d).tlb e
  unfold dieTlbPut
  generalize renewEntry s (s.die d).tlb e = p at hr
  obtain ⟨u, e'⟩ := p
  dsimp only at hr ⊢
  split
  · exact hr
  · split
    · exact hr
    · split
      · exact (leaveTlb_translation ..).trans hr
      · exact hr

theorem coreTlbPut_translation (s : State) (c : Nat) (e : TlbEntry) : outsideTranslation (coreTlbPut s c e) = outsideTranslation s := by
  have hr := renewEntry_translation s (s.core c).tlb e
  unfold coreTlbPut
  generalize renewEntry s (s.core c).tlb e = p at hr
  obtain ⟨u, e'⟩ := p
  dsimp only at hr ⊢
  split
  · exact hr
  · split
    · exact (leaveTlb_translation ..).trans hr
    · exact hr

theorem tlbPut_translation (s : State) (u : Unit') (e : TlbEntry) : outsideTranslation (tlbPut s u e) = outsideTranslation s := by
  cases u with
  | core c => exact coreTlbPut_translation ..
  | die d => exact dieTlbPut_translation ..

/-! ### The checks -/

theorem translate_translation (s : State) (u : Unit') (asid : BitVec 12) (priv : Bool) (launch : Nat) (va : DWord) (a : Access) :
    outsideTranslation (translate s u asid priv launch va a).1 = outsideTranslation s := by
  unfold translate
  dsimp only
  split
  · split
    · split <;> rfl
    · rfl
  · split
    · exact tlbPut_translation ..
    · split
      · rfl
      · have hw := walkReach_translation s u.dieNo asid va
        generalize walkReach s u.dieNo asid va = t at hw
        split
        · exact hw
        · exact hw
        · split
          · cases u with
            | core c => dsimp only; rw [coreTlbPut_translation, dieTlbPut_translation, hw]
            | die d => dsimp only; rw [dieTlbPut_translation, hw]
          · exact hw
          · exact hw
          · exact hw

/-- The checks of R399. -/
theorem checkAccess_translation (s : State) (u : Unit') (asid : BitVec 12) (priv : Bool) (launch : Nat) (va : DWord) (n : Nat) (a : Access) :
    outsideTranslation (checkAccess s u asid priv launch va n a).1 = outsideTranslation s := by
  unfold checkAccess
  split
  · rfl
  · split
    · rfl
    · exact translate_translation ..

/-- An access that is answered has a canonical and aligned address. -/
theorem checkAccess_ok {s v : State} {u : Unit'} {asid : BitVec 12} {priv : Bool} {launch : Nat} {va : DWord} {n : Nat} {a : Access} {t : Target}
    {leaf : DWord} {l : Nat} (h : checkAccess s u asid priv launch va n a = (v, .ok t leaf l)) : canonical va = true ∧ va.toNat % n = 0 := by
  unfold checkAccess at h
  split at h
  · cases h
  · next hc =>
    split at h
    · cases h
    · next hn => exact ⟨by simpa using hc, by simpa using hn⟩

end Sys2Proof.Machine
end

section
/-!
The helm's service of a group (03 R43, R50, 06 R121, 23 R394): what it makes of the word a fetch brings, what a step of the helm comes to, and
obligation O41 from them.
-/
namespace Sys2Proof.Machine
open Sys2Proof.Stated

/-! ### The fetch -/

/-- The team is the same after the checks of a fetch. -/
theorem team_of_checkAccess {s v : State} {u : Unit'} {asid : BitVec 12} {priv : Bool} {launch : Nat} {va : DWord} {n : Nat} {a : Access} {r : XRes}
    (h : checkAccess s u asid priv launch va n a = (v, r)) : v.team = s.team := by
  have ht := checkAccess_translation s u asid priv launch va n a
  rw [h] at ht
  exact (congrArg State.team ht :)

@[simp] theorem noteStep_team (s : State) : (noteStep s).team = s.team := by
  unfold noteStep; split <;> rfl

/-- A read of a line that its home serves goes through. -/
theorem verdict_device {v : State} (a : Access) (n : Nat) {pa l : Nat} {leaf : DWord} (hd : (v.die (homeOf (pa / 128))).inReset = false)
    (hl : isLost v pa = false) (hk : linkHeld v (dieOf v.team.core) v.team.core (.device pa) (a = .write || a = .atomic) = false) :
    verdict v a n (.ok (.device pa) leaf l) = .ok (.device pa) (cachingOf leaf l) := by
  have hv : lineVerdict v a n (.ok (.device pa) leaf l) = .ok (.device pa) (cachingOf leaf l) := by
    simp [lineVerdict, hd, hl]
  simp [verdict, hv, hk]

/-- The bytes a launch's fetch finds in device memory. -/
theorem codeWord_device (s : State) (pa : Nat) : codeWord s (.device pa) = BitVec.ofNat 32 (memRead (launchCode s) pa 4) := by
  unfold codeWord launchCode
  cases s.launch s.team.seqNo <;> rfl

/-- A wait that is over changes nothing that a fetch reads. -/
theorem launchCode_unheld (s : State) : launchCode (unheld s) = launchCode s := by
  unfold unheld; split <;> rfl

/-- A fetch of device memory that passes its checks brings the word (R83, R121). -/
theorem fetchWord_device {s v : State} {c : Cur} {pa l : Nat} {leaf : DWord} {w : Word}
    (hc : checkAccess s (.core s.team.core) s.team.asid s.team.priv s.team.seqNo c.pc 4 .fetch = (v, .ok (.device pa) leaf l))
    (hd : (v.die (homeOf (pa / 128))).inReset = false) (hl : isLost v pa = false)
    (hk : linkHeld v (dieOf s.team.core) s.team.core (.device pa) false = false) (hw : memRead (launchCode v) pa 4 = w.toNat) :
    fetchWord s c = .word (fetchLine (unheld v) pa (cachingOf leaf l)) w := by
  obtain ⟨hcan, hal⟩ := checkAccess_ok hc
  rw [← team_of_checkAccess hc] at hk
  have hcode : codeWord (unheld v) (.device pa) = w := by
    rw [codeWord_device, launchCode_unheld, hw, BitVec.ofNat_toNat, BitVec.setWidth_eq]
  unfold fetchWord
  rw [if_neg (by simp [hal, hcan]), hc]
  dsimp only
  rw [verdict_device .fetch 4 hd hl hk, ← hcode]
  rfl

/-! ### The word that was fetched -/

/-- What the helm makes of the word at which a state stands. -/
def serveWord (x : State) : Served :=
  match decodeWord x.cur.word with
  | none => .ended ((wholeFault { x with grp := x.grp.closeRun x.clock } 0x01).tick 1)
  | some i => if x.cur.word.getLsbD 31 then .uniform x i else queueLane x x.cur i

/-- The helm serves the word that the fetch brings. -/
theorem helmServe_of_fetches {s u : State} {e : FEntry} {w : Word} (h : fetches s e u w) : helmServe s = serveWord (atWord s u e w) := by
  obtain ⟨-, -, he, hs, hb, v, pa, leaf, l, hc, hd, hl, hk, hw, rfl⟩ := h
  have hf (c : Cur) (hp : c.pc = e.pc) : fetchWord (noteStep s) c = .word (fetchLine (unheld v) pa (cachingOf leaf l)) w :=
    fetchWord_device (by rw [noteStep_team, hp, hc]) hd hl (by rw [noteStep_team, hk]) hw
  unfold helmServe
  rw [he]
  dsimp only
  rw [hs, hb, if_neg Bool.false_ne_true]
  dsimp only
  rw [hf _ rfl]
  rfl

theorem serveWord_unassigned {x : State} (h : decodeWord x.cur.word = none) :
    serveWord x = .ended ((wholeFault { x with grp := x.grp.closeRun x.clock } 0x01).tick 1) := by
  unfold serveWord; rw [h]

theorem serveWord_uniform {x : State} {i : Instr} (h : decodeWord x.cur.word = some i) (hu : x.cur.word.getLsbD 31 = true) :
    serveWord x = .uniform x i := by
  unfold serveWord; rw [h, hu]; rfl

theorem serveWord_lane {x : State} {i : Instr} (h : decodeWord x.cur.word = some i) (hu : x.cur.word.getLsbD 31 = false) :
    serveWord x = queueLane x x.cur i := by
  unfold serveWord; rw [h, hu]; rfl

/-- A lane word of the allocation enters a queue that has room (R43, R50). -/
theorem queueLane_queued {s u : State} {e : FEntry} {w : Word} {i : Instr} (hr : (laneInfo i).inAllocation u.grp.nregs = true)
    (hl : u.grp.fwd.length < 16) : queueLane (atWord s u e w) (curOf s e w) i = .lane (queuedAt s u e w i) i := by
  show (if (!(laneInfo i).inAllocation u.grp.nregs) = true then _ else if 16 ≤ u.grp.fwd.length then _ else _) = _
  rw [if_neg (by simp [hr]), if_neg (by omega)]
  rfl

/-- The word's record does not depend on the moves to come. -/
theorem queuedAt_agenda (s u : State) (m : List Move) (e : FEntry) (w : Word) (i : Instr) :
    queuedAt { s with agenda := m } u e w i = queuedAt s u e w i := rfl

/-! ### The helm's move -/

theorem helmWord_uniform {s x : State} {i : Instr} (hr : helmReady s = true) (h : helmServe s = .uniform x i) : helmWord s = exec i x := by
  unfold helmWord; rw [if_pos hr, h]

theorem helmWord_ended {s x : State} (hr : helmReady s = true) (h : helmServe s = .ended x) : helmWord s = .next x := by
  unfold helmWord; rw [if_pos hr, h]

/-- A lane word that the pipe does not take, or that older entries stand before, has cost the helm its clock. -/
theorem helmWord_queued {s q : State} {i : Instr} (hr : helmReady s = true) (h : helmServe s = .lane q i)
    (hp : pipeServe q = none ∨ q.grp.fwd.length ≠ 1) : helmWord s = .next (q.tick 1) := by
  unfold helmWord
  rw [if_pos hr, h]
  dsimp only
  split
  · next hx => rw [if_neg (hp.resolve_left (by rw [hx]; nofun))]
  · rfl

/-- A lane word alone in the queue issues at once where the pipe takes it. -/
theorem helmWord_issued {s q x : State} {i j : Instr} (hr : helmReady s = true) (h : helmServe s = .lane q i) (hp : pipeServe q = some (x, j))
    (h1 : q.grp.fwd.length = 1) : helmWord s = laneMove j x := by
  unfold helmWord
  rw [if_pos hr, h]
  dsimp only
  rw [hp]
  exact if_pos h1

/-- A lane word that issues ages the other groups of its quadrant (R343). -/
theorem laneMove_next {i : Instr} {s t : State} (h : exec i s = .next t) :
    laneMove i s = .next (ageOthers t (t.clock - 1) s.team.core s.grp.quad s.team.uid s.grp.gidx
      (look (s.core s.team.core).pipes s.grp.quad {}).urgent) := by
  unfold laneMove; rw [h]

/-- A step of the helm for the group it serves is the service of its word, with the helm's record. -/
theorem step_helm {s t : State} {m : List Move} (h : s.agenda = .helm :: m) (h7 : s.stage = 7) (hf : helmFirst { s with agenda := m } = true)
    (hb : ((spawnBefore { s with agenda := m } s.team.core s.grp.quad).isNone || !atSpawn { s with agenda := m }) = true)
    (ht : helmWord { s with agenda := m } = .next t) : step s = .next (noteServed { s with agenda := m } t) := by
  rw [step_of_agenda h]
  show (if s.stage = 7 then helmMove { s with agenda := m } else _) = _
  rw [if_pos h7, helmMove, if_pos (Bool.and_eq_true_iff.2 ⟨hf, hb⟩), helmStep, ht]

/-- A step of the helm for another group, or where a `spawn` of a lower quadrant comes first (R38), does nothing. -/
theorem step_helm_elsewhere {s : State} {m : List Move} (h : s.agenda = .helm :: m)
    (hn : helmFirst { s with agenda := m } = false ∨
      ((spawnBefore { s with agenda := m } s.team.core s.grp.quad).isSome = true ∧ atSpawn { s with agenda := m } = true)) :
    step s = .next { s with agenda := m } := by
  rw [step_of_agenda h]
  show (if s.stage = 7 then helmMove { s with agenda := m } else _) = _
  split
  · rw [helmMove, if_neg]
    rcases hn with hf | ⟨hb, ha⟩
    · simp [hf]
    · simp [ha, Option.isSome_iff_ne_none.1 hb]
  · rfl

/-! ### The obligation -/

/-- Settles O41, by what the helm makes of the word that the fetch brings: a uniform word executes, a lane word enters the queue and issues where
the pipe takes it, an unassigned word faults. When the helm's record follows and when a lane word issues are the model's own choices
(notes/assumptions/27.md, 73.md). -/
theorem stepRunsFetchedWord : Obligations.StepRunsFetchedWord := by
  intro s m e u w h a hw hf hb
  have hserve := helmServe_of_fetches hw
  obtain ⟨h7, hr, -⟩ := hw
  refine ⟨?uniform, ?lane, ?unassigned, fun _ _ hr hn => step_helm_elsewhere hr hn⟩
  case uniform =>
    intro i t hi hu ht
    exact step_helm h h7 hf hb ((helmWord_uniform hr (hserve.trans (serveWord_uniform hi hu))).trans ht)
  case lane =>
    intro i hi hu hreg hroom q
    have hq : helmServe a = .lane q i := by
      rw [hserve, serveWord_lane (x := atWord a u e w) hi hu, ← show queuedAt a u e w i = q from queuedAt_agenda ..]
      exact queueLane_queued hreg hroom
    have hlen : q.grp.fwd.length = u.grp.fwd.length + 1 := List.length_append
    refine ⟨fun hp => ?_, fun x j t h0 hp ht => ?_⟩
    · have hp' : pipeServe q = none ∨ q.grp.fwd.length ≠ 1 := hp.imp_right fun h0 => by
        have := List.length_pos_iff.2 h0
        omega
      exact step_helm h h7 hf hb (helmWord_queued hr hq hp')
    · have h1 : q.grp.fwd.length = 1 := by rw [hlen, h0]; rfl
      exact step_helm h h7 hf hb ((helmWord_issued hr hq hp h1).trans (laneMove_next ht))
  case unassigned =>
    intro hi
    exact step_helm h h7 hf hb (helmWord_ended hr (hserve.trans (serveWord_unassigned hi)))

end Sys2Proof.Machine
end

section
/-!
Rounding of numbers that a format holds, and invalid operations (04 R65, R68, R69).
-/
namespace Sys2Proof.Machine
open Sys2Proof.Stated

/-! ### Powers of two -/

theorem pow2_eq (e : Int) : pow2 e = (2 ^ e.toNat, 2 ^ (-e).toNat) := by
  unfold pow2
  split
  · rw [Int.toNat_of_nonpos (by omega : -e ≤ 0), Nat.pow_zero]
  · rw [Int.toNat_of_nonpos (by omega : e ≤ 0), Nat.pow_zero]

theorem pow2_pos (e : Int) : 0 < (pow2 e).1 ∧ 0 < (pow2 e).2 := by
  rw [pow2_eq]
  exact ⟨Nat.two_pow_pos _, Nat.two_pow_pos _⟩

/-- A significand times a power of two has the significand's logarithm, moved by the exponent. -/
theorem floorLog2_mul_pow2 {m : Nat} (hm : m ≠ 0) (e : Int) :
    floorLog2 (m * (pow2 e).1) (pow2 e).2 = Nat.log2 m + e := by
  have hlog : Nat.log2 (m * 2 ^ e.toNat) = Nat.log2 m + e.toNat := by
    have hlo := Nat.mul_le_mul_right (2 ^ e.toNat) (Nat.log2_self_le hm)
    have hhi := Nat.mul_lt_mul_of_pos_right (Nat.lt_log2_self (n := m)) (Nat.two_pow_pos e.toNat)
    rw [← Nat.pow_add] at hlo hhi
    rw [Nat.add_right_comm] at hhi
    exact (Nat.log2_eq_iff (Nat.mul_ne_zero hm (Nat.ne_of_gt (Nat.two_pow_pos _)))).2 ⟨hlo, hhi⟩
  have hexp : ((Nat.log2 m + e.toNat : Nat) : Int) - (-e).toNat = Nat.log2 m + e := by omega
  have hle : 2 ^ (-e).toNat * 2 ^ (Nat.log2 m + e : Int).toNat ≤ m * 2 ^ e.toNat * 2 ^ (-(Nat.log2 m + e : Int)).toNat := by
    calc 2 ^ (-e).toNat * 2 ^ (Nat.log2 m + e : Int).toNat
        = 2 ^ Nat.log2 m * 2 ^ e.toNat * 2 ^ (-(Nat.log2 m + e : Int)).toNat := by
          simp only [← Nat.pow_add]; congr 1; omega
      _ ≤ _ := Nat.mul_le_mul_right _ (Nat.mul_le_mul_right _ (Nat.log2_self_le hm))
  simp only [floorLog2, pow2_eq, hlog, Nat.log2_two_pow, hexp, if_neg (Nat.not_lt.2 hle)]

/-! ### Exact rounding -/

/-- A quotient without a remainder is kept in every mode. -/
theorem roundNat_mul_self (mode : Mode) (neg : Bool) (q : Nat) {d : Nat} (hd : 0 < d) :
    roundNat mode neg (q * d) d = q := by
  have hr : q * d % d = 0 := Nat.mul_mod_left q d
  have hne : 0 ≠ d := Nat.ne_of_lt hd
  cases mode <;> simp [roundNat, Nat.mul_div_cancel q hd, hr, hne]

/-- The exponent of a format's least subnormal (R65). -/
def Fmt.least (f : Fmt) : Int := 1 - (f.bias : Int) - f.m

/-- `m · 2^e` is a significand and an exponent as R65 decodes them: normal, or with the least exponent. -/
def Fmt.Scaled (f : Fmt) (m : Nat) (e : Int) : Prop :=
  m < 2 ^ (f.m + 1) ∧ f.least ≤ e ∧ (m < 2 ^ f.m → e = f.least)

/-- The magnitude code of `m · 2^e`: a normal significand's leading one carries into the exponent field. -/
def Fmt.codeOf (f : Fmt) (m : Nat) (e : Int) : Nat := (e - f.least).toNat * 2 ^ f.m + m

/-- The sign bit of an encoding. -/
def Fmt.signBit (f : Fmt) (neg : Bool) : Nat := if neg then 2 ^ (f.e + f.m) else 0

theorem Fmt.round_zero (f : Fmt) (mode : Mode) (neg : Bool) (den : Nat) : f.round mode neg 0 den = f.signBit neg := rfl

/-- The exponent that `round` picks for a scaled number is the number's own. -/
theorem Fmt.Scaled.exponent {f : Fmt} {m : Nat} {e : Int} (h : f.Scaled m e) (hm : m ≠ 0) :
    max (1 - (f.bias : Int)) (Nat.log2 m + e) = e + f.m := by
  obtain ⟨hlt, hle, hsub⟩ := h
  unfold Fmt.least at hle hsub
  rcases Nat.lt_or_ge m (2 ^ f.m) with hs | hn
  · have := (Nat.log2_lt hm).2 hs
    have := hsub hs
    omega
  · have : Nat.log2 m = f.m := (Nat.log2_eq_iff hm).2 ⟨hn, hlt⟩
    omega

/-- R69: a scaled number within the format's range is its own rounding. -/
theorem Fmt.round_scaled {f : Fmt} {m : Nat} {e : Int} (h : f.Scaled m e) (hmax : f.codeOf m e ≤ f.maxCode) (mode : Mode) (neg : Bool) :
    f.round mode neg (m * (pow2 e).1) (pow2 e).2 = f.signBit neg + f.codeOf m e := by
  obtain ⟨hp1, hp2⟩ := pow2_pos e
  by_cases hm : m = 0
  · have he : e = f.least := h.2.2 (hm ▸ Nat.two_pow_pos f.m)
    simp [hm, Fmt.round_zero, Fmt.codeOf, he]
  · have hnum : m * (pow2 e).1 ≠ 0 := Nat.mul_ne_zero hm (Nat.ne_of_gt hp1)
    have hn : roundNat mode neg (m * (pow2 e).1 * (pow2 e).2) ((pow2 e).2 * (pow2 e).1) = m := by
      rw [Nat.mul_comm (pow2 e).2, Nat.mul_assoc, roundNat_mul_self mode neg m (Nat.mul_pos hp1 hp2)]
    have hcode : (e + f.m - (1 - (f.bias : Int))).toNat * 2 ^ f.m + m = f.codeOf m e := by
      unfold Fmt.codeOf Fmt.least; congr 3; omega
    simp only [Fmt.round, if_neg hnum, floorLog2_mul_pow2 hm, h.exponent hm, Int.add_sub_cancel, hn, hcode, if_pos hmax]
    rfl

theorem Fmt.roundD_dyadicOf (f : Fmt) (mode : Mode) (neg : Bool) (m : Nat) (e : Int) :
    f.roundD mode (dyadicOf neg m e) neg = f.round mode neg (m * (pow2 e).1) (pow2 e).2 := by
  by_cases hm : m = 0
  · simp [hm, Fmt.roundD, dyadicOf, Fmt.round_zero]
  · have hpos : 0 < m := Nat.pos_of_ne_zero hm
    have hnn : ¬ (m : Int) < 0 := by omega
    cases neg <;> simp [Fmt.roundD, dyadicOf, hm, hpos, hnn]

/-! ### Decoded numbers -/

/-- What R65 makes of an encoding whose value is finite. -/
theorem Fmt.decode_eq_fin {f : Fmt} {x : Nat} {n : Bool} {m : Nat} {e : Int} (h : f.decode x = .fin n m e) :
    let ex := x / 2 ^ f.m % 2 ^ f.e
    let fr := x % 2 ^ f.m
    n = x.testBit (f.e + f.m) ∧ ¬ (ex = 2 ^ f.e - 1 ∧ (f.sat → fr = 7)) ∧
      ((ex = 0 ∧ m = fr ∧ e = f.least) ∨ (0 < ex ∧ m = 2 ^ f.m + fr ∧ e = f.least + (ex - 1 : Nat))) := by
  intro ex fr
  simp only [Fmt.decode] at h
  split at h
  · split at h <;> cases h
  · next htop =>
    have htop : ¬ (ex = 2 ^ f.e - 1 ∧ (f.sat → fr = 7)) := by
      refine fun ⟨hex, hfr⟩ => htop ?_
      rw [Bool.and_eq_true, decide_eq_true_eq, Bool.or_eq_true, Bool.not_eq_true', decide_eq_true_eq]
      exact ⟨hex, (Bool.eq_false_or_eq_true f.sat).symm.imp_right hfr⟩
    split at h
    · next h0 =>
      cases h
      exact ⟨rfl, htop, .inl ⟨h0, rfl, rfl⟩⟩
    · next h0 =>
      cases h
      have hpos : 0 < ex := Nat.pos_of_ne_zero h0
      refine ⟨rfl, htop, .inr ⟨hpos, rfl, ?_⟩⟩
      unfold Fmt.least; omega

/-- The magnitude code of an encoding is its exponent field above its fraction field. -/
theorem Fmt.magnitude_eq (f : Fmt) (x : Nat) :
    x % 2 ^ (f.e + f.m) = (x / 2 ^ f.m % 2 ^ f.e) * 2 ^ f.m + x % 2 ^ f.m := by
  rw [Nat.add_comm f.e, Nat.pow_add, Nat.mod_mul, Nat.add_comm, Nat.mul_comm]

theorem Fmt.decode_scaled {f : Fmt} {x : Nat} {n : Bool} {m : Nat} {e : Int} (h : f.decode x = .fin n m e) :
    f.Scaled m e ∧ f.codeOf m e = x % 2 ^ (f.e + f.m) := by
  have hfr : x % 2 ^ f.m < 2 ^ f.m := Nat.mod_lt _ (Nat.two_pow_pos _)
  rw [Fmt.magnitude_eq]
  obtain ⟨-, -, ⟨hex, rfl, rfl⟩ | ⟨hex, rfl, rfl⟩⟩ := Fmt.decode_eq_fin h
  · exact ⟨⟨by omega, Int.le_refl _, fun _ => rfl⟩, by simp [Fmt.codeOf, hex]⟩
  · refine ⟨⟨by omega, by omega, by omega⟩, ?_⟩
    obtain ⟨k, hk⟩ := Nat.exists_eq_succ_of_ne_zero (Nat.ne_of_gt hex)
    have hback : (f.least + (k : Int) - f.least).toNat = k := by omega
    simp only [hk, Fmt.codeOf, Nat.succ_sub_one, hback, Nat.succ_mul, Nat.add_assoc]

/-- Table 4.2: no finite value is beyond the largest one; `hsat` says that e4m3 alone saturates. -/
theorem Fmt.decode_le_maxCode {f : Fmt} (hsat : f.sat → f.e = 4 ∧ f.m = 3) {x : Nat} {n : Bool} {m : Nat} {e : Int}
    (h : f.decode x = .fin n m e) : x % 2 ^ (f.e + f.m) ≤ f.maxCode := by
  obtain ⟨-, htop, -⟩ := Fmt.decode_eq_fin h
  have hex : x / 2 ^ f.m % 2 ^ f.e < 2 ^ f.e := Nat.mod_lt _ (Nat.two_pow_pos _)
  have hfr : x % 2 ^ f.m < 2 ^ f.m := Nat.mod_lt _ (Nat.two_pow_pos _)
  rw [Fmt.magnitude_eq]
  unfold Fmt.maxCode
  split
  · next hs =>
    obtain ⟨he, hm⟩ := hsat hs
    simp only [he, hm, hs, true_implies] at *
    omega
  · next hs =>
    have hlt : x / 2 ^ f.m % 2 ^ f.e + 1 ≤ 2 ^ f.e - 1 := by
      have : x / 2 ^ f.m % 2 ^ f.e ≠ 2 ^ f.e - 1 := fun hx => htop ⟨hx, fun h => absurd h hs⟩
      omega
    have := Nat.mul_le_mul_right (2 ^ f.m) hlt
    rw [Nat.add_mul, Nat.one_mul] at this
    omega

/-- An encoding is its sign bit and its magnitude code. -/
theorem Fmt.signBit_add_magnitude {f : Fmt} {x : Nat} (hx : x < 2 ^ f.width) :
    f.signBit (x.testBit (f.e + f.m)) + x % 2 ^ (f.e + f.m) = x := by
  have hx' : x / 2 ^ (f.e + f.m) < 2 := by
    rw [Nat.div_lt_iff_lt_mul (Nat.two_pow_pos _), ← Nat.pow_succ']
    rwa [show (f.e + f.m).succ = f.width by unfold Fmt.width; omega]
  have hdiv := Nat.div_add_mod x (2 ^ (f.e + f.m))
  rw [Nat.testBit_eq_decide_div_mod_eq, Nat.mod_eq_of_lt hx']
  rcases Nat.eq_zero_or_pos (x / 2 ^ (f.e + f.m)) with h0 | hpos
  · simpa [h0, Fmt.signBit] using hdiv
  · have h1 : x / 2 ^ (f.e + f.m) = 1 := Nat.le_antisymm (Nat.lt_succ_iff.1 hx') hpos
    simpa [h1, Fmt.signBit] using hdiv

theorem sat_of_mem_formats {f : Fmt} (hf : f ∈ formats) : f.sat → f.e = 4 ∧ f.m = 3 := by
  revert f; decide

/-- R69: rounding keeps a number that its format holds. -/
theorem Fmt.roundD_decode {f : Fmt} (hsat : f.sat → f.e = 4 ∧ f.m = 3) (mode : Mode) {x : Nat} {n : Bool} {m : Nat} {e : Int}
    (hx : x < 2 ^ f.width) (h : f.decode x = .fin n m e) : f.roundD mode (dyadicOf n m e) n = x := by
  obtain ⟨hscaled, hcode⟩ := Fmt.decode_scaled h
  obtain ⟨hn, -⟩ := Fmt.decode_eq_fin h
  have hmax : f.codeOf m e ≤ f.maxCode := hcode ▸ Fmt.decode_le_maxCode hsat h
  calc f.roundD mode (dyadicOf n m e) n
      = f.signBit n + f.codeOf m e := by rw [Fmt.roundD_dyadicOf, Fmt.round_scaled hscaled hmax]
    _ = f.signBit (x.testBit (f.e + f.m)) + x % 2 ^ (f.e + f.m) := by rw [hn, hcode]
    _ = x := Fmt.signBit_add_magnitude hx

/-! ### Invalid operations -/

theorem FVal.isNan_iff {v : FVal} : v.isNan ↔ v = .nan := by
  cases v <;> simp [FVal.isNan]

theorem FVal.nan_mul (v : FVal) : FVal.mul .nan v = .nan := rfl

theorem FVal.mul_nan (v : FVal) : v.mul .nan = .nan := by
  simp [FVal.mul, FVal.isNan]

/-- R68: zero times infinity is invalid, on either side. -/
theorem FVal.inf_mul_zero (n : Bool) {v : FVal} (hv : v.isZero) : FVal.mul (.inf n) v = .nan ∧ v.mul (.inf n) = .nan := by
  cases v with
  | fin s m e => simp [FVal.mul, FVal.isNan, FVal.isInf, hv]
  | nan => simp [FVal.isZero] at hv
  | inf s => simp [FVal.isZero] at hv

theorem sumRound_nan {f : Fmt} {mode : Mode} {ts : List FVal} (h : .nan ∈ ts) : sumRound f mode ts = f.nan :=
  if_pos (List.any_eq_true.2 ⟨_, h, rfl⟩)

/-- R68: infinities of both signs in one sum are invalid. -/
theorem sumRound_inf_inf {f : Fmt} {mode : Mode} {ts : List FVal} (hpos : .inf false ∈ ts) (hneg : .inf true ∈ ts) :
    sumRound f mode ts = f.nan := by
  have hp : (ts.any fun t => t.isInf && !t.neg) = true := List.any_eq_true.2 ⟨_, hpos, rfl⟩
  have hn : (ts.any fun t => t.isInf && t.neg) = true := List.any_eq_true.2 ⟨_, hneg, rfl⟩
  simp [sumRound, hp, hn]

theorem fMul_of_nan {f : Fmt} {mode : Mode} {a b : Nat} (h : (f.decode a).mul (f.decode b) = .nan) : fMul f mode a b = f.nan := by
  rw [fMul, h]

theorem fFma_of_nan {f : Fmt} {a b c : Nat} (h : (f.decode a).mul (f.decode b) = .nan ∨ f.decode c = .nan) : fFma f a b c = f.nan :=
  sumRound_nan (by rcases h with h | h <;> simp [h])

/-- R68: a NaN operand. -/
theorem arithmetic_nan {f : Fmt} {a b : Nat} (mode : Mode) (c : Nat) (h : f.decode a = .nan ∨ f.decode b = .nan) :
    fAdd f mode a b = f.nan ∧ fSub f mode a b = f.nan ∧ fMul f mode a b = f.nan ∧ fFma f a b c = f.nan ∧ fFma f c a b = f.nan := by
  have hmul : (f.decode a).mul (f.decode b) = .nan := by
    rcases h with h | h
    · rw [h, FVal.nan_mul]
    · rw [h, FVal.mul_nan]
  refine ⟨sumRound_nan ?_, sumRound_nan ?_, fMul_of_nan hmul, fFma_of_nan (.inl hmul), fFma_of_nan ?_⟩
  · rcases h with h | h <;> simp [h]
  · rcases h with h | h <;> simp [h, fNeg]
  · exact h.imp_left fun h => by rw [h, FVal.mul_nan]

/-- R68: the sum of opposite infinities. -/
theorem fAdd_inf_inf {f : Fmt} {a b : Nat} {n : Bool} (mode : Mode) (ha : f.decode a = .inf n) (hb : f.decode b = .inf !n) :
    fAdd f mode a b = f.nan := by
  cases n with
  | false => exact sumRound_inf_inf (by simp [ha]) (by simp [hb])
  | true => exact sumRound_inf_inf (by simp [hb]) (by simp [ha])

/-! ### The obligation -/

/-- Settles O3, by the encoding's parts: a finite encoding decodes to a significand and an exponent that `round` finds again without a
remainder, so that sign bit and magnitude code come back in every mode; an invalid operation leaves a NaN or two opposite infinities
among the terms, or a NaN product. -/
theorem floatCorners : Obligations.FloatCorners := by
  refine ⟨fun f hf mode x n m e hx h => Fmt.roundD_decode (sat_of_mem_formats hf) mode hx h, fun f _ mode a b c =>
    ⟨fun h => arithmetic_nan mode c (h.imp FVal.isNan_iff.1 FVal.isNan_iff.1), fun n ha hb => fAdd_inf_inf mode ha hb, fun n ha hb => ?_⟩⟩
  obtain ⟨hab, hba⟩ := FVal.inf_mul_zero n hb
  rw [← ha] at hab hba
  exact ⟨fMul_of_nan hab, fMul_of_nan hba, fFma_of_nan (.inl hab)⟩

end Sys2Proof.Machine
end
